-- ==== Sys2Proof/Word.lean ====
section
/-! DEFINITION. Word types, their plainest helpers, and sorted tables: the plain data that State is made of. -/

namespace Sys2Proof

/-- One register of a lane, and one instruction word (R16, R52). -/
abbrev Word := BitVec 64

/-- One byte of memory. -/
abbrev Byte := BitVec 8

/-- A set of lanes of one warp: bit l is lane l. -/
abbrev Mask := BitVec 32

/-- A sparse table by number, sorted by key, no key twice. -/
abbrev Tab (α : Type) := List (Nat × α)

/-- What a table holds at a key. -/
def Tab.find? {α : Type} : Tab α → Nat → Option α
  | [], _ => none
  | (k, v) :: t, n => if k = n then some v else if n < k then none else Tab.find? t n

/-- What a table holds at a key, or `d` where it lists nothing. -/
def Tab.get {α : Type} (d : α) (t : Tab α) (n : Nat) : α := (t.find? n).getD d

/-- Removes a key. -/
def Tab.erase {α : Type} : Tab α → Nat → Tab α
  | [], _ => []
  | (k, v) :: t, n => if k = n then t else if n < k then (k, v) :: t else (k, v) :: Tab.erase t n

/-- Lists a value at a key. -/
def Tab.set {α : Type} : Tab α → Nat → α → Tab α
  | [], n, v => [(n, v)]
  | (k, w) :: t, n, v => if k = n then (n, v) :: t else if n < k then (n, v) :: (k, w) :: t else (k, w) :: Tab.set t n v

/-- Keys strictly rising from a lower bound. -/
def Tab.sortedFrom {α : Type} : Nat → Tab α → Bool
  | _, [] => true
  | n, (k, _) :: t => decide (n ≤ k) && Tab.sortedFrom (k + 1) t

/-- Lane `l` belongs to the mask. -/
def Mask.has (m : Mask) (l : Nat) : Bool := m.getLsbD l

/-- The mask of one lane. -/
def Mask.one (l : Nat) : Mask := BitVec.ofNat 32 (2 ^ l)

/-- The lanes of a mask, ascending. -/
def Mask.lanes (m : Mask) : List Nat := (List.range 32).filter fun l => m.getLsbD l

/-- The mask that holds the listed lanes. -/
def Mask.ofLanes (ls : List Nat) : Mask := ls.foldl (fun m l => m ||| Mask.one l) 0

end Sys2Proof
end

