-- ==== Sys2Proof/Config.lean ====
section
/-! DEFINITION. What the spec leaves to each part or leaves open: opaque constants, applied to the plain counter
`State.free` (or to the place the value stands for). Nothing can evaluate them, so a claim holds for every value. -/

namespace Sys2Proof.Config

/-- Which of the free future-table entries an asynchronous instruction takes (R344 names none). Log entry 9. -/
opaque futurePick : Nat → Nat

/-- Which free Palette slot psget or a reserve refill takes: "not repeatable" (R379). Log entry 10. -/
opaque palettePick : Nat → Nat

/-- The bits under a poisoned element of a collective's result: "not specified" (R455). Log entry 11. -/
opaque poisonBits : Nat → Word

/-- Which index psdq returns after software has written Palette's storage at QBASE (R378). Log entry 12. -/
opaque queuePick : Nat → Nat

/-- What a read of Palette's storage at QBASE returns (R378). Log entry 12. -/
opaque queueByte : Nat → Byte

/-- The signatures of an attestation report, as a number (R429). Log entry 17. -/
opaque signature : Nat → Nat

/-- Bytes that a lane or an engine reads from host memory, or from an offset of a control region that no chapter describes
(R195, R255). Log entry 22. -/
opaque outsideByte : Nat → Byte

/-- Page and identity of the message with which a port reports a failure to the service OS (R282, R283). Log entry 23. -/
opaque portMessage : Nat → Nat × Nat

/-- Which of the representatives within tolerance a written-back line merges with, or none, where an instruction writes it
back (R209). Log entry 24. -/
opaque mergePick : Nat → Nat

/-- The code that an integer constant supplies where the spec fixes none, by the type's code, the binary8 variant (0 outside `cvt`) and
the constant: at a binary8 type, and at x8, for a value that the format does not hold (R56). Log entry 76. -/
opaque constBits : Nat → Nat → Int → Nat

/-- Which line leaves a full L1 or instruction cache (R16 names none). Log entry 14. -/
opaque victim : Nat → Nat

end Sys2Proof.Config
end

