-- ==== Sys2Proof/Syntax.lean ====
section
/-! DEFINITION. The instructions and events of the opcode table as terms. A word's fields keep the manual's names and
widths (R54, R61-R65, R69); type, rounding and scope codes are names. -/

namespace Sys2Proof

/-- Type codes (R66). -/
inductive Ty
  | i8 | i16 | i32 | i64 | n8 | n16 | n32 | n64 | f16 | bf16 | f32 | f64
  | b8p1 | b8p2 | b8p3 | b8p4 | b8p5 | b8p6 | b8p7 | q4 | i4 | n4 | x8 | dw | wt | b128
  deriving DecidableEq, Repr, Inhabited

/-- Rounding codes (R67). -/
inductive Rm
  | rne | rtz | rdn | rup | rna | sr
  deriving DecidableEq, Repr, Inhabited

/-- Scope codes (R68); `no` is code 0, no scope. -/
inductive Scope
  | no | ln | wp | tm | cl | rg | di | pk | hs | lk | pd | wd
  deriving DecidableEq, Repr, Inhabited

/-- The operations of a pair half (R70). -/
inductive HOp
  | add | sub | mul | min | max | and | or | xor | andn | shl | shr | sar | mov | fadd | fsub | fmul | fmin | fmax
  deriving DecidableEq, Repr, Inhabited

/-- The half types of a pair (R70). -/
inductive HTy
  | i32 | i64 | n32 | n64 | f16 | bf16 | f32 | f64
  deriving DecidableEq, Repr, Inhabited

/-- Stall count and guard of an F-form word (R54, R55). -/
structure Hdr where
  stall : BitVec 3
  gneg : Bool
  gp : BitVec 3
  deriving DecidableEq, Repr, Inhabited

/-- ALU class (R61). -/
structure Alu where
  h : Hdr
  d : BitVec 8
  a : BitVec 8
  b : BitVec 8
  c : BitVec 8
  ty : Ty
  rm : Rm
  sat : Bool
  lo : Bool
  opx : BitVec 3
  deriving DecidableEq, Repr, Inhabited

/-- Immediate class (R62). -/
structure Imm where
  h : Hdr
  d : BitVec 8
  a : BitVec 8
  b : BitVec 8
  imm : BitVec 16
  ty : Ty
  deriving DecidableEq, Repr, Inhabited

/-- Memory class (R63). -/
structure Mem where
  h : Hdr
  d : BitVec 8
  a : BitVec 8
  b : BitVec 8
  imm : BitVec 12
  ty : Ty
  sc : Scope
  deriving DecidableEq, Repr, Inhabited

/-- Engine class (R64). -/
structure Eng where
  h : Hdr
  d : BitVec 8
  a : BitVec 8
  b : BitVec 8
  c : BitVec 8
  sc : Scope
  ty : Ty
  mod : BitVec 4
  deriving DecidableEq, Repr, Inhabited

/-- Matrix class (R65). -/
structure Mx where
  h : Hdr
  d : BitVec 8
  a : BitVec 8
  b : BitVec 8
  e : BitVec 8
  acc : BitVec 4
  k : BitVec 3
  imm5 : BitVec 5
  z : Bool
  deriving DecidableEq, Repr, Inhabited

/-- Branch class (R65). -/
structure Br where
  h : Hdr
  d : BitVec 8
  a : BitVec 8
  b : BitVec 8
  off : BitVec 21
  deriving DecidableEq, Repr, Inhabited

/-- One half of a pair word, less its operation (R69). -/
structure Half where
  ty : HTy
  gneg : Bool
  gp : BitVec 3
  d : BitVec 7
  imm : Bool
  s : BitVec 8
  deriving DecidableEq, Repr, Inhabited

/-- A pair word (R69), less its first half's operation, which is the constructor's name. -/
structure Pair where
  stall : BitVec 2
  h1 : Half
  op2 : HOp
  h2 : Half
  deriving DecidableEq, Repr, Inhabited

/-- An engine queue that starts an entry (R347, R338): a core's copy queue, or a command chain. -/
inductive QueueRef
  | copy (core q : Nat)
  | chain (k : Nat)
  deriving DecidableEq, Repr, Inhabited

/-- A packet of a peer's message that a port receives (R278-R289): what it asks of this package. `ctx` is the peer context that the
sender's capability names, none for a peer aperture; a write's packet carries its offset in a message of `total` bytes, with the poison
of its granules; `fen` as R281. -/
inductive Packet
  | write (ctx : Option Nat) (va off total : Nat) (data : List Byte) (bad : List Bool) (fen : Bool)
  | read (ctx : Option Nat) (va len : Nat) (fen : Bool)
  | atomic (ctx : Option Nat) (ty : Ty) (cas : Bool) (va : Nat) (b c : Word) (fen : Bool)
  | record (e : Nat) (rec : List Word) (lane core pkg : Nat) (fen : Bool)
  /-- A packet that asks for what no port supports (R272). -/
  | unsupported
  deriving DecidableEq, Repr, Inhabited

/-- What comes back for a message (R280, R283, R288): its acknowledgement, data of an `rget` or the old value of an atomic from an
offset on, a refusal, or a unit of allowance. -/
inductive Reply
  | done
  | data (off : Nat) (bytes : List Byte) (bad : List Bool)
  | refused
  | unit
  deriving DecidableEq, Repr, Inhabited

/-- What one rank brings to a collective: for each element the f32 code of its own sum, or the pixels (R294-R299), and
whether any value of it is poisoned (R455). -/
structure RankData where
  rank : Nat
  vals : List Nat
  bad : List Bool
  deriving DecidableEq, Repr, Inhabited

/-- The rows of spec/opcode_table.json: instruction words first, in the table's order, then the steps of the part that
no word starts. -/
inductive Instr
  | add (f : Alu)
  | sub (f : Alu)
  | mul (f : Alu)
  | mulh (f : Alu)
  | mad (f : Alu)
  | div (f : Alu)
  | rem (f : Alu)
  | min (f : Alu)
  | max (f : Alu)
  | abs (f : Alu)
  | neg (f : Alu)
  | addc (f : Alu)
  | subb (f : Alu)
  | sad (f : Alu)
  | lea (f : Alu)
  | dot4 (f : Alu)
  | dot2 (f : Alu)
  | addImm (f : Imm)
  | subImm (f : Imm)
  | mulImm (f : Imm)
  | minImm (f : Imm)
  | maxImm (f : Imm)
  | and (f : Alu)
  | or (f : Alu)
  | xor (f : Alu)
  | andn (f : Alu)
  | not (f : Alu)
  | shl (f : Alu)
  | shr (f : Alu)
  | sar (f : Alu)
  | rot (f : Alu)
  | popc (f : Alu)
  | clz (f : Alu)
  | ctz (f : Alu)
  | brev (f : Alu)
  | bfx (f : Alu)
  | bfi (f : Alu)
  | sel (f : Alu)
  | mov (f : Alu)
  | movw (f : Imm)
  | andImm (f : Imm)
  | orImm (f : Imm)
  | xorImm (f : Imm)
  | shlImm (f : Imm)
  | shrImm (f : Imm)
  | sarImm (f : Imm)
  | rotImm (f : Imm)
  | cmp (f : Alu)
  | fcmp (f : Alu)
  | plop (f : Alu)
  | pmov (f : Alu)
  | fadd (f : Alu)
  | fsub (f : Alu)
  | fmul (f : Alu)
  | fma (f : Alu)
  | fmin (f : Alu)
  | fmax (f : Alu)
  | fcls (f : Alu)
  | fscale (f : Alu)
  | fract (f : Alu)
  | frnd (f : Alu)
  | fdot2 (f : Alu)
  | cvt (f : Alu)
  | frcp (f : Alu)
  | frsq (f : Alu)
  | fsqrt (f : Alu)
  | fdiv (f : Alu)
  | fexp2 (f : Alu)
  | flog2 (f : Alu)
  | fsin (f : Alu)
  | fcos (f : Alu)
  | xfm (f : Alu)
  | shfl (f : Alu)
  | vote (f : Alu)
  | redux (f : Alu)
  | perm (f : Alu)
  | rdln (f : Alu)
  | wrln (f : Alu)
  | scan (f : Alu)
  | pairAdd (f : Pair)
  | pairSub (f : Pair)
  | pairMul (f : Pair)
  | pairMin (f : Pair)
  | pairMax (f : Pair)
  | pairAnd (f : Pair)
  | pairOr (f : Pair)
  | pairXor (f : Pair)
  | pairAndn (f : Pair)
  | pairShl (f : Pair)
  | pairShr (f : Pair)
  | pairSar (f : Pair)
  | pairMov (f : Pair)
  | pairFadd (f : Pair)
  | pairFsub (f : Pair)
  | pairFmul (f : Pair)
  | pairFmin (f : Pair)
  | pairFmax (f : Pair)
  | ldG (f : Mem)
  | ldSp (f : Mem)
  | ldGs (f : Mem)
  | stG (f : Mem)
  | stSp (f : Mem)
  | stGs (f : Mem)
  | ldwG (f : Mem)
  | ldwSp (f : Mem)
  | ldwGs (f : Mem)
  | stp (f : Mem)
  | pfl (f : Mem)
  | cwb (f : Mem)
  | cinv (f : Mem)
  | icinv (f : Mem)
  | spmapMap (f : Eng)
  | spmapUnmap (f : Eng)
  | spmapFlush (f : Eng)
  | spmapInval (f : Eng)
  | lfen (f : Alu)
  | wmrg (f : Alu)
  | wtst (f : Alu)
  | wwait (f : Alu)
  | wfen (f : Eng)
  | wscp (f : Eng)
  | wloc (f : Alu)
  | atomG (f : Eng)
  | atomSp (f : Eng)
  | atomGs (f : Eng)
  | atomr (f : Eng)
  | mwait (f : Eng)
  | seminc (f : Eng)
  | semwGe (f : Eng)
  | semwTake (f : Eng)
  | semrd (f : Eng)
  | semset (f : Eng)
  | ldd (f : Mem)
  | std (f : Mem)
  | atomdAdd (f : Eng)
  | atomdMrg (f : Eng)
  | dcvt (f : Alu)
  | stepadv (f : Eng)
  | steprd (f : Alu)
  | kdecl (f : Mx)
  | mma (f : Mx)
  | mmaa (f : Mx)
  | vxm (f : Mx)
  | mzero (f : Mx)
  | mld (f : Mx)
  | mst (f : Mx)
  | mrd (f : Mx)
  | mwr (f : Mx)
  | mvbnd (f : Mx)
  | matrixEngineOpStart (core : Nat)
  | cpy (f : Eng)
  | cpyw (f : Eng)
  | cpyg (f : Eng)
  | chn (f : Eng)
  | qfen (f : Eng)
  | qtail (f : Eng)
  | qpop (f : Eng)
  | qpush (f : Eng)
  | millRd (f : Eng)
  | millClr (f : Eng)
  | fwait (f : Eng)
  | ftst (f : Eng)
  | fcan (f : Eng)
  | fmov (f : Eng)
  | fst (f : Eng)
  | fld (f : Eng)
  | trav (f : Eng)
  | tvis (f : Eng)
  | psget (f : Eng)
  | psput (f : Eng)
  | psq (f : Eng)
  | psdq (f : Eng)
  | amp (f : Eng)
  | occq (f : Eng)
  | smp (f : Eng)
  | send (f : Eng)
  | rget (f : Eng)
  | rput (f : Eng)
  | ratom (f : Eng)
  | coll (f : Eng)
  | bkt (f : Eng)
  | bra (f : Br)
  | brx (f : Alu)
  | call (f : Br)
  | calx (f : Alu)
  | ret (f : Alu)
  | land (f : Alu)
  | hlp (f : Br)
  | exit (f : Alu)
  | kill (f : Alu)
  | teamEnd (core : Nat)
  | bar (f : Alu)
  | barg (f : Alu)
  | nap (f : Imm)
  | napExpiry (core slot : Nat)
  | trap (f : Imm)
  | brk (f : Imm)
  | tret (f : Alu)
  | rdsys (f : Imm)
  | wrsys (f : Imm)
  | dfacWrite (f : Imm)
  | srseedWrite (f : Imm)
  | tlbiPg (f : Eng)
  | tlbiCtx (f : Eng)
  | capw (f : Eng)
  | capi (f : Eng)
  | registerWriteback (core k : Nat)
  | loopBufferFill (core sub : Nat)
  | trapEntry (cause detail : Nat)
  | haRequestPerform (k : Nat)
  | scratchpadPortPerform (k : Nat)
  | monitorDeadline (k : Nat)
  | monitorPoll (k : Nat)
  | monitorSwapOut (core : Nat)
  | barrierTimeout (core slot lane : Nat)
  | closedTickPublish (agent : Option Nat)
  | accessCloseTimeout (k : Nat)
  | l2Writeback (line : Nat) (rep : Option Nat) (compress : Bool)
  | futureResolve (core ent : Nat)
  | queueEntryStart (q : QueueRef)
  | chainNop (k : Nat)
  | chainCopy (k : Nat)
  | chainFill (k : Nat)
  | chainGather (k : Nat)
  | chainSeminc (k : Nat)
  | chainSemwait (k : Nat)
  | chainWaitseq (k : Nat)
  | chainSubmit (k : Nat)
  | chainLink (k : Nat)
  | chainWaitMet (k : Nat)
  | chainEntryComplete (k : Nat)
  | chainEnable (k : Nat) (ctl : Word)
  | chainTailWrite (k : Nat) (tail : Word)
  | millChainStart (core : Nat)
  | iuInstanceStart (core : Nat)
  | nodeDispatch (node : Nat)
  | drainLimitExpiry (node : Nat)
  | backfillStop (cls : Nat)
  | forcedSave (core : Nat)
  | nodeComplete (node : Nat)
  | reExecutionRequest (ctx nid : Nat)
  | packetReceive (conn seq epoch : Nat) (p : Packet)
  | fencedMessagePerform (conn seq : Nat)
  | recordPlace (k : Nat)
  | ackReceive (conn seq : Nat) (r : Reply)
  | packetRetransmit (conn seq : Nat)
  | connectionFail (conn : Nat)
  | connectionOpen (conn : Nat) (cctl : Word)
  | connectionUp (conn : Nat)
  | connectionClose (conn : Nat)
  | connectionClosed (conn : Nat)
  | receiveEndpointWrite (e : Nat) (dw0 dw1 : Word)
  | keyEpochInstall (conn : Nat) (kctl : Word)
  | keyEpochRetire (conn : Nat) (kctl : Word)
  | rrcFetchComplete (k : Nat) (line : Option (List Byte)) (bad : List Bool)
  | collectivePerform (k : Nat) (others : List RankData) (agree : Bool)
  | collectiveYield (k : Nat)
  | collectiveSemWaitMet (k : Nat)
  | imsicMessage (k : Nat)
  | shootdownPage (cmd : Word)
  | shootdownContext (cmd : Word)
  | shootdownAll (cmd : Word)
  | shootdownComplete
  | hostRead (off size : Nat)
  | hostPostedWrite (off : Nat) (data : List Byte)
  | hostAtomicop (off size : Nat) (op : BitVec 4) (b c : BitVec 128)
  | semVStore (k : Nat)
  | semIncrementPort (k : Nat)
  | escalationResume (core slot : Nat)
  | escalationEndFrozen (core slot : Nat)
  | escalationEndTeam (core slot : Nat)
  | registerWrite (die addr : Nat) (val : Word)
  | moduleReset (spares : List Nat) (images : List (Nat × Nat × Bool))
  | leaderBootClaim (die : Nat)
  | leaderTakeoverClaim (die : Nat)
  | lockstepCheckpoint (die : Nat)
  | lockstepDivergence (die : Nat)
  | attestationReport (nonce : Nat)
  | throttle (coreStep haStep : Nat)
  | thermalShutdown (die : Nat)
  | thermalSample (die temp : Nat)
  | droopWindow (die mv : Nat)
  | correctedError (die struct : Nat)
  | poisonCreate (addr : Nat)
  | coreFieldFailure (core : Nat)
  | hbmChannelFailure (agent : Nat)
  | linkLaneFailure (port : Nat)
  | instructionFetchReturn (core line : Nat)
  | serviceOsEndsTeam (core : Nat)
  deriving DecidableEq, Repr, Inhabited

/-- Code of a type (R66). -/
def Ty.code : Ty → BitVec 5
  | .i8 => 0x00 | .i16 => 0x01 | .i32 => 0x02 | .i64 => 0x03 | .n8 => 0x04 | .n16 => 0x05 | .n32 => 0x06 | .n64 => 0x07
  | .f16 => 0x08 | .bf16 => 0x09 | .f32 => 0x0A | .f64 => 0x0B | .b8p1 => 0x0C | .b8p2 => 0x0D | .b8p3 => 0x0E
  | .b8p4 => 0x0F | .b8p5 => 0x10 | .b8p6 => 0x11 | .b8p7 => 0x12 | .q4 => 0x13 | .i4 => 0x14 | .n4 => 0x15
  | .x8 => 0x16 | .dw => 0x17 | .wt => 0x18 | .b128 => 0x19

/-- Type of a code; the codes 0x1A-0x1F are reserved (R66). -/
def Ty.ofCode (c : Nat) : Option Ty :=
  [Ty.i8, .i16, .i32, .i64, .n8, .n16, .n32, .n64, .f16, .bf16, .f32, .f64, .b8p1, .b8p2, .b8p3, .b8p4, .b8p5, .b8p6,
    .b8p7, .q4, .i4, .n4, .x8, .dw, .wt, .b128][c]?

/-- Subelement width in bits (R66). -/
def Ty.width : Ty → Nat
  | .i8 | .n8 | .b8p1 | .b8p2 | .b8p3 | .b8p4 | .b8p5 | .b8p6 | .b8p7 | .x8 => 8
  | .i16 | .n16 | .f16 | .bf16 => 16
  | .i32 | .n32 | .f32 => 32
  | .i64 | .n64 | .f64 | .dw | .wt => 64
  | .q4 | .i4 | .n4 => 4
  | .b128 => 128

/-- Bytes of an access of the type (R63). -/
def Ty.bytes (t : Ty) : Nat := t.width / 8

/-- Subelements of one register (R66). -/
def Ty.count (t : Ty) : Nat := 64 / t.width

/-- Signed integer types (R66). -/
def Ty.signed : Ty → Bool
  | .i8 | .i16 | .i32 | .i64 | .i4 => true
  | _ => false

/-- The set I of the integer types 0x00-0x07 (05, before R113). -/
def Ty.isI : Ty → Bool
  | .i8 | .i16 | .i32 | .i64 | .n8 | .n16 | .n32 | .n64 => true
  | _ => false

/-- The set F: f16, bf16, f32 and f64. -/
def Ty.isF : Ty → Bool
  | .f16 | .bf16 | .f32 | .f64 => true
  | _ => false

/-- The binary8 types (R87). -/
def Ty.isB8 : Ty → Bool
  | .b8p1 | .b8p2 | .b8p3 | .b8p4 | .b8p5 | .b8p6 | .b8p7 => true
  | _ => false

/-- The 4-bit types. -/
def Ty.is4 : Ty → Bool
  | .q4 | .i4 | .n4 => true
  | _ => false

/-- The integer types of any width (R84). -/
def Ty.isInt : Ty → Bool
  | .i4 | .n4 => true
  | t => t.isI

/-- The set A of the type codes 0x00-0x18 (R119). -/
def Ty.isA (t : Ty) : Bool := t != .b128

/-- The set M: the codes 0x00-0x12 and 0x16-0x19 (R213). -/
def Ty.isM (t : Ty) : Bool := !t.is4

/-- Code of a rounding mode (R67). -/
def Rm.code : Rm → BitVec 3
  | .rne => 0 | .rtz => 1 | .rdn => 2 | .rup => 3 | .rna => 4 | .sr => 5

/-- Rounding mode of a code; 6 and 7 are reserved (R67). -/
def Rm.ofCode (c : Nat) : Option Rm := [Rm.rne, .rtz, .rdn, .rup, .rna, .sr][c]?

/-- Code of a scope (R68). -/
def Scope.code : Scope → BitVec 4
  | .no => 0 | .ln => 1 | .wp => 2 | .tm => 3 | .cl => 4 | .rg => 5 | .di => 6 | .pk => 7 | .hs => 8 | .lk => 9 | .pd => 10
  | .wd => 11

/-- Scope of a code; 12-15 are reserved (R68). -/
def Scope.ofCode (c : Nat) : Option Scope :=
  [Scope.no, .ln, .wp, .tm, .cl, .rg, .di, .pk, .hs, .lk, .pd, .wd][c]?

/-- Code of a half operation (R70). -/
def HOp.code : HOp → BitVec 5
  | .add => 0x00 | .sub => 0x01 | .mul => 0x02 | .min => 0x03 | .max => 0x04 | .and => 0x05 | .or => 0x06 | .xor => 0x07
  | .andn => 0x08 | .shl => 0x09 | .shr => 0x0A | .sar => 0x0B | .mov => 0x0C | .fadd => 0x0D | .fsub => 0x0E
  | .fmul => 0x0F | .fmin => 0x10 | .fmax => 0x11

/-- Half operation of a code; 0x12-0x1F are reserved (R70). -/
def HOp.ofCode (c : Nat) : Option HOp :=
  [HOp.add, .sub, .mul, .min, .max, .and, .or, .xor, .andn, .shl, .shr, .sar, .mov, .fadd, .fsub, .fmul, .fmin, .fmax][c]?

/-- Code of a half type (R70). -/
def HTy.code : HTy → BitVec 3
  | .i32 => 0 | .i64 => 1 | .n32 => 2 | .n64 => 3 | .f16 => 4 | .bf16 => 5 | .f32 => 6 | .f64 => 7

/-- Half type of a code (R70). -/
def HTy.ofCode (c : Nat) : HTy :=
  match c with
  | 0 => .i32 | 1 => .i64 | 2 => .n32 | 3 => .n64 | 4 => .f16 | 5 => .bf16 | 6 => .f32 | _ => .f64

/-- The type a half type names (R70). -/
def HTy.ty : HTy → Ty
  | .i32 => .i32 | .i64 => .i64 | .n32 => .n32 | .n64 => .n64 | .f16 => .f16 | .bf16 => .bf16 | .f32 => .f32 | .f64 => .f64

/-- What an operand byte names (R56). -/
inductive Opnd
  | v (n : Nat)
  | s (n : Nat)
  | nil
  | lane | sub | warp | teamx | teamy | gx | gy
  | sel (n : Nat)
  | int (k : Int)
  | flt (n : Nat)
  | rsv
  deriving DecidableEq, Repr, Inhabited

/-- Reads an operand byte (R56). -/
def Opnd.ofByte (x : BitVec 8) : Opnd :=
  let n := x.toNat
  if n < 0x80 then .v n else if n < 0xC0 then .s (n - 0x80)
  else if n = 0xC0 then .nil else if n = 0xC1 then .lane else if n = 0xC2 then .sub else if n = 0xC3 then .warp
  else if n = 0xC4 then .teamx else if n = 0xC5 then .teamy else if n = 0xC6 then .gx else if n = 0xC7 then .gy
  else if n < 0xD0 then .sel (n - 0xC8) else if n < 0xF0 then .int ((n : Int) - 0xE0)
  else if n < 0xFC then .flt (n - 0xF0) else .rsv

/-- The operand byte `nil`, which an unused field must hold (R58). -/
def nilByte : BitVec 8 := 0xC0

end Sys2Proof
end

