-- ==== Sys2Proof/Machine/Fp.lean ====
section
/-! DEFINITION. Number formats to the last bit: reading a code, the exact values between, rounding and overflow
(R84-R100), conversion (R101-R106), and the exact arithmetic of groups 3 and 4 (R125-R132). -/

namespace Sys2Proof.Machine

/-- Special codes of a floating format (R85, R87, R88, R91). -/
inductive Special
  | ieee
  | b8 (inf : Bool)
  | q4
  deriving DecidableEq, Repr

/-- A floating format: exponent bits, trailing bits, bias, a sign bit, special codes (R85). -/
structure Fmt where
  E : Nat
  T : Nat
  B : Nat
  sgn : Bool
  sp : Special
  deriving DecidableEq, Repr

def f16 : Fmt := ⟨5, 10, 15, true, .ieee⟩
def bf16 : Fmt := ⟨8, 7, 127, true, .ieee⟩
def f32 : Fmt := ⟨8, 23, 127, true, .ieee⟩
def f64 : Fmt := ⟨11, 52, 1023, true, .ieee⟩
def q4 : Fmt := ⟨2, 1, 1, true, .q4⟩

/-- binary8 of precision p in a variant (R87, R88). -/
def b8 (p : Nat) (un inf : Bool) : Fmt :=
  if un then ⟨9 - p, p - 1, 2 ^ (8 - p), false, .b8 inf⟩ else ⟨8 - p, p - 1, 2 ^ (7 - p), true, .b8 inf⟩

/-- A value of a floating format: (-1)^neg × m × 2^e, an infinity, or NaN. -/
inductive FV
  | nan
  | inf (neg : Bool)
  | fin (neg : Bool) (m : Nat) (e : Int)
  deriving DecidableEq, Repr

/-- An exact real before rounding: (-1)^neg × n / d × 2^e. -/
inductive XV
  | nan
  | inf (neg : Bool)
  | num (neg : Bool) (n d : Nat) (e : Int)
  deriving DecidableEq, Repr

def FV.x : FV → XV
  | .nan => .nan
  | .inf s => .inf s
  | .fin s m e => .num s m 1 e

def FV.neg : FV → FV
  | .nan => .nan
  | .inf s => .inf !s
  | .fin s m e => .fin (!s) m e

def FV.isNan : FV → Bool
  | .nan => true
  | _ => false

/-- Width of the code. -/
def Fmt.width (f : Fmt) : Nat := f.E + f.T + (if f.sgn then 1 else 0)

/-- Greatest finite code without its sign (R86, R89, R91). -/
def Fmt.maxCode (f : Fmt) : Nat :=
  match f.sp with
  | .ieee => (2 ^ f.E - 1) * 2 ^ f.T - 1
  | .b8 inf => 2 ^ (f.E + f.T) - 1 - (if f.sgn then 0 else 1) - (if inf then 1 else 0)
  | .q4 => 7

/-- Canonical NaN; q4 has none and takes +0 (R86, R95, R100). -/
def Fmt.nanCode (f : Fmt) : Nat :=
  match f.sp with
  | .ieee => 2 ^ (f.E + f.T) - 2 ^ (f.T - 1)
  | .b8 _ => if f.sgn then 0x80 else 0xFF
  | .q4 => 0

/-- A code's value (R85-R91). -/
def Fmt.val (f : Fmt) (c : Nat) : FV :=
  let s := f.sgn && c / 2 ^ (f.E + f.T) % 2 == 1
  let k := c % 2 ^ (f.E + f.T)
  let e := k / 2 ^ f.T
  let m := k % 2 ^ f.T
  let fin := if e = 0 then FV.fin s m (1 - f.B - f.T) else .fin s (m + 2 ^ f.T) (e - f.B - f.T)
  match f.sp with
  | .ieee => if e = 2 ^ f.E - 1 then (if m = 0 then .inf s else .nan) else fin
  | .b8 inf =>
    if c % 256 = f.nanCode then .nan else if inf && k == f.maxCode + 1 then .inf s else fin
  | .q4 => fin

/-- A sign and a code without it; binary8 has one zero (R87, R94). -/
def Fmt.pack (f : Fmt) (neg : Bool) (k : Nat) : Nat :=
  match f.sp with
  | .b8 _ => if neg && f.sgn && k != 0 then k + 2 ^ (f.E + f.T) else k
  | _ => if neg && f.sgn then k + 2 ^ (f.E + f.T) else k

/-- An infinite result (R100). -/
def Fmt.infinite (f : Fmt) (sat neg : Bool) : Nat :=
  if neg && !f.sgn then (if sat then 0 else f.nanCode)
  else if sat then f.pack neg f.maxCode
  else match f.sp with
    | .ieee => f.pack neg ((2 ^ f.E - 1) * 2 ^ f.T)
    | .b8 inf => if inf then f.pack neg (f.maxCode + 1) else f.nanCode
    | .q4 => f.pack neg f.maxCode

/-- floor(log2 (n / d)) for positive n and d. -/
def ilog (n d : Nat) : Int :=
  let l : Int := (Nat.log2 n : Int) - Nat.log2 d
  if n * 2 ^ (-l).toNat < d * 2 ^ l.toNat then l - 1 else l

/-- A quotient's whole part, remainder and divisor after scaling by 2^s. -/
def scaled (n d : Nat) (s : Int) : Nat × Nat × Nat :=
  let a := n * 2 ^ s.toNat
  let b := d * 2 ^ (-s).toNat
  (a / b, a % b, b)

/-- Whether the neighbour away from zero is taken (R97, R99); `rem / den` is the part of a grid step above the lower
neighbour, which is odd or even, and u the generator's draw. -/
def roundUp (rm : Rm) (neg odd : Bool) (u rem den : Nat) : Bool :=
  match rm with
  | .rne => den < 2 * rem || (den == 2 * rem && odd)
  | .rna => decide (den ≤ 2 * rem)
  | .rtz => false
  | .rdn => neg && rem != 0
  | .rup => !neg && rem != 0
  | .sr => decide (u * den < rem * 2 ^ 32)

/-- The greatest finite value is the result of an overflow in IEEE style (R100, second row). -/
def overflowsInward (rm : Rm) (neg : Bool) : Bool :=
  match rm with
  | .rtz => true
  | .rup => neg
  | .rdn => !neg
  | _ => false

/-- RND: rounds an exact value into the format, overflow by R100 (R97-R100). -/
def Fmt.round (f : Fmt) (rm : Rm) (sat : Bool) (u : Nat) : XV → Nat
  | .nan => f.nanCode
  | .inf s => f.infinite sat s
  | .num s n d e =>
    if n = 0 then f.pack s 0 else
    let q := max (ilog n d + e) (1 - f.B)
    let (k, rem, den) := scaled n d (e - q + f.T)
    let base := k + (q - 1 + f.B).toNat * 2 ^ f.T
    let code := base + if roundUp rm s (base % 2 == 1) u rem den then 1 else 0
    if s && !f.sgn then (if code = 0 ∨ sat then 0 else f.nanCode)
    else if code ≤ f.maxCode then f.pack s code
    else if sat || overflowsInward rm s then f.pack s f.maxCode
    else f.infinite false s

/-- Rounds to an integer (R97). -/
def roundInt (rm : Rm) (u : Nat) (s : Bool) (n d : Nat) (e : Int) : Int :=
  let (k, rem, den) := scaled n d e
  let r := k + if roundUp rm s (k % 2 == 1) u rem den then 1 else 0
  if s then -(r : Int) else r

/-- Formats of CVT: integers, floating formats and x8 (R101-R105). -/
inductive NumFmt
  | int (signed : Bool) (w : Nat)
  | flt (f : Fmt)
  | x8
  | raw
  deriving DecidableEq, Repr

/-- The format that a type names, in a binary8 variant (R90). -/
def tyNum (t : Ty) (un inf : Bool) : NumFmt :=
  match t with
  | .f16 => .flt f16 | .bf16 => .flt bf16 | .f32 => .flt f32 | .f64 => .flt f64 | .q4 => .flt q4
  | .b8p1 => .flt (b8 1 un inf) | .b8p2 => .flt (b8 2 un inf) | .b8p3 => .flt (b8 3 un inf) | .b8p4 => .flt (b8 4 un inf)
  | .b8p5 => .flt (b8 5 un inf) | .b8p6 => .flt (b8 6 un inf) | .b8p7 => .flt (b8 7 un inf)
  | .x8 => .x8
  | .dw | .wt | .b128 => .raw
  | t => .int t.signed t.width

/-- The floating format of a type of the set F; f32 for any other. -/
def tyFlt (t : Ty) : Fmt :=
  match t with
  | .f16 => f16 | .bf16 => bf16 | .f64 => f64 | _ => f32

/-- Least and greatest integer of a format (R84). -/
def intMin (signed : Bool) (w : Nat) : Int := if signed then -(2 ^ (w - 1) : Nat) else 0
def intMax (signed : Bool) (w : Nat) : Int := if signed then (2 ^ (w - 1) : Nat) - 1 else (2 ^ w : Nat) - 1

/-- An integer's value from its code (R84). -/
def intVal (signed : Bool) (w c : Nat) : Int :=
  if signed && decide (2 ^ (w - 1) ≤ c % 2 ^ w) then (c % 2 ^ w : Nat) - (2 ^ w : Nat) else (c % 2 ^ w : Nat)

/-- Two's-complement pattern of an integer. -/
def intCode (w : Nat) (x : Int) : Nat := (x % (2 ^ w : Nat)).toNat

/-- SAT(x, type) for an integer format (R49). -/
def clampInt (signed : Bool) (w : Nat) (x : Int) : Int := max (intMin signed w) (min (intMax signed w) x)

/-- The value of an integer as an exact real. -/
def XV.ofInt (x : Int) : XV := .num (decide (x < 0)) x.natAbs 1 0

/-- The exact value of a code. -/
def NumFmt.val (f : NumFmt) (c : Nat) : XV :=
  match f with
  | .int sg w => .ofInt (intVal sg w c)
  | .flt f => (f.val c).x
  | .x8 => if c % 256 = 0xFF then .nan else .num false 1 1 ((c % 256 : Nat) - 127)
  | .raw => .nan

/-- CVT(x, s, t, m, sat) with the generator's draw u (R101-R105). -/
def cvt (s t : NumFmt) (rm : Rm) (sat : Bool) (u c : Nat) : Nat :=
  match s, t with
  | .int sg w, .int sg' w' =>
    let x := intVal sg w c
    intCode w' (if sat then clampInt sg' w' x else x)
  | s, .int sg' w' =>
    match s.val c with
    | .nan => 0
    | .inf n => intCode w' (if n then intMin sg' w' else intMax sg' w')
    | .num n a d e => intCode w' (clampInt sg' w' (roundInt rm u n a d e))
  | s, .flt f => f.round rm sat u (s.val c)
  | s, .x8 =>
    match s.val c with
    | .num _ n d e => if n = 0 then 0 else (max 0 (min 254 (ilog n d + e + 127))).toNat
    | _ => 0xFF
  | _, .raw => 0

/-- Exact product (R125). -/
def FV.mul : FV → FV → FV
  | .nan, _ | _, .nan => .nan
  | .inf s, .inf t => .inf (s != t)
  | .inf s, .fin t m _ => if m = 0 then .nan else .inf (s != t)
  | .fin s m _, .inf t => if m = 0 then .nan else .inf (s != t)
  | .fin s m e, .fin t n f => .fin (s != t) (m * n) (e + f)

/-- The signed whole number m × 2^(e - f) of a finite value, for f at or below e. -/
def FV.at (f : Int) : FV → Int
  | .fin s m e => (if s then -1 else 1) * (m : Int) * (2 : Int) ^ (e - f).toNat
  | _ => 0

/-- Lowest exponent of finite values. -/
def lowExp (ts : List FV) : Int :=
  ts.foldl (fun a t => match t with | .fin _ _ e => min a e | _ => a) 0

/-- The finite value of a whole number of steps of 2^e; zero has sign `z`. -/
def FV.ofSteps (z : Bool) (x e : Int) : FV := .fin (if x = 0 then z else decide (x < 0)) x.natAbs e

/-- The exact sum of terms; the sign of a zero sum by R126. -/
def sumFV (rm : Rm) (ts : List FV) : FV :=
  if ts.any FV.isNan || (ts.contains (.inf true) && ts.contains (.inf false)) then .nan
  else if ts.contains (.inf true) then .inf true
  else if ts.contains (.inf false) then .inf false
  else
    let e := lowExp ts
    let x := ts.foldl (fun a t => a + t.at e) 0
    let isZ := fun (s : Bool) (t : FV) => match t with | .fin s' m _ => m == 0 && s' == s | _ => false
    .ofSteps (if ts.all (isZ true) then true else if ts.all (isZ false) then false else rm == .rdn) x e

/-- A format's value rounded to nearest even, as a value: the RNE of R131. -/
def Fmt.rne (f : Fmt) (x : XV) : FV := f.val (f.round .rne false 0 x)

/-- a / b with the special operands of R130. -/
def FV.div : FV → FV → XV
  | .nan, _ | _, .nan => .nan
  | .inf _, .inf _ => .nan
  | .inf s, .fin t _ _ => .inf (s != t)
  | .fin s _ _, .inf t => .num (s != t) 0 1 0
  | .fin s m e, .fin t n f =>
    if n = 0 then (if m = 0 then .nan else .inf (s != t)) else .num (s != t) m n (e - f)

/-- 1 / a; 1 / ±0 is ±∞ (R130). -/
def FV.rcp : FV → XV
  | .fin s m e => if m = 0 then .inf s else .num s 1 m (-e)
  | x => FV.div (.fin false 1 0) x

/-- Integer square root, by bits from 2^k down. -/
def isqrt (n : Nat) : Nat → Nat → Nat
  | 0, r => if (r + 1) * (r + 1) ≤ n then r + 1 else r
  | k + 1, r => isqrt n k (if (r + 2 ^ (k + 1)) * (r + 2 ^ (k + 1)) ≤ n then r + 2 ^ (k + 1) else r)

/-- A number at 2^(e), or between it and the next: half a step above stands for every inexact value, since no rounding
boundary lies inside the step. -/
def sticky (exact : Bool) (r : Nat) (e : Int) : XV := if exact then .num false r 1 e else .num false (2 * r + 1) 1 (e - 1)

/-- Square root (R130). -/
def FV.sqrt : FV → XV
  | .nan => .nan
  | .inf s => if s then .nan else .inf false
  | .fin s m e =>
    if m = 0 then .num s 0 1 0 else if s then .nan else
    let m' := if e % 2 = 0 then m else 2 * m
    let e' := if e % 2 = 0 then e else e - 1
    let n := m' * 2 ^ 200
    let r := isqrt n ((Nat.log2 n + 2) / 2) 0
    sticky (r * r == n) r (e' / 2 - 100)

/-- Reciprocal square root (R130). -/
def FV.rsqrt : FV → XV
  | .nan => .nan
  | .inf s => if s then .nan else .num false 0 1 0
  | .fin s m e =>
    if m = 0 then .inf s else if s then .nan else
    let m' := if e % 2 = 0 then m else 2 * m
    let e' := if e % 2 = 0 then e else e - 1
    let n := 2 ^ 400 / m'
    let r := isqrt n 200 0
    sticky (r * r * m' == 2 ^ 400) r (-(e' / 2) - 200)

/-- floor of a finite value. -/
def FV.floor : FV → Int
  | .fin s m e => roundInt .rdn 0 s m 1 e
  | _ => 0

/-- a - floor(a); -0 gives +0 (R127). -/
def FV.fract : FV → XV
  | .fin s m e =>
    let f := min e 0
    (FV.ofSteps false ((FV.fin s m e).at f - (FV.fin s m e).floor * (2 : Int) ^ (-f).toNat) f).x
  | _ => .nan

/-- a rounded to an integer, keeping its sign (R127). -/
def FV.rint (rm : Rm) (u : Nat) : FV → XV
  | .fin s m e => .num s (roundInt rm u s m 1 e).natAbs 1 0
  | x => x.x

/-- a × 2^b (R127). Beyond ±5,000 every b gives the same result. -/
def FV.scale (b : Int) : FV → XV
  | .fin s m e => .num s m 1 (e + max (-5000) (min 5000 b))
  | x => x.x

/-- Order of two values with -0 below +0; NaN is not ordered. -/
def FV.lt (zeros : Bool) : FV → FV → Bool
  | .nan, _ | _, .nan => false
  | .inf s, .inf t => s && !t
  | .inf s, .fin .. => s
  | .fin .., .inf t => !t
  | .fin s m e, .fin t n f =>
    let g := min e f
    let x := (FV.fin s m e).at g
    let y := (FV.fin t n f).at g
    decide (x < y) || (zeros && decide (x = y) && m == 0 && s && !t)

/-- `fmin` and `fmax` on codes: the lesser or the greater, a NaN yields the other operand (R128). -/
def Fmt.minmax (f : Fmt) (mx : Bool) (a b : Nat) : Nat :=
  match f.val a, f.val b with
  | .nan, .nan => f.nanCode
  | .nan, _ => b
  | _, .nan => a
  | x, y => if (if mx then y.lt true x else x.lt true y) then a else b

/-- The class mask of a code (R128). -/
def Fmt.cls (f : Fmt) (c : Nat) : Nat :=
  match f.val c with
  | .nan => 1
  | .inf s => if s then 2 else 0x100
  | .fin s m _ =>
    if m = 0 then (if s then 0x10 else 0x20)
    else if m < 2 ^ f.T then (if s then 8 else 0x40) else if s then 4 else 0x80

/-- π × 2^512, rounded down. -/
def piScaled : Nat := 0x3243f6a8885a308d313198a2e03707344a4093822299f31d0082efa98ec4e6c89452821e638d01377be5466cf34e90c6cc0ac29b7c97c50dd3f84d5b5b5470917

/-- ln 2 × 2^256, rounded down. -/
def ln2Scaled : Nat := 0xb17217f7d1cf79abc9e3b39803f2f6af40f343267298b62d8a0d175b8baafa2b

/-- k! -/
def fact : Nat → Nat
  | 0 => 1
  | k + 1 => (k + 1) * fact k

/-- The coefficient tables of R131. -/
def coefEX (k : Nat) : FV := f64.rne (.num false (ln2Scaled ^ k) (fact k) (-(256 * k : Nat)))
def coefLG (k : Nat) : FV := f64.rne (.num false 2 (2 * k + 1) 0)
def coefSN (k : Nat) : FV := f64.rne (.num (k % 2 == 1) 1 (fact (2 * k + 1)) 0)
def coefCN (k : Nat) : FV := f64.rne (.num (k % 2 == 1) 1 (fact (2 * k)) 0)

/-- 1 / ln 2 in f64. -/
def coefL : FV := f64.rne (.num false 1 ln2Scaled 256)

/-- RNE(a × b + c, f64). -/
def fmaRne (a b c : FV) : FV := f64.rne (sumFV .rne [a.mul b, c]).x

/-- POLY(z, c, K) from q = c[K] down (R131). -/
def poly (z : FV) (c : Nat → FV) : Nat → FV → FV
  | 0, q => q
  | k + 1, q => poly z c k (fmaRne q z (c k))

def polyK (z : FV) (c : Nat → FV) (K : Nat) : FV := poly z c K (c K)

/-- FEXP2 (R131, R132). Beyond ±4,000 every whole part gives the same result. -/
def FV.exp2 : FV → XV
  | .nan => .nan
  | .inf s => if s then .num false 0 1 0 else .inf false
  | .fin s m e =>
    let n := (FV.fin s m e).floor
    match (FV.fin s m e).fract with
    | .num _ fm _ fe =>
      match polyK (.fin false fm fe) coefEX 16 with
      | .fin t k g => .num t k 1 (g + max (-4000) (min 4000 n))
      | x => x.x
    | x => x

/-- FLOG2 (R131, R132). -/
def FV.log2 : FV → XV
  | .nan => .nan
  | .inf s => if s then .nan else .inf false
  | .fin s m e =>
    if m = 0 then .inf true else if s then .nan else
    let l := Nat.log2 m
    let big := decide (3 * 2 ^ l ≤ 2 * m)
    let one := if big then 2 ^ (l + 1) else 2 ^ l
    let ex := (l : Int) + e + if big then 1 else 0
    let t := f64.rne (.num (decide (m < one)) (max m one - min m one) (m + one) 0)
    let z := f64.rne (t.mul t).x
    let r := f64.rne (t.mul (polyK z coefLG 12)).x
    (sumFV .rne [.ofSteps false ex 0, f64.rne (r.mul coefL).x]).x

/-- FSINCOS (R131, R132); c = 0 sine, 1 cosine. -/
def FV.sincos (c : Nat) : FV → XV
  | .fin s m e =>
    let n := roundInt .rne 0 s (m * 2 ^ 513) piScaled e
    -- x - n π/2 in steps of 2^f
    let f := min e (-513)
    let d := (FV.fin s m e).at f - n * (piScaled : Int) * (2 : Int) ^ (-513 - f).toNat
    let g := if n = 0 then f64.rne (.num s m 1 e) else f64.rne (FV.ofSteps false d f).x
    let z := f64.rne (g.mul g).x
    let sn := f64.rne (g.mul (polyK z coefSN 8)).x
    let cs := polyK z coefCN 9
    match ((n + c) % 4).toNat with
    | 0 => sn.x
    | 1 => cs.x
    | 2 => sn.neg.x
    | _ => cs.neg.x
  | _ => .nan

/-- One step of the stochastic generator (R98). -/
def srStep (s : Word) : Word :=
  let s := s ^^^ (s <<< 13)
  let s := s ^^^ (s >>> 7)
  s ^^^ (s <<< 17)

/-- The draw u of a state after its step (R99). -/
def srDraw (s : Word) : Nat := s.toNat / 2 ^ 32

/-- The state that a write of v to `srseed` gives lane l (R98). -/
def srSeed (v : Word) (l : Nat) : Word :=
  let s := v ^^^ BitVec.ofNat 64 ((l + 1) * 0x9E3779B97F4A7C15)
  if s = 0 then 0x9E3779B97F4A7C15 else s

end Sys2Proof.Machine
end

