-- ==== Sys2Proof/Machine/Elem.lean ====
section
/-! DEFINITION. Subelements of a register (R66, R109-R110) and the integer, logic and floating computations on one
subelement (R113-R128, R250-R253). A subelement is its code, a number below 2^w. -/

namespace Sys2Proof.Machine

/-- Subelement e of width w of a register (R66). -/
def getE (x : Word) (w e : Nat) : Nat := x.toNat / 2 ^ (w * e) % 2 ^ w

/-- A register from its subelements, lowest first. -/
def joinE (w : Nat) : List Nat → Nat
  | [] => 0
  | c :: t => c % 2 ^ w + 2 ^ w * joinE w t

def wordE (w : Nat) (cs : List Nat) : Word := BitVec.ofNat 64 (joinE w cs)

/-- Replaces subelement e. -/
def setE (x : Word) (w e c : Nat) : Word :=
  wordE w ((List.range (64 / w)).map fun i => if i = e then c else getE x w i)

/-- One code in every subelement. -/
def repE (w c : Nat) : Word := wordE w (List.replicate (64 / w) c)

/-- Computes each subelement of D; under `.lo` only subelement 0, the others keep the old value (R109, R110). -/
def mapE (w : Nat) (lo : Bool) (old : Word) (f : Nat → Nat) : Word :=
  wordE w ((List.range (64 / w)).map fun e => if lo && e != 0 then getE old w e else f e)

/-- As `mapE`, one generator step per computed subelement, ascending, under sr (R98), also where its result is
NaN or infinite (log entry 84). -/
def mapSr (w : Nat) (lo : Bool) (old : Word) (sr : Bool) (gen : Word) (f : Nat → Nat → Nat) : Word × Word :=
  let r := (List.range (64 / w)).foldl
    (fun (acc : List Nat × Word) e =>
      if lo && e != 0 then (acc.1 ++ [getE old w e], acc.2)
      else
        let g := if sr then srStep acc.2 else acc.2
        (acc.1 ++ [f (if sr then srDraw g else 0) e], g))
    ([], gen)
  (wordE w r.1, r.2)

/-- An exact integer result written by R114. -/
def putInt (sat : Bool) (sg : Bool) (w : Nat) (x : Int) : Nat := intCode w (if sat then clampInt sg w x else x)

/-- Quotient and remainder, truncating towards zero (R115). -/
def divE (sg : Bool) (w a b : Nat) : Nat :=
  if b % 2 ^ w = 0 then 2 ^ w - 1 else intCode w ((intVal sg w a).tdiv (intVal sg w b))
def remE (sg : Bool) (w a b : Nat) : Nat :=
  if b % 2 ^ w = 0 then a % 2 ^ w else intCode w ((intVal sg w a).tmod (intVal sg w b))

/-- Bitwise operations. -/
def andnE (w a b : Nat) : Nat := a &&& (2 ^ w - 1 - b % 2 ^ w)
def notE (w a : Nat) : Nat := 2 ^ w - 1 - a % 2 ^ w

/-- Shifts; s is read unsigned (R120). -/
def shlE (w a s : Nat) : Nat := if w ≤ s then 0 else a * 2 ^ s % 2 ^ w
def shrE (w a s : Nat) : Nat := if w ≤ s then 0 else a % 2 ^ w / 2 ^ s
def sarE (w a s : Nat) : Nat := intCode w (intVal true w a / 2 ^ min s w)
def rotE (w a s : Nat) : Nat :=
  let k := s % w
  a % 2 ^ w * 2 ^ k % 2 ^ w + a % 2 ^ w / 2 ^ (w - k)

/-- Number of set bits among the lowest k. -/
def popE (a : Nat) : Nat → Nat
  | 0 => 0
  | k + 1 => a % 2 + popE (a / 2) k

/-- Trailing zeros among the lowest k bits. -/
def ctzE (a : Nat) : Nat → Nat
  | 0 => 0
  | k + 1 => if a % 2 = 1 then 0 else 1 + ctzE (a / 2) k

/-- Leading zeros of a w-bit code. -/
def clzE (w a : Nat) : Nat := if a % 2 ^ w = 0 then w else w - 1 - Nat.log2 (a % 2 ^ w)

/-- The lowest k bits in reverse order. -/
def brevE (a : Nat) : Nat → Nat
  | 0 => 0
  | k + 1 => a % 2 * 2 ^ k + brevE (a / 2) k

/-- Position and length of a bit field, or none when it is empty (R121). -/
def fieldE (w b : Nat) : Option (Nat × Nat) :=
  let pos := b % 256
  let len := b / 256 % 256
  if w ≤ pos ∨ len = 0 then none else some (pos, min len (w - pos))

def bfxE (sg : Bool) (w a b : Nat) : Nat :=
  match fieldE w b with
  | none => 0
  | some (pos, len) => intCode w (intVal sg len (a / 2 ^ pos % 2 ^ len))

def bfiE (w a b c : Nat) : Nat :=
  match fieldE w b with
  | none => c
  | some (pos, len) => c % 2 ^ pos + a % 2 ^ len * 2 ^ pos + c / 2 ^ (pos + len) * 2 ^ (pos + len)

/-- Sum of products of the v-bit elements of A and B that lie within result subelement j (R117). -/
def dotE (sg : Bool) (w v : Nat) (a b : Word) (j : Nat) : Int :=
  (List.range (w / v)).foldl
    (fun s i => s + intVal sg v (getE a v (j * (w / v) + i)) * intVal sg v (getE b v (j * (w / v) + i))) 0

/-- Least or greatest of two integer codes. -/
def minE (sg : Bool) (w a b : Nat) : Nat := if intVal sg w b < intVal sg w a then b else a
def maxE (sg : Bool) (w a b : Nat) : Nat := if intVal sg w a < intVal sg w b then b else a

/-- The new value of an atomic on one element (R250); `none` where a `.cas` fails, which writes nothing. -/
def atomNew (op : Nat) (t : Ty) (w old b c : Nat) : Option Nat :=
  let sg := t.signed
  match op with
  | 0 => some (if t.isI then (old + b) % 2 ^ w
      else (tyFlt t).round .rne false 0 (sumFV .rne [(tyFlt t).val old, (tyFlt t).val b]).x)
  | 1 => some (intCode w ((old : Int) - b))
  | 2 => some (if t.isI then minE sg w old b else (tyFlt t).minmax false old b)
  | 3 => some (if t.isI then maxE sg w old b else (tyFlt t).minmax true old b)
  | 4 => some (old &&& b)
  | 5 => some (old ||| b)
  | 6 => some (old ^^^ b)
  | 7 => some b
  | 8 => if old = b then some c else none
  | _ => some (if b ≤ old then 0 else old + 1)

/-- The 16 bytes of `perm` and its result byte e (R140). -/
def permE (a b c : Word) (e : Nat) : Nat :=
  let k := getE b 8 e
  if 128 ≤ k then 0 else if k % 16 < 8 then getE a 8 (k % 16) else getE c 8 (k % 16 - 8)

/-- One `cvt` of a register (R129): source subelements into destination subelements; `.hi` and `.lo` together, log
entry 86. -/
def cvtWord (s t : Ty) (un inf hi lo : Bool) (rm : Rm) (sat : Bool) (gen : Word) (a old : Word) : Word × Word :=
  let n := 64 / max s.width t.width
  let widen := decide (s.width < t.width)
  let src := fun e => getE a s.width (if hi && widen then n + e else e)
  let first := if hi && !widen then n else 0
  let keep := fun e => (lo && e != first) || (hi && !widen && decide (e < n))
  let r := (List.range (64 / t.width)).foldl
    (fun (acc : List Nat × Word) e =>
      if keep e then (acc.1 ++ [getE old t.width e], acc.2)
      else if e < first ∨ first + n ≤ e then (acc.1 ++ [0], acc.2)
      else
        let g := if rm = .sr then srStep acc.2 else acc.2
        (acc.1 ++ [cvt (tyNum s un inf) (tyNum t un inf) rm sat (if rm = .sr then srDraw g else 0) (src (e - first))], g))
    ([], gen)
  (wordE t.width r.1, r.2)

/-- A camera-relative transform (R133): f64 position, f64 origin, f32 matrix. -/
def xfmRow (p o : Nat → FV) (q : Nat → Nat → FV) (i : Nat) : Nat :=
  let ex := fun j => f32.val (f32.round .rne false 0 (f64.rne (sumFV .rne [p j, (o j).neg]).x).x)
  f32.round .rne false 0
    ((List.range 3).foldl (fun acc j => f32.rne (sumFV .rne [(q i j).mul (ex j), acc]).x) (q i 3)).x

end Sys2Proof.Machine
end

