-- ==== Sys2Proof/Machine/Flags.lean ====
section
/-! DEFINITION. Conditions and predicate operations: the machine's flags are its predicates (R123, R124, R258). -/

namespace Sys2Proof.Machine

/-- The condition of `cmp` on two integer codes (R123). -/
def cmpE (op : Nat) (sg : Bool) (w a b : Nat) : Bool :=
  let x := intVal sg w a
  let y := intVal sg w b
  match op with
  | 0 => decide (x = y)
  | 1 => decide (x ≠ y)
  | 2 => decide (x < y)
  | 3 => decide (x ≤ y)
  | 4 => decide (y < x)
  | _ => decide (y ≤ x)

/-- The condition of `fcmp` on two codes; -0 equals +0 (R123). -/
def fcmpE (op : Nat) (f : Fmt) (a b : Nat) : Bool :=
  let x := f.val a
  let y := f.val b
  let un := x.isNan || y.isNan
  let lt := x.lt false y
  let gt := y.lt false x
  let eq := !un && !lt && !gt
  match op with
  | 0 => eq
  | 1 => !eq
  | 2 => lt
  | 3 => lt || eq
  | 4 => gt
  | 5 => gt || eq
  | 6 => un
  | _ => !un

/-- A condition over every subelement, or subelement 0 alone under `.lo` (R123). -/
def allE (w : Nat) (lo : Bool) (f : Nat → Bool) : Bool :=
  (List.range (if lo then 1 else 64 / w)).all f

/-- `plop` (R124). -/
def plopOp (op : Nat) (a b : Bool) : Bool :=
  match op with
  | 0 => a && b
  | 1 => a || b
  | 2 => a != b
  | 3 => a && !b
  | 4 => !(a && b)
  | 5 => !(a || b)
  | 6 => a == b
  | _ => a || !b

/-- `pmov` (R124). -/
def pmovOp (op : Nat) (a : Bool) : Bool :=
  match op with
  | 0 => a
  | 1 => !a
  | 2 => true
  | _ => false

/-- The condition of `mwait` (R258): equal, not equal, at least, below. -/
def waitCond (op : Nat) (t : Ty) (x b : Nat) : Bool :=
  match op with
  | 0 => cmpE 0 t.signed t.width x b
  | 1 => cmpE 1 t.signed t.width x b
  | 2 => cmpE 5 t.signed t.width x b
  | _ => cmpE 2 t.signed t.width x b

/-- `vote` over the contributions of the members (R138): all, any, all equal. -/
def voteOp (op : Nat) (cs : List Bool) : Bool :=
  match op with
  | 0 => cs.all id
  | 1 => cs.any id
  | _ => cs.all id || !cs.any id

end Sys2Proof.Machine
end

