-- ==== Sys2Proof/WellFormed.lean ====
section
/-! DEFINITION. What each instruction word may hold: one line per constructor says how its operand fields are used and
which codes it accepts (checks 3-6 of R82), and the ranges, sources and latencies that the checks need. -/

namespace Sys2Proof

/-- How an instruction uses an operand field. A count says how many consecutive registers the field names. -/
inductive Use
  /-- Not used: holds 0xC0 (R58). -/
  | unused
  /-- No operand: 0xC0, or a selector code for operand A (R57). -/
  | sel (t : Ty)
  /-- Any source, read at a type (R56, R112). -/
  | src (t : Ty) (n : Nat)
  /-- A source register, vector or uniform. -/
  | reg (n : Nat)
  /-- A source register, or an integer constant (hlp, R320). -/
  | regC
  /-- A source register or `nil` (mmaa, R160). -/
  | regNil
  /-- A vector source. -/
  | vec (n : Nat)
  /-- A uniform source. -/
  | uni (n : Nat)
  /-- A uniform source or an integer constant, read as 64 bits. -/
  | uniC
  /-- As `uniC`, or `nil` (R135, R248). -/
  | uniCNil
  /-- A destination register or `nil`. -/
  | dst (n : Nat)
  /-- A destination register. -/
  | dstReg (n : Nat)
  /-- A vector destination. -/
  | dstVec (n : Nat)
  /-- A vector destination or `nil`. -/
  | dstVecNil (n : Nat)
  /-- A predicate that is read (R59). -/
  | predS
  /-- A predicate that is written (R59). -/
  | predD
  /-- A number below a limit that names no register: tile, counter, halfword, queue, capability, type code (R59, R64). -/
  | num (lim : Nat)
  deriving DecidableEq, Repr

/-- A source operand byte is allowed with a type (R56). -/
def srcOk (t : Ty) (x : BitVec 8) : Bool :=
  match Opnd.ofByte x with
  | .v _ | .s _ | .nil => true
  | .lane | .sub | .warp | .teamx | .teamy | .gx | .gy => t.isI
  | .sel _ | .rsv => false
  | .int k =>
    match t with
    | .i4 => decide (-8 ≤ k) && decide (k ≤ 7)
    | .n4 => decide (0 ≤ k)
    | .q4 => [0, 1, 2, 3, 4, 6].contains k.natAbs
    | _ => true
  | .flt _ => t.isF

/-- A uniform range of n registers does not pass s63. -/
def fitsS (x : BitVec 8) (n : Nat) : Bool :=
  match Opnd.ofByte x with
  | .s i => decide (i + n ≤ 64)
  | _ => true

/-- A vector range of n registers does not pass v127: the illegal-instruction rule of R116, R213, R250 and R284. -/
def fitsV (x : BitVec 8) (n : Nat) : Bool :=
  match Opnd.ofByte x with
  | .v i => decide (i + n ≤ 128)
  | _ => true

def Opnd.isV : Opnd → Bool
  | .v _ => true
  | _ => false

def Opnd.isS : Opnd → Bool
  | .s _ => true
  | _ => false

def Opnd.isReg : Opnd → Bool
  | .v _ | .s _ => true
  | _ => false

def Opnd.isConst : Opnd → Bool
  | .int _ => true
  | _ => false

/-- The field is allowed for its use (check 4 of R82). -/
def Use.ok (u : Use) (x : BitVec 8) : Bool :=
  let o := Opnd.ofByte x
  match u with
  | .unused => x == nilByte
  | .sel t => x == nilByte || (match o with | .sel n => decide (n < t.count) | _ => false)
  | .src t n => srcOk t x && fitsS x n
  | .reg n => o.isReg && fitsS x n
  | .regC => o.isReg || o.isConst
  | .regNil => o.isReg || x == nilByte
  | .vec _ => o.isV
  | .uni n => o.isS && fitsS x n
  | .uniC => o.isS || o.isConst
  | .uniCNil => o.isS || o.isConst || x == nilByte
  | .dst n => (o.isReg && fitsS x n) || x == nilByte
  | .dstReg n => o.isReg && fitsS x n
  | .dstVec _ => o.isV
  | .dstVecNil _ => o.isV || x == nilByte
  | .predS | .predD => decide (x.toNat < 8)
  | .num lim => decide (x.toNat < lim)

/-- How many registers the field names. -/
def Use.count : Use → Nat
  | .src _ n | .reg n | .vec n | .uni n | .dst n | .dstReg n | .dstVec n | .dstVecNil n => n
  | .regC | .regNil | .uniC | .uniCNil => 1
  | _ => 0

/-- The field is read as a source. -/
def Use.isSrc : Use → Bool
  | .src _ _ | .reg _ | .regC | .regNil | .vec _ | .uni _ | .uniC | .uniCNil => true
  | _ => false

/-- The field names registers that the instruction writes. -/
def Use.isDst : Use → Bool
  | .dst _ | .dstReg _ | .dstVec _ | .dstVecNil _ => true
  | _ => false

/-- The number of a predicate. Registers of a lane are numbers: 0-127 vector, 128-191 uniform (the operand byte), 256-263
predicates. -/
def predId (n : Nat) : Nat := 256 + n

/-- The registers that a field of this use names. -/
def Use.regs (u : Use) (x : BitVec 8) : List Nat :=
  match u with
  | .predS | .predD => [predId x.toNat]
  | u => if (Opnd.ofByte x).isReg then (List.range u.count).map (x.toNat + ·) else []

/-- What check 4 to 7 of R82 need to know of an instruction word. -/
structure Shape where
  fields : List (Use × BitVec 8)
  /-- Every code that is no operand field is accepted. -/
  ok : Bool
  /-- D is also read (R110, R122, R129). -/
  dread : Bool := false
  /-- Latency of a fixed-latency result, or 0 (R75). -/
  lat : Nat := 0
  /-- A matrix-class word, whose window check is R149's. -/
  mx : Bool := false
  deriving Repr

/-- Registers that the instruction reads, less its guard. -/
def Shape.reads (s : Shape) : List Nat :=
  s.fields.flatMap fun (u, x) => if u.isSrc || u == .predS || (u.isDst && s.dread) then u.regs x else []

/-- Registers that the instruction writes. -/
def Shape.writes (s : Shape) : List Nat :=
  s.fields.flatMap fun (u, x) => if u.isDst || u == .predD then u.regs x else []

/-- Vector registers that the instruction names, those of a range past v127 among them (R60). -/
def Shape.vregs (s : Shape) : List Nat :=
  s.fields.flatMap fun (u, x) => if (Opnd.ofByte x).isV && u != .predS && u != .predD then u.regs x else []

/-- ALU class. -/
def Alu.shape (f : Alu) (d a b c : Use) (ok : Bool) (rm sat lo : Bool := false) (lat : Nat := 0) (opx : Bool := f.opx == 0) :
    Shape :=
  { fields := [(d, f.d), (a, f.a), (b, f.b), (c, f.c)]
    ok := ok && opx && (rm || f.rm == .rne) && (sat || !f.sat) && (lo || !f.lo)
    dread := lo && f.lo, lat := lat }

/-- Integer and logic instructions with `.lo` and, where C holds no operand, selectors: A and B at the type. -/
def Alu.int2 (f : Alu) (ok : Bool) (sat : Bool := false) (lat : Nat := 4) : Shape :=
  f.shape (.dst 1) (.src f.ty 1) (.src f.ty 1) (.sel f.ty) ok (sat := sat) (lo := true) (lat := lat)

def Alu.int1 (f : Alu) (ok : Bool) (sat : Bool := false) : Shape :=
  f.shape (.dst 1) (.src f.ty 1) .unused (.sel f.ty) ok (sat := sat) (lo := true) (lat := 4)

/-- Latency of the multiplies (R75). -/
def mulLat (t : Ty) : Nat := if t.width = 64 then 6 else 4

/-- Latency of group 3 (R75). -/
def fltLat (t : Ty) : Nat := if t = .f64 then 6 else 4

def Alu.flt2 (f : Alu) (lat : Nat := fltLat f.ty) (round : Bool := true) : Shape :=
  f.shape (.dst 1) (.src f.ty 1) (.src f.ty 1) (.sel f.ty) f.ty.isF (rm := round) (sat := round) (lo := true) (lat := lat)

def Alu.flt1 (f : Alu) (ok : Bool) (lat : Nat := fltLat f.ty) (round : Bool := true) : Shape :=
  f.shape (.dst 1) (.src f.ty 1) .unused (.sel f.ty) ok (rm := round) (sat := round) (lo := true) (lat := lat)

/-- The integer type at which an integer operand is read at the subelement width (R112); of 4 bits, log entry 90. -/
def intTy (t : Ty) : Ty :=
  match t.width with
  | 4 => .n4 | 8 => .n8 | 16 => .n16 | 32 => .n32 | _ => .n64

/-- ALU words of groups 6 to 15, which hold TY alone (R236, R320). -/
def Alu.plain (f : Alu) (d a b : Use) (t : Ty) (lat : Nat := 0) : Shape :=
  f.shape d a b .unused (f.ty == t) (lat := lat)

/-- Immediate class (R62, R118). -/
def Imm.shape (f : Imm) (d a : Use) (ok : Bool) (dread : Bool := false) (lat : Nat := 0) : Shape :=
  { fields := [(d, f.d), (a, f.a), (.unused, f.b)], ok := ok, dread := dread, lat := lat }

/-- IMM16 fits an 8-bit type as sign extension (R118). -/
def Imm.fitS (f : Imm) : Bool :=
  f.ty.isI && (f.ty.width != 8 || decide (f.imm.toNat < 0x80) || decide (0xFF80 ≤ f.imm.toNat))

/-- IMM16 fits an 8-bit type unsigned (R119). -/
def Imm.fitU (f : Imm) : Bool := f.ty.isI && (f.ty.width != 8 || decide (f.imm.toNat < 0x100))

def Imm.intS (f : Imm) (lat : Nat := 4) : Shape := f.shape (.dst 1) (.src f.ty 1) f.fitS (lat := lat)

def Imm.intU (f : Imm) : Shape := f.shape (.dst 1) (.src f.ty 1) f.fitU (lat := 4)

/-- Scope codes 1-11 (R68). -/
def Scope.some (s : Scope) : Bool := s != .no

def Scope.atLeast (s : Scope) (lo hi : Nat) : Bool := decide (lo ≤ s.code.toNat) && decide (s.code.toNat ≤ hi)

/-- Memory class. -/
def Mem.shape (f : Mem) (d a b : Use) (ok : Bool) : Shape :=
  { fields := [(d, f.d), (a, f.a), (b, f.b)], ok := ok }

/-- Registers of a value of the type: 2 for b128. -/
def Ty.regs (t : Ty) : Nat := if t = .b128 then 2 else 1

def Mem.load (f : Mem) : Shape :=
  f.shape (.dst f.ty.regs) (.reg 1) .unused (f.ty.isM && f.sc == .no && fitsV f.d f.ty.regs)

def Mem.loadw (f : Mem) : Shape :=
  f.shape (.dst f.ty.regs) (.reg 1) (.src .wt 1) (f.ty.isM && f.sc == .no && fitsV f.d f.ty.regs)

def Mem.store (f : Mem) : Shape :=
  f.shape (.dst 1) (.reg 1) (.src f.ty f.ty.regs) (f.ty.isM && f.sc.some && fitsV f.b f.ty.regs)

/-- Engine class. -/
def Eng.shape (f : Eng) (d a b c : Use) (t : Ty) (sc : Bool) (mod : Bool := f.mod == 0) (ok : Bool := true) : Shape :=
  { fields := [(d, f.d), (a, f.a), (b, f.b), (c, f.c)], ok := ok && f.ty == t && sc && mod }

/-- MOD and TY of `atom` agree (R250). -/
def atomTy (op : Nat) (t : Ty) : Bool :=
  let int := [Ty.i32, .n32, .i64, .n64].contains t
  let flt := [Ty.f32, .f16, .bf16].contains t
  match op with
  | 0 | 2 | 3 => int || flt
  | 1 | 4 | 5 | 6 => int
  | 7 => int || flt || t == .b128
  | 8 => int || t == .b128
  | 9 => t == .n32 || t == .n64
  | _ => false

def Eng.atom (f : Eng) : Shape :=
  let n := f.ty.regs
  f.shape (.dstVecNil (n + 1)) (.reg 1) (.src f.ty n) (if f.mod == 8 then .src f.ty n else .unused) f.ty f.sc.some true
    (atomTy f.mod.toNat f.ty && fitsV f.b n && (f.mod != 8 || fitsV f.c n))

/-- Kind of a semaphore selector (R265). -/
def Eng.semKind (f : Eng) : Nat := f.mod.toNat / 4

/-- The semaphore instructions (R248, R265). -/
def Eng.sem (f : Eng) (d b : Use) (sc : Bool) (op : Nat) : Shape :=
  match f.semKind with
  | 0 => f.shape d .unused b (.num 64) .n64 sc (f.mod.toNat % 4 == op)
  | 1 => f.shape d .unused b (.num 256) .n64 sc (f.mod.toNat % 4 == op)
  | 2 => f.shape d (.uni 1) b .unused .n64 sc (f.mod.toNat % 4 == op)
  | _ => f.shape d .unused b .unused .n64 sc false

/-- Matrix class (R160): which of ACC, K and Z are used, and IMM5's rule. -/
def Mx.shape (f : Mx) (d a b e : Use) (acc k z imm : Bool) : Shape :=
  { fields := [(d, f.d), (a, f.a), (b, f.b), (e, f.e)], mx := true
    ok := (acc || f.acc == 0) && (k || f.k == 0) && (z || !f.z) && imm }

/-- `.d` of IMM5 (R167). -/
def Mx.dbl (f : Mx) : Bool := f.imm5.getLsbD 4

/-- Branch class. -/
def Br.shape (f : Br) (d a : Use) (ok : Bool := true) (lat : Nat := 0) : Shape :=
  { fields := [(d, f.d), (a, f.a), (.unused, f.b)], ok := ok, lat := lat }

/-- CVT is defined from s to t with these fields (R101-R106). -/
def cvtDefined (s t : Ty) (f : Alu) : Bool :=
  let fl := fun (x : Ty) => x.isF || x.isB8 || x == .q4
  if s == .x8 || t == .x8 then (fl s || fl t) && f.rm == .rne && !f.sat
  else if s.isInt && t.isInt then f.rm == .rne
  else (s.isInt || fl s) && (t.isInt || fl t)

/-- Source type of `cvt`: C bits 4:0 (R61). -/
def Alu.cvtSrc (f : Alu) : Option Ty := Ty.ofCode f.c.toNat

/-- `.hi` of `cvt` (R129). -/
def Alu.hi (f : Alu) : Bool := f.opx.getLsbD 2

def Alu.cvtShape (f : Alu) : Shape :=
  match f.cvtSrc with
  | none => f.shape (.dst 1) .unused .unused (.num 32) false
  | some s =>
    let r := f.shape (.dst 1) (.src s 1) .unused (.num 32)
      (cvtDefined s f.ty f && (s.isB8 || f.ty.isB8 || f.opx.toNat % 4 == 0) &&
        (!f.hi || s.width == 2 * f.ty.width || f.ty.width == 2 * s.width))
      (rm := true) (sat := true) (lo := true) (lat := if s == .f64 || f.ty == .f64 then 6 else 4) (opx := true)
    { r with dread := f.lo || (f.hi && decide (f.ty.width < s.width)) }

/-- Operations and modes of `redux` and `scan` (R139); `.sat` on `.xadd`, log entry 87. -/
def Alu.combine (f : Alu) (xadd : Bool) : Shape :=
  let op := f.opx.toNat
  let add := op == 0 || (xadd && op == 6)
  f.shape (.dst 1) (.src f.ty 1) .unused .uniCNil
    (((f.ty.isI && f.rm == .rne) || (f.ty.isF && f.rm != .sr)) && (add || (f.rm == .rne && !f.sat)))
    (rm := true) (sat := true) (opx := add || op == 1 || op == 2 || (f.ty.isI && (op == 3 || op == 4 || op == 5)))

/-- Type accepted by a half operation (R70). -/
def HOp.accepts (o : HOp) (t : HTy) : Bool :=
  match o with
  | .mov => true
  | .fadd | .fsub | .fmul | .fmin | .fmax => !t.ty.isI
  | _ => t.ty.isI

/-- The registers a half reads: D except in `mov`, and S when it is a register (R72). -/
def Half.reads (h : Half) (o : HOp) : List Nat :=
  (if o = .mov then [] else [h.d.toNat]) ++ (if h.imm then [] else [h.s.toNat])

/-- Latency of a half (R75). -/
def Half.lat (h : Half) (o : HOp) : Nat :=
  if h.ty = .f64 || (o == .mul && h.ty.ty.width == 64) then 6 else 4

/-- Half type accepted and bit 9 of a register S zero (checks 2 and 4 of R82). -/
def Half.ok (h : Half) (o : HOp) : Bool := o.accepts h.ty && (h.imm || decide (h.s.toNat < 128))

/-- The register rules of a pair (R72). -/
def Pair.rule (f : Pair) (o : HOp) : Bool :=
  let r1 := f.h1.reads o
  let r2 := f.h2.reads f.op2
  decide (f.h1.d.toNat % 4 ≠ f.h2.d.toNat % 4) &&
    [0, 1, 2, 3].all (fun k => ((r1 ++ r2).countP fun r => r % 4 == k) ≤ 2) && !r2.contains f.h1.d.toNat

/-- What an instruction's word is made of. -/
inductive Form
  /-- A full-form word: guard, stall count and shape. -/
  | full (h : Hdr) (s : Shape)
  /-- A pair word and its first half's operation. -/
  | pair (f : Pair) (o : HOp)
  /-- A step of the part that no word starts. -/
  | event
  deriving Repr

/-- The operand fields and accepted codes of every instruction; field A of `pmov.set` and `pmov.clr`, log entry 88; selectors on `xfm`, 89;
field A of `mmaa`, 91. -/
def Instr.form : Instr → Form
  | .add f => .full f.h (f.int2 f.ty.isI true)
  | .sub f => .full f.h (f.int2 f.ty.isI true)
  | .mul f => .full f.h (f.int2 f.ty.isI true (mulLat f.ty))
  | .mulh f => .full f.h (f.int2 f.ty.isI false (mulLat f.ty))
  | .mad f => .full f.h (f.shape (.dst 1) (.src f.ty 1) (.src f.ty 1) (.src f.ty 1) f.ty.isI (sat := true) (lo := true) (lat := mulLat f.ty))
  | .div f => .full f.h (f.int2 f.ty.isI false 0)
  | .rem f => .full f.h (f.int2 f.ty.isI false 0)
  | .min f => .full f.h (f.int2 f.ty.isI)
  | .max f => .full f.h (f.int2 f.ty.isI)
  | .abs f => .full f.h (f.int1 f.ty.isI true)
  | .neg f => .full f.h (f.int1 f.ty.isI true)
  | .addc f => .full f.h (f.shape (.dstReg 2) (.src f.ty 1) (.src f.ty 1) (.src f.ty 1) (f.ty.isI && fitsV f.d 2) (lo := true) (lat := 4))
  | .subb f => .full f.h (f.shape (.dstReg 2) (.src f.ty 1) (.src f.ty 1) (.src f.ty 1) (f.ty.isI && fitsV f.d 2) (lo := true) (lat := 4))
  | .sad f => .full f.h { f.shape (.dst 1) (.src f.ty 1) (.src f.ty 1) (.src .n64 1) (f.ty.isI && f.ty.width ≤ 16) (lo := true) (lat := 4) with dread := false }
  | .lea f => .full f.h (f.shape (.dst 1) (.src f.ty 1) (.src f.ty 1) (.sel f.ty) (f.ty.isI && f.ty.width == 64) (lo := true) (lat := 4) (opx := true))
  | .dot4 f => .full f.h (f.shape (.dst 1) (.src f.ty 1) (.src f.ty 1) (.src f.ty 1) (f.ty.isI && 32 ≤ f.ty.width) (sat := true) (lo := true) (lat := mulLat f.ty))
  | .dot2 f => .full f.h (f.shape (.dst 1) (.src f.ty 1) (.src f.ty 1) (.src f.ty 1) (f.ty.isI && 32 ≤ f.ty.width) (sat := true) (lo := true) (lat := mulLat f.ty))
  | .addImm f => .full f.h f.intS
  | .subImm f => .full f.h f.intS
  | .mulImm f => .full f.h (f.intS (mulLat f.ty))
  | .minImm f => .full f.h f.intS
  | .maxImm f => .full f.h f.intS
  | .and f => .full f.h (f.int2 f.ty.isA)
  | .or f => .full f.h (f.int2 f.ty.isA)
  | .xor f => .full f.h (f.int2 f.ty.isA)
  | .andn f => .full f.h (f.int2 f.ty.isA)
  | .not f => .full f.h (f.int1 f.ty.isA)
  | .shl f => .full f.h (f.int2 f.ty.isI)
  | .shr f => .full f.h (f.int2 f.ty.isI)
  | .sar f => .full f.h (f.int2 f.ty.isI)
  | .rot f => .full f.h (f.int2 f.ty.isI)
  | .popc f => .full f.h (f.int1 f.ty.isI)
  | .clz f => .full f.h (f.int1 f.ty.isI)
  | .ctz f => .full f.h (f.int1 f.ty.isI)
  | .brev f => .full f.h (f.int1 f.ty.isI)
  | .bfx f => .full f.h (f.int2 (f.ty.isI && 16 ≤ f.ty.width))
  | .bfi f => .full f.h (f.shape (.dst 1) (.src f.ty 1) (.src f.ty 1) (.src f.ty 1) (f.ty.isI && 16 ≤ f.ty.width) (lo := true) (lat := 4))
  | .sel f => .full f.h (f.shape (.dst 1) (.src f.ty 1) (.src f.ty 1) .predS f.ty.isA (lo := true) (lat := 4))
  | .mov f => .full f.h (if f.ty = .b128 then f.shape (.dst 2) (.src .b128 2) .unused .unused true (lat := 4) else f.int1 true)
  | .movw f => .full f.h (f.shape (.dst 1) (.num 4) (f.ty == .n64) true 4)
  | .andImm f => .full f.h f.intU
  | .orImm f => .full f.h f.intU
  | .xorImm f => .full f.h f.intU
  | .shlImm f => .full f.h f.intS
  | .shrImm f => .full f.h f.intS
  | .sarImm f => .full f.h f.intS
  | .rotImm f => .full f.h f.intS
  | .cmp f => .full f.h { f.shape .predD (.src f.ty 1) (.src f.ty 1) (.sel f.ty) f.ty.isI (lo := true) (lat := 4) (opx := f.opx.toNat < 6) with dread := false }
  | .fcmp f => .full f.h { f.shape .predD (.src f.ty 1) (.src f.ty 1) (.sel f.ty) f.ty.isF (lo := true) (lat := 4) (opx := true) with dread := false }
  | .plop f => .full f.h (f.shape .predD .predS .predS .unused (f.ty == .n64) (lat := 4) (opx := true))
  | .pmov f => .full f.h (f.shape .predD .predS .unused .unused (f.ty == .n64) (lat := 4) (opx := f.opx.toNat < 4))
  | .fadd f => .full f.h f.flt2
  | .fsub f => .full f.h f.flt2
  | .fmul f => .full f.h f.flt2
  | .fma f => .full f.h (f.shape (.dst 1) (.src f.ty 1) (.src f.ty 1) (.src f.ty 1) f.ty.isF (rm := true) (sat := true) (lo := true) (lat := fltLat f.ty))
  | .fmin f => .full f.h (f.flt2 (round := false))
  | .fmax f => .full f.h (f.flt2 (round := false))
  | .fcls f => .full f.h (f.flt1 f.ty.isF (round := false))
  | .fscale f => .full f.h (f.shape (.dst 1) (.src f.ty 1) (.src (intTy f.ty) 1) (.sel f.ty) f.ty.isF (rm := true) (sat := true) (lo := true) (lat := fltLat f.ty))
  | .fract f => .full f.h (f.flt1 f.ty.isF)
  | .frnd f => .full f.h (f.flt1 f.ty.isF)
  | .fdot2 f => .full f.h (f.shape (.dst 1) (.src f.ty 1) (.src f.ty 1) (.src .f32 1) (f.ty == .f16 || f.ty == .bf16) (rm := true) (sat := true) (lo := true) (lat := 4))
  | .cvt f => .full f.h f.cvtShape
  | .frcp f => .full f.h (f.flt1 f.ty.isF 0)
  | .frsq f => .full f.h (f.flt1 f.ty.isF 0)
  | .fsqrt f => .full f.h (f.flt1 f.ty.isF 0)
  | .fdiv f => .full f.h (f.flt2 0)
  | .fexp2 f => .full f.h (f.flt1 (f.ty.isF && f.ty != .f64) 0)
  | .flog2 f => .full f.h (f.flt1 (f.ty.isF && f.ty != .f64) 0)
  | .fsin f => .full f.h (f.flt1 (f.ty.isF && f.ty != .f64) 0)
  | .fcos f => .full f.h (f.flt1 (f.ty.isF && f.ty != .f64) 0)
  | .xfm f => .full f.h (f.shape (.dstVec 2) (.reg 3) (.reg 9) .unused (f.ty == .f32))
  | .shfl f => .full f.h (f.shape (.dst 1) (.src f.ty 1) (.src (intTy f.ty) 1) .uniCNil f.ty.isA (opx := f.opx.toNat < 4))
  | .vote f => .full f.h (f.shape (if f.opx == 3 then .dst 1 else .predD) .predS .unused .uniCNil (f.ty == .n64) (opx := f.opx.toNat < 4))
  | .redux f => .full f.h (f.combine false)
  | .perm f => .full f.h (f.shape (.dst 1) (.src .n8 1) (.src .n8 1) (.src .n8 1) (f.ty == .n8) (lo := true))
  | .rdln f => .full f.h (f.shape (.dst 1) (.src f.ty 1) .uniC .unused f.ty.isA)
  | .wrln f => .full f.h (f.shape (.dstVec 1) (.src f.ty 1) .uniC .unused f.ty.isA)
  | .scan f => .full f.h (f.combine true)
  | .pairAdd f => .pair f .add
  | .pairSub f => .pair f .sub
  | .pairMul f => .pair f .mul
  | .pairMin f => .pair f .min
  | .pairMax f => .pair f .max
  | .pairAnd f => .pair f .and
  | .pairOr f => .pair f .or
  | .pairXor f => .pair f .xor
  | .pairAndn f => .pair f .andn
  | .pairShl f => .pair f .shl
  | .pairShr f => .pair f .shr
  | .pairSar f => .pair f .sar
  | .pairMov f => .pair f .mov
  | .pairFadd f => .pair f .fadd
  | .pairFsub f => .pair f .fsub
  | .pairFmul f => .pair f .fmul
  | .pairFmin f => .pair f .fmin
  | .pairFmax f => .pair f .fmax
  | .ldG f => .full f.h f.load
  | .ldSp f => .full f.h f.load
  | .ldGs f => .full f.h f.load
  | .stG f => .full f.h f.store
  | .stSp f => .full f.h f.store
  | .stGs f => .full f.h f.store
  | .ldwG f => .full f.h f.loadw
  | .ldwSp f => .full f.h f.loadw
  | .ldwGs f => .full f.h f.loadw
  | .stp f => .full f.h (f.shape (.dst 1) (.uni 3) (.reg 2) (f.ty.isM && f.ty.width ≤ 64 && f.ty != .dw && f.ty != .wt && f.sc.some && f.imm == 0))
  | .pfl f => .full f.h (f.shape .unused (.reg 1) .unused (f.ty.isM && (f.sc == .tm || f.sc == .di)))
  | .cwb f => .full f.h (f.shape (.dst 1) (.reg 1) .unused (f.ty == .n64 && f.sc.some))
  | .cinv f => .full f.h (f.shape .unused (.reg 1) .unused (f.ty == .n64 && (f.sc == .tm || f.sc == .di)))
  | .icinv f => .full f.h (f.shape (.dst 1) (.reg 1) .unused (f.ty == .n64 && f.sc.atLeast 3 7))
  | .spmapMap f => .full f.h (f.shape (.dst 1) (.uni 1) (.uni 1) .unused .n64 f.sc.some)
  | .spmapUnmap f => .full f.h (f.shape (.dst 1) .unused (.uni 1) .unused .n64 f.sc.some (f.mod == 1))
  | .spmapFlush f => .full f.h (f.shape (.dst 1) .unused (.uni 1) .unused .n64 f.sc.some (f.mod == 2))
  | .spmapInval f => .full f.h (f.shape (.dst 1) .unused (.uni 1) .unused .n64 f.sc.some (f.mod == 3))
  | .lfen f => .full f.h (f.plain .unused .unused .unused .n64)
  | .wmrg f => .full f.h (f.plain (.dst 1) (.src .wt 1) (.src .wt 1) .wt)
  | .wtst f => .full f.h (f.plain .predD (.src .wt 1) .unused .wt)
  | .wwait f => .full f.h (f.plain .unused (.src .wt 1) .unused .wt)
  | .wfen f => .full f.h (f.shape (.dst 1) .unused .unused .unused .wt f.sc.some)
  | .wscp f => .full f.h (f.shape (.dst 1) (.src .wt 1) .unused .unused .wt f.sc.some)
  | .wloc f => .full f.h (f.plain (.dst 1) (.reg 1) .unused .wt)
  | .atomG f => .full f.h f.atom
  | .atomSp f => .full f.h f.atom
  | .atomGs f => .full f.h f.atom
  | .atomr f => .full f.h (f.shape (.dst 1) (.reg 1) (.src f.ty 1) .unused f.ty f.sc.some true (atomTy f.mod.toNat f.ty && f.mod != 7 && f.mod != 8))
  | .mwait f => .full f.h (f.shape (.dstVecNil 2) (.reg 1) (.src f.ty 1) .uniCNil f.ty (f.sc == .no) (f.mod.toNat < 4) ([Ty.i32, .n32, .i64, .n64].contains f.ty))
  | .seminc f => .full f.h (f.sem (.dst 1) (.src .n64 1) f.sc.some 0)
  | .semwGe f => .full f.h (f.sem (.dst 1) (.src .n64 1) (f.sc == .no) 0)
  | .semwTake f => .full f.h (f.sem (.dst 1) (.src .n64 1) (f.sc == .no) 1)
  | .semrd f => .full f.h (f.sem (.dst 2) .unused (f.sc == .no) 0)
  | .semset f => .full f.h (f.sem (.dst 1) (.src .n64 1) f.sc.some 0)
  | .ldd f => .full f.h (f.shape (.dstVecNil 1) (.reg 1) (.src .wt 1) ((f.ty == .f32 || f.ty == .dw) && f.sc == .no))
  | .std f => .full f.h (f.shape (.dst 1) (.reg 1) (.src f.ty 1) ((f.ty == .dw || f.ty == .n64) && f.sc.some))
  | .atomdAdd f => .full f.h (f.shape (.dstVecNil 2) (.reg 1) (.src f.ty 1) .unused .f32 f.sc.some)
  | .atomdMrg f => .full f.h (f.shape (.dstVecNil 2) (.reg 1) (.src f.ty 1) .unused .dw f.sc.some (f.mod == 1))
  | .dcvt f => .full f.h (f.shape (.dst 1) (.src .dw 1) (.src .n64 1) .unused (f.ty == .f32 || f.ty == .dw))
  | .stepadv f => .full f.h (f.shape (.dst 1) .uniC .unused .unused .n64 (f.sc == .no))
  | .steprd f => .full f.h (f.plain (.dst 1) .unused .unused .n64)
  | .kdecl f => .full f.h (f.shape .unused .uniC .unused .unused false true false (f.imm5 == 0))
  | .mma f => .full f.h (f.shape (.num 16) (.vec 16) (.src .n64 1) (.src .n64 1) true true true true)
  | .mmaa f => .full f.h (f.shape (.num 16) .regNil (.src .n64 1) (.src .n64 1) true true true true)
  | .vxm f => .full f.h (f.shape (.dstVec 17) (.vec 16) (.vec 1) (.src .n64 1) false true true (f.imm5.toNat % 4 == 0))
  | .mzero f => .full f.h (f.shape (.num 16) .unused .unused .unused false false false (f.imm5 == 0))
  | .mld f => .full f.h (f.shape (.num 16) (.reg 1) (.src .n64 1) (if f.dbl then .unused else .src .n64 1) false false false (f.imm5.toNat / 4 % 4 == 0 && f.imm5.toNat % 4 != 3))
  | .mst f => .full f.h (f.shape (.dst 1) (.reg 1) (.src .n64 1) (if f.dbl || f.imm5.getLsbD 3 then .unused else .src .n64 1) true false false
      (f.imm5.toNat % 4 != 3 && (!f.imm5.getLsbD 3 || (f.imm5.getLsbD 2 && !f.dbl))))
  | .mrd f => .full f.h (f.shape (.dstVec (if f.dbl then 32 else 16)) .unused .unused .unused true false false (f.imm5.toNat % 16 == 0))
  | .mwr f => .full f.h (f.shape (.num 16) (.vec (if f.dbl then 32 else 16)) .unused .unused false false false (f.imm5.toNat % 16 == 0))
  | .mvbnd f => .full f.h (f.shape .unused .uniC .unused .unused false false false (f.imm5 == 0))
  | .matrixEngineOpStart .. => .event
  | .cpy f => .full f.h (f.shape (.dstVecNil 1) (.src .n64 1) (.src .n64 1) (.src .n64 1) .n64 f.sc.some (f.mod.toNat < 4))
  | .cpyw f => .full f.h (f.shape (.dstVecNil 1) (.src .n64 1) (.src .n64 1) (.src .n64 1) .n64 f.sc.some (f.mod.toNat < 4))
  | .cpyg f => .full f.h (f.shape (.dstVecNil 1) (.src .n64 1) (.src .n64 1) (.src .n64 1) f.ty f.sc.some (f.mod.toNat < 4) f.ty.isM)
  | .chn f => .full f.h (f.shape (.dstVecNil 1) (.uni 1) .unused .unused .n64 (f.sc == .no))
  | .qfen f => .full f.h (f.shape (.dstVecNil 1) .uniC .unused .unused .n64 f.sc.some)
  | .qtail f => .full f.h (f.shape (.dst 1) .uniC (.uni 1) .unused .n64 f.sc.some)
  | .qpop f => .full f.h (f.shape (.dstVecNil 1) .unused .unused (.num 4) .n64 (f.sc == .no))
  | .qpush f => .full f.h (f.shape .unused (.vec 1) .unused (.num 4) .n64 (f.sc == .no))
  | .millRd f => .full f.h (f.shape (.dst 1) .unused .unused .unused .n64 (f.sc == .no))
  | .millClr f => .full f.h (f.shape .unused .unused .unused .unused .n64 (f.sc == .no) (f.mod == 1))
  | .fwait f => .full f.h (f.shape (.dst 1) (.src .wt 1) .unused .unused .wt (f.sc == .no))
  | .ftst f => .full f.h (f.shape .predD (.src .wt 1) .unused .unused .wt (f.sc == .no))
  | .fcan f => .full f.h (f.shape .predD (.src .wt 1) .unused .unused .wt (f.sc == .no))
  | .fmov f => .full f.h (f.shape (.dst 1) (.src .wt 1) .unused .unused .wt (f.sc == .no))
  | .fst f => .full f.h (f.shape (.dst 1) (.reg 1) (.src .wt 1) .unused .wt f.sc.some)
  | .fld f => .full f.h (f.shape (.dst 1) (.reg 1) .unused .unused .wt (f.sc == .no))
  | .trav f => .full f.h (f.shape (.dstVec 4) (.vec 4) (.src .n64 1) .unused .n64 (f.sc == .no) (f.mod.toNat < 2))
  | .tvis f => .full f.h (f.shape (.dstVecNil 1) (.vec 6) (.uni 1) .unused .n64 (f.sc == .no) (f.mod.toNat < 2))
  | .psget f => .full f.h (f.shape (.dstVecNil 1) .unused .unused .unused .n64 (f.sc == .no) (f.mod.toNat < 2))
  | .psput f => .full f.h (f.shape .unused (.src .n64 1) .unused .unused .n64 (f.sc == .no))
  | .psq f => .full f.h (f.shape .unused (.src .n64 1) .uniC .unused .n64 (f.sc == .no))
  | .psdq f => .full f.h (f.shape (.dstVecNil 1) .unused .uniC .unused .n64 (f.sc == .no) (f.mod.toNat < 2))
  | .amp f => .full f.h (f.shape (.dstVec 2) (.reg 2) (.uni 1) .unused .n64 (f.sc == .no))
  | .occq f => .full f.h (f.shape (.dstVecNil 1) (.reg 1) (.reg 2) (.uni 1) .n64 (f.sc == .no))
  | .smp f => .full f.h (f.shape (.dstVec 2) (.reg 2) (.uni 1) .unused .n64 (f.sc == .no) (f.mod.toNat < 2))
  | .send f => .full f.h (f.shape (.dstVecNil 1) (.vec 8) (if f.mod.getLsbD 0 then .predD else .unused) (.num 256) .n64 (f.sc.atLeast 9 11) (f.mod.toNat < 4))
  | .rget f => .full f.h (f.shape (.dstVecNil 1) (.reg 1) (.reg 2) (.num 256) .n64 (f.sc.atLeast 9 11) (f.mod == 0 || f.mod == 2) (fitsV f.b 2))
  | .rput f => .full f.h (f.shape (.dst 1) (.reg 1) (.reg 2) (.num 256) .n64 (f.sc.atLeast 9 11) (f.mod == 0 || f.mod == 2) (fitsV f.b 2))
  | .ratom f => .full f.h (f.shape (.dst 2) (.reg 1) (if f.mod == 8 then .reg 2 else .src f.ty 1) (.num 256) f.ty (f.sc.atLeast 9 11) (f.mod == 0 || f.mod == 8)
      (([Ty.i32, .n32, .i64, .n64].contains f.ty || (f.ty == .f32 && f.mod == 0)) && fitsV f.d 2 && (f.mod == 0 || fitsV f.b 2)))
  | .coll f => .full f.h (f.shape (.dstVecNil 1) (.uni 1) .unused (.num 256) .n64 (f.sc == .no))
  | .bkt f => .full f.h (f.shape .unused .uniC .uniC .unused .n64 (f.sc == .no))
  | .bra f => .full f.h (f.shape .unused .unused)
  | .brx f => .full f.h (f.plain .unused (.reg 1) .unused .n64)
  | .call f => .full f.h (f.shape (.dstReg 1) .unused (lat := 4))
  | .calx f => .full f.h (f.plain (.dstReg 1) (.reg 1) .unused .n64 4)
  | .ret f => .full f.h (f.plain .unused (.reg 1) .unused .n64)
  | .land f => .full f.h (f.plain .unused .unused .unused .n64)
  | .hlp f => .full f.h (f.shape (.num 2) .regC (1 ≤ f.off.toNat && f.off.toNat < 2 ^ 20))
  | .exit f => .full f.h (f.plain .unused .unused .unused .n64)
  | .kill f => .full f.h (f.plain .unused .uniC .unused .n64)
  | .teamEnd .. => .event
  | .bar f => .full f.h (f.shape .unused .unused .unused .unused (f.ty == .n64) (opx := true))
  | .barg f => .full f.h (f.shape .unused .unused .unused .unused (f.ty == .n64) (opx := true))
  | .nap f => .full f.h (f.shape .unused .unused (f.ty == .n64))
  | .napExpiry .. => .event
  | .trap f => .full f.h (f.shape .unused .unused (f.ty == .n64))
  | .brk f => .full f.h (f.shape .unused .unused (f.ty == .n64))
  | .tret f => .full f.h (f.plain .unused .unused .unused .n64)
  | .rdsys f => .full f.h (f.shape (.dstReg 1) .unused (f.ty == .n64 && f.imm.toNat < 16))
  | .wrsys f => .full f.h (f.shape .unused (.src .n64 1) (f.ty == .n64 && f.imm.toNat < 16 && f.imm != 0x0D && f.imm != 0x0E))
  | .dfacWrite f => .full f.h (f.shape .unused (.src .n64 1) (f.ty == .n64 && f.imm == 0x0E))
  | .srseedWrite f => .full f.h (f.shape .unused (.src .n64 1) (f.ty == .n64 && f.imm == 0x0D))
  | .tlbiPg f => .full f.h (f.shape (.dstVecNil 1) (.uni 1) .unused .unused .n64 (f.sc.atLeast 3 7))
  | .tlbiCtx f => .full f.h (f.shape (.dstVecNil 1) .unused .unused .unused .n64 (f.sc.atLeast 3 7) (f.mod == 1))
  | .capw f => .full f.h (f.shape .unused .uniC .unused (.num 256) .n64 (f.sc == .no))
  | .capi f => .full f.h (f.shape .unused .unused .unused (.num 256) .n64 (f.sc == .no))
  | .registerWriteback .. | .loopBufferFill .. | .trapEntry .. | .haRequestPerform .. | .scratchpadPortPerform ..
  | .monitorDeadline .. | .monitorPoll .. | .monitorSwapOut .. | .barrierTimeout .. | .closedTickPublish ..
  | .accessCloseTimeout .. | .l2Writeback .. | .futureResolve .. | .queueEntryStart .. | .chainNop .. | .chainCopy ..
  | .chainFill .. | .chainGather .. | .chainSeminc .. | .chainSemwait .. | .chainWaitseq .. | .chainSubmit ..
  | .chainLink .. | .chainWaitMet .. | .chainEntryComplete .. | .chainEnable .. | .chainTailWrite .. | .millChainStart ..
  | .iuInstanceStart .. | .nodeDispatch .. | .drainLimitExpiry .. | .backfillStop .. | .forcedSave .. | .nodeComplete ..
  | .reExecutionRequest .. | .packetReceive .. | .fencedMessagePerform .. | .recordPlace .. | .ackReceive ..
  | .packetRetransmit .. | .connectionFail .. | .connectionOpen .. | .connectionUp .. | .connectionClose ..
  | .connectionClosed .. | .receiveEndpointWrite .. | .keyEpochInstall .. | .keyEpochRetire .. | .rrcFetchComplete ..
  | .collectivePerform .. | .collectiveYield .. | .collectiveSemWaitMet .. | .imsicMessage .. | .shootdownPage ..
  | .shootdownContext .. | .shootdownAll .. | .shootdownComplete .. | .hostRead .. | .hostPostedWrite .. | .hostAtomicop ..
  | .semVStore .. | .semIncrementPort .. | .escalationResume .. | .escalationEndFrozen .. | .escalationEndTeam ..
  | .registerWrite .. | .moduleReset .. | .leaderBootClaim .. | .leaderTakeoverClaim .. | .lockstepCheckpoint ..
  | .lockstepDivergence .. | .attestationReport .. | .throttle .. | .thermalShutdown .. | .thermalSample ..
  | .droopWindow .. | .correctedError .. | .poisonCreate .. | .coreFieldFailure .. | .hbmChannelFailure ..
  | .linkLaneFailure .. | .instructionFetchReturn .. | .serviceOsEndsTeam .. => .event

/-- Every field is allowed for its use and every code is accepted (checks 2 and 4 of R82). -/
def Shape.wf (s : Shape) : Bool := s.ok && s.fields.all fun (u, x) => u.ok x

/-- Checks 2 and 4 of R82 pass. -/
def Instr.fieldsOk (i : Instr) : Bool :=
  match i.form with
  | .full _ s => s.wf
  | .pair f o => decide (f.stall.toNat < 4) && f.h1.ok o && f.h2.ok f.op2
  | .event => true

/-- Check 5 of R82 passes. -/
def Instr.pairOk (i : Instr) : Bool :=
  match i.form with
  | .pair f o => f.rule o
  | _ => true

/-- A well-formed instruction: checks 2, 4 and 5 of R82 pass. -/
def Instr.wf (i : Instr) : Bool := i.fieldsOk && i.pairOk

/-- The instruction is one of the opcode table's words. -/
def Instr.isWord (i : Instr) : Bool :=
  match i.form with
  | .event => false
  | _ => true

end Sys2Proof
end

