-- ==== Sys2Proof/Machine/State.lean ====
section
/-! DEFINITION. The machine's state as plain data: everything the spec gives a package, in tables by number, and the
state after module reset. -/

namespace Sys2Proof.Machine

/-- Why the machine stops. -/
inductive Fault
  /-- Raised by `step` when a die has passed 105 °C and the module has stopped (R29). Safe: the hardware stops too. -/
  | moduleStopped
  deriving DecidableEq, Repr

/-- Why an instruction has no meaning. -/
inductive Refusal
  /-- Raised by an arm of `exec` whose instruction is not modelled; no arm raises it. Safe: nothing can be proved of it. -/
  | notModelled (mnemonic : String)
  deriving DecidableEq, Repr

/-- Memory: bytes by address, addresses rising, no byte 0 (an unlisted byte reads 0, log entry 1). -/
abbrev Memory := List Host.Cell

/-- Where the bytes of an access lie (R193, R195, R198, R291, R411). -/
inductive Loc
  | hbm (pa : Nat)
  | pool (core off : Nat)
  | sp (core off : Nat)
  | sync (core off : Nat)
  | queue (core off : Nat)
  | control (core off : Nat)
  | burzon (off : Nat)
  | host (addr : Nat)
  | peer (pkg va : Nat)
  deriving DecidableEq, Repr

/-- Writes that have been performed and have yet to close (R224): their agents, the latest tick, and messages to peers, by connection and
number. -/
structure Opened where
  agents : List Nat := []
  tick : Nat := 0
  links : List (Nat × Nat) := []
  deriving DecidableEq, Repr, Inhabited

/-- A lane of a core's warp; `lane` 32 and above stands for no lane. -/
structure LaneId where
  core : Nat
  slot : Nat
  lane : Nat
  deriving DecidableEq, Repr, Inhabited

/-- Which future-table entry a register is pending on, and its generation (R344, R345). -/
structure FutRef where
  core : Nat
  ent : Nat
  gen : Nat
  deriving DecidableEq, Repr, Inhabited

/-- What a register carries beside its value: poison (R211), a fault that its first reader raises (R283, R282, R352, R381)
with the value of AUX, a pending handle (R345), and the variable-latency writes on their way (R78). -/
structure Mark where
  bad : Bool := false
  fault : Nat := 0
  aux : Nat := 0
  fut : Option FutRef := none
  pend : Nat := 0
  deriving DecidableEq, Repr, Inhabited

/-- A fixed-latency result that has not reached its distance: the register's earlier value, and the distance left (R74-R78).
A predicate's value is 0 or 1. -/
structure Shadow where
  reg : Nat
  old : Word
  left : Nat
  deriving DecidableEq, Repr, Inhabited

/-- One hardware loop of a lane (R322). -/
structure Loop where
  count : BitVec 32 := 0
  start : Word := 0
  stop : Word := 0
  active : Bool := false
  deriving DecidableEq, Repr, Inhabited

/-- What a lane waits for (R310). -/
inductive Park
  | none
  /-- Waits at its word for an event; it reissues the word once woken. -/
  | retry
  /-- Waits for its word to be fetched from a line (R310). -/
  | fetch
  /-- Arrived at barrier `n` of the team, or of the gang, with the witness of its fence (R325). -/
  | bar (n : Nat) (gang : Bool) (f : Word)
  /-- A barrier has completed; waits until the witness is satisfied (R325). -/
  | barWait (w : Word)
  /-- Signed convergence register k (R151). -/
  | sign (k : Nat)
  /-- Waits in a cross-lane instance (R136). -/
  | cross
  /-- A monitor of `mwait` (R259). -/
  | monitor (k : Nat)
  /-- In a semaphore's waiting list (R267). -/
  | sem
  /-- Its semaphore's request is served: waits until the witness is satisfied, then D receives it (R267). -/
  | semGot (w : Word) (d : Option Nat)
  /-- Has taken a stage queue's entry: waits until its witness is satisfied, then D receives the index (R380). -/
  | slotGot (w : Word) (d : Option Nat) (v : Word)
  /-- Parked at an architected queue, or at Palette with none free (R355, R379). -/
  | queue
  /-- A `send` at zero allowance (R288). -/
  | allowance
  /-- `nap` until a time (R327). -/
  | nap (until_ : Nat)
  /-- Stays at its word until the replies of join j are back (R190, R383). -/
  | replies (j : Nat)
  /-- Its `stepadv` is queued or under way (R184). -/
  | step
  /-- Has gone past a word, and waits for the lanes that issued it beside it and still wait at it (log entry 29). -/
  | together (m : Mask)
  deriving DecidableEq, Repr, Inhabited

/-- One lane (R304, R308, R322). -/
structure LaneSt where
  live : Bool := false
  handler : Bool := false
  killed : Bool := false
  held : Bool := false
  pc : Word := 0
  prev : Word := 0
  preds : BitVec 8 := 0x80
  lc0 : Loop := {}
  lc1 : Loop := {}
  later : Bool := false
  gen : Word := 0
  park : Park := .none
  /-- Other lanes that issued its word wait for it (log entry 29). -/
  tied : Bool := false
  since : Nat := 0
  skip : Nat := 0
  /-- The word that the lane issued last, and whether by the loop-buffer port (R434). -/
  word : Word := 0
  lbp : Bool := false
  shadow : List Shadow := []
  /-- Latest stamp of the lane's writes by agent, and highest message by connection (R240). -/
  wrote : Tab Nat := []
  fab : Tab Nat := []
  /-- Predicates that an operation in flight will write, by its request number (R164). -/
  ppend : Tab Nat := []
  deriving DecidableEq, Repr, Inhabited

/-- One warp (R304, R422, R432-R438). -/
structure WarpSt where
  wmode : Word := 0
  bnd : Nat := 0
  barto : Nat := 100000000
  tsave : Word := 0
  srseed : Word := 0
  tcount : BitVec 32 := 0
  /-- Where each faulting lane of the record in force met the word (R434, R435). -/
  recPcs : Tab Word := []
  /-- Cause of the record in force, which an escalation reports as the first (R438). -/
  cause : Nat := 0
  frozen : Bool := false
  estat : Word := 0
  erec : Word := 0
  /-- Core cycle before which the warp does not issue (R74), and cycle of its last issue (R312). -/
  ready : Nat := 0
  last : Nat := 0
  deriving DecidableEq, Repr, Inhabited

/-- Who waits at a semaphore: lanes of a warp with their destination, a command chain, or a collective. -/
inductive Waiter
  | lanes (core slot team : Nat) (m : Mask) (d : Option Nat)
  | chain (k : Nat)
  | coll (k : Nat)
  deriving DecidableEq, Repr

/-- An entry of a semaphore's waiting list: who waits, its threshold, whether it takes, and when it came (R267). -/
structure SemWait where
  who : Waiter
  thr : Nat
  take : Bool
  since : Nat
  deriving DecidableEq, Repr

/-- A semaphore (R263). -/
structure Sem where
  v : Nat := 0
  w : Word := 0
  wait : List SemWait := []
  deriving DecidableEq, Repr, Inhabited

/-- A lane's signature: what it signed (R151, R152). -/
structure Sign where
  lane : Nat
  i : Instr
  word : Word
  lbp : Bool
  fmt : Word
  desc : Word
  deriving DecidableEq, Repr

/-- A convergence register (R150), with its signatures; `since` is the first one's time. -/
structure Conv where
  owner : Option Nat := none
  members : Mask := 0
  signed : Mask := 0
  signs : List Sign := []
  since : Nat := 0
  deriving DecidableEq, Repr, Inhabited

/-- A representative block of an HA (R209): element type, distance, bytes and their poison. -/
structure Rep where
  ha : Nat
  et : Nat
  t : Nat
  bytes : List Byte
  bad : List Bool
  deriving DecidableEq, Repr

/-- Entry of the mapping table (R199). -/
structure MapEnt where
  gr : Nat
  va : Nat
  pa : Nat
  dirty : Bool
  deriving DecidableEq, Repr, Inhabited

/-- An architected queue: entries of 32 words with their poison, and counts (R355). -/
structure AQueue where
  ents : List (List Word × List Bool) := []
  pushes : Nat := 0
  pops : Nat := 0
  deriving DecidableEq, Repr, Inhabited

/-- A lane that has arrived at a cross-lane instance: whether it is a participant, what it contributes, and its own A and B as a
reader (R136, R142). -/
structure CrossLane where
  lane : Nat
  part : Bool
  gives : Word
  a : Word
  b : Word
  fault : Nat
  deriving DecidableEq, Repr, Inhabited

/-- A cross-lane instance that gathers its members (R136); `since` is its first participant's arrival, 0 before it. -/
structure Cross where
  slot : Nat
  pc : Word
  members : Mask
  arr : List CrossLane
  since : Nat
  i : Instr
  word : Word
  lbp : Bool
  deriving DecidableEq, Repr

/-- A Mill chain: its descriptor's dwords and handle (R351); or a fence's place, with its number (R354). `pos` elements are
done; `shut` are the writes of a chain that has ended, until they close (R352). -/
structure MillJob where
  desc : List Word
  fut : Option FutRef
  user : Bool
  fence : Option Nat := none
  wit : Word := 0
  pos : Nat := 0
  /-- The chain has begun, and has adopted what it had to (R352). -/
  begun : Bool := false
  shut : Option Opened := none
  deriving DecidableEq, Repr, Inhabited

/-- Lanes parked at an architected queue (R355): what they push, or the register that they pop into. -/
structure AqWait where
  slot : Nat
  lanes : Mask
  push : Option (List Word × List Bool)
  dst : BitVec 8
  since : Nat
  deriving DecidableEq, Repr, Inhabited

/-- The team resident on a core (R304-R308). -/
structure TeamSt where
  ctx : Nat := 0
  nid : Nat := 0xFFFF
  cls : Nat := 2
  nwarp : Nat := 0
  nreg : Nat := 0
  nacc : Nat := 0
  /-- Launch origin (package mesh) and gang sides (R305). -/
  ox : Nat := 0
  oy : Nat := 0
  gw : Nat := 1
  gh : Nat := 1
  /-- The context block's fields as they stood at dispatch (R407). -/
  tvec : Nat := 0
  trbase : Nat := 0
  factab : Nat := 0
  drainlim : Nat := 2000000
  /-- All lanes have ended; work of the team may still be on its way (R324). -/
  ended : Bool := false
  sems : Tab Sem := []
  kregs : Tab Conv := []
  /-- First arrival at each barrier, and the warp that arrived last: 0-7 team, 8-15 gang (R313, R325). -/
  bars : Tab (Nat × Nat) := []
  map : Tab MapEnt := []
  /-- The mapping table of a saved team, to be mapped again (R201). -/
  mapped : Tab MapEnt := []
  aq : Tab AQueue := []
  aqWait : Tab (List AqWait) := []
  mill : List MillJob := []
  millDone : Nat := 0
  millHalt : Nat := 0
  millGen : Word := 0
  /-- A `wrsys` of srseed that the Mill adopts before its next chain (R352). -/
  millSeed : Option Word := none
  urgent : Option Nat := none
  cross : List Cross := []
  /-- First moment at which every live lane was parked in `mwait` or `semw` (R262). -/
  idle : Option Nat := none
  deriving DecidableEq, Repr, Inhabited

/-- How a tile's rows are stored (R168): element width in bits, add-on-store, how elements are added (0 f32, 1 integer,
2 f64, 3 by the format), format and its rounding. -/
structure TileMode where
  w : Nat
  add : Bool
  how : Nat
  ty : Ty
  un : Bool
  inf : Bool
  rm : Rm
  sat : Bool
  deriving DecidableEq, Repr

/-- One row of a tile on its way to memory: place, elements, generator draws, poisoned granules. -/
structure TileRow where
  loc : Loc
  vals : List Nat
  draws : List Nat
  bad : List Bool
  deriving DecidableEq, Repr

/-- The operation of a request at its agent. -/
inductive ReqOp
  | load (t : Ty)
  | store (data : List Byte) (sc : Scope)
  | atomic (op : Nat) (t : Ty) (b c : Nat) (sc : Scope) (old : Bool)
  /-- `stp`: the write at the first place, then its copy at `q` unless that is the same place (R216). -/
  | stp (data : List Byte) (q : Loc) (sc : Scope) (leaf : Word)
  /-- Rows of `mst`: one row at an HA, or a whole tile at a scratchpad port (R169). -/
  | tile (m : TileMode) (rows : List TileRow) (sc : Scope)
  /-- `wloc`: an empty access (R242). -/
  | touch
  /-- `ldd`, by the type of its result (R180). -/
  | lddw (t : Ty)
  | stdw (w : Word) (sc : Scope)
  | addDw (x : Nat) (sc : Scope)
  | mrgDw (w : Word) (sc : Scope)
  /-- `fld` (R360). -/
  | fld
  /-- A visible sample of `tvis` or `amp`'s count, performed at the agent (R375, R383): see the rendering units. -/
  | unit (kind : Nat) (args : List Nat)
  /-- `cwb` (R218). -/
  | cwb (sc : Scope)
  deriving DecidableEq, Repr

/-- An access that has issued and is not yet performed: the lanes for which it counts, the register that it writes, the
request path on which it follows earlier ones (R249: a core's drain path; R216: an HA's forwarding), and the join that gathers
its witness. `team` is the issuing team's context and node; `own` says that a scratchpad space names that team's own gang;
`ord` is the place in issue order, `inst` the instance in the drain queue. -/
structure Req where
  who : LaneId
  lanes : Mask
  team : Nat
  own : Bool
  ord : Nat
  inst : Nat
  ctx : Nat
  cls : Nat
  loc : Loc
  op : ReqOp
  dst : Option Nat
  path : Option Nat
  leaf : Word
  join : Option Nat
  /-- When it issued. -/
  since : Nat
  deriving DecidableEq, Repr

/-- Several requests whose witnesses become one (R169, R216): lanes and register, how many are left, what has come. With
`hold` set, lanes stay at `word` until all is back; `faults` are lane, cause and address of those that met a fault. -/
structure Join where
  who : LaneId
  lanes : Mask
  team : Nat
  id : Nat
  dst : Option Nat
  left : Nat
  wits : List Word
  hold : Bool := false
  word : Word := 0
  lbp : Bool := false
  faults : List (Nat × Nat × Nat) := []
  /-- The witness goes to a handle (R375, R376). -/
  fut : Option FutRef := none
  /-- The sample writes that must close first (R375). -/
  shut : Option Opened := none
  deriving DecidableEq, Repr

/-- Register writes on their way to a lane (R78): register, value, mark; `id` is the number that the registers wait for. `kind`:
0 plain, 1 `ldd.f32`, 2 `ldd.dw`, which decay on return (R180), 3 `fld`. `join` is a join whose lanes wait for it, with the
cause of a fault found, or 0, and its address. -/
structure Reply where
  who : LaneId
  team : Nat
  regs : List (Nat × Word × Mark)
  /-- The reply of a load or of an atomic's old value (R220). -/
  load : Bool
  id : Nat
  kind : Nat := 0
  join : Option (Nat × Nat × Nat) := none
  deriving DecidableEq, Repr

/-- An entry of a TLB (R415); `at_` is the core, or the die. -/
structure TlbEnt where
  at_ : Nat
  ctx : Nat
  level : Nat
  page : Nat
  leaf : Word
  ent : Nat
  deriving DecidableEq, Repr

/-- An L1 line: its context, its valid 4-byte words, its bytes and their poison (R203, R211). `stale`: the HA has performed another
agent's write of the line, and has yet to drop this copy (R204). -/
structure L1Line where
  ctx : Nat
  valid : BitVec 32
  bytes : List Byte
  bad : List Bool
  stale : Bool := false
  deriving DecidableEq, Repr, Inhabited

/-- An instruction-cache line: its context and bytes (R315, R409). -/
structure IcLine where
  ctx : Nat
  bytes : List Byte
  deriving DecidableEq, Repr, Inhabited

/-- The loop-buffer window of one lane position (R315). -/
structure LoopWin where
  slot : Nat
  base : Nat
  words : List Word
  deriving DecidableEq, Repr, Inhabited

/-- A loop-buffer fill in progress (R315). -/
structure Fill where
  core : Nat
  sub : Nat
  slot : Nat
  lanes : Mask
  base : Nat
  deriving DecidableEq, Repr

/-- A sub-core's issue state (R312). -/
structure SubSt where
  cycle : Nat := 0
  /-- The two fixed choices: a slot, or none for an idle cycle; outermost none is a choice not yet made. -/
  c1 : Option (Option Nat) := none
  c2 : Option (Option Nat) := none
  last : Nat := 0
  /-- Words that an `icinv` has dropped and that a fixed choice may still issue: slot, PC, word, cycles left (R318). -/
  kept : List (Nat × Word × Word × Nat) := []
  deriving DecidableEq, Repr, Inhabited

/-- An entry of a core's future table (R344). -/
structure FutSt where
  /-- Its generation, counted without end: a handle holds the low 28 bits. -/
  gen : Nat := 0
  /-- What the generation is at least once a restored team's work has freed the entry (R337). -/
  top : Nat := 0
  busy : Bool := false
  /-- Held by `cpy`, `cpyw` or `cpyg` (R344). -/
  copy : Bool := false
  /-- The work has started and can no longer be cancelled (R359). -/
  started : Bool := false
  /-- Complete: witness and the fault of its reader, waiting for FUTURE_RESOLVE. -/
  result : Option (Word × Nat × Nat) := none
  deriving DecidableEq, Repr, Inhabited

/-- The fields of a format word (R107). -/
structure FmtWord where
  aty : Ty
  bty : Ty
  act : Nat
  scm : Nat
  ovf : Bool
  ie : Bool
  au : Bool
  bu : Bool
  drm : Rm
  deriving DecidableEq, Repr

/-- One lane of a `vxm`: places of its 4 KiB block and scales by 128-byte line (none for a null pointer), x, scale register,
y as read at issue, and its handle (R164). -/
structure VxmLane where
  lane : Nat
  f : FmtWord
  block : Option (List Loc)
  x : List Word
  scale : Word
  ys : List Word
  fut : FutRef
  deriving DecidableEq, Repr

/-- What a matrix-engine operation does (R160). -/
inductive MxKind
  /-- `mma`: tiles, format, B descriptor, A rows and scale registers by member lane, first byte and lane mode of the scales. -/
  | mma (d c : Nat) (f : FmtWord) (kx nx off : Nat) (rows : List (Nat × List Word)) (scale : List (Nat × Word)) (ao mode : Nat) (z : Bool)
  /-- `mmaa`: destination, first source tile and their number, generator draws by member lane. -/
  | mmaa (d a n : Nat) (f : FmtWord) (kx nx off : Nat) (members : List Nat) (draws : List (Nat × List Nat)) (scale : List (Nat × Word)) (bo mode : Nat) (z : Bool)
  /-- `vxm` in its lanes: lane, place of the weights and of their scales, x, scale register, y as read at issue, handle. -/
  | vxm (d p ao : Nat) (z : Bool) (ls : List VxmLane)
  | mzero (t : Nat)
  /-- Tile, places of the rows, format, `.d`, generator draws by row. -/
  | mld (t : Nat) (rows : List Loc) (f : Option FmtWord) (dbl : Bool) (draws : List (List Nat))
  /-- Places of the rows, or one place of the whole tile; space, whether the space is the team's own. -/
  | mst (t : Nat) (rows : List Loc) (leaves : List Word) (m : TileMode) (f : Option FmtWord) (dbl : Bool) (draws : List (List Nat)) (space : Nat) (d : Option Nat)
  | mrd (t d : Nat) (dbl : Bool)
  | mwr (t : Nat) (rows : List (Nat × List Word)) (dbl : Bool)
  deriving DecidableEq, Repr

/-- A matrix-engine operation in a core's queue (R154); `id` is the request number that its registers wait for. -/
structure MxOp where
  slot : Nat
  lanes : Mask
  ctx : Nat
  cls : Nat
  id : Nat
  k : MxKind
  /-- Lines that came from a peer, by number, with poison and the fault of a refused one (R291). -/
  got : Tab (List Byte × List Bool × Nat) := []
  deriving DecidableEq, Repr

/-- One granule that a copy moves (R350): its destination with the leaf, its length, and where its bytes come from. -/
structure CopyMove where
  dst : Loc
  leaf : Word
  n : Nat
  src : List (Loc × Word × Nat)
  deriving DecidableEq, Repr

/-- Work of a copy queue, or a fence that joins queues (R245, R347): `sem` is `cpyw`'s semaphore (its core and number). -/
structure CopyJob where
  who : LaneId
  team : Nat
  ctx : Nat
  cls : Nat
  moves : List CopyMove
  sem : Option (Nat × Nat)
  sc : Scope
  fut : Option FutRef
  /-- A `qfen` entry: the mask of its queues and its number (R354). -/
  fence : Option (Nat × Nat) := none
  /-- What a fence covers so far. -/
  wit : Word := 0
  /-- The moves are made, and their writes have yet to close (R244). -/
  shut : Option Opened := none
  deriving DecidableEq, Repr

/-- How far a traversal has come (R368): `best` and the entry distances of its stack as f32 codes, the nearest hit (its record's address, t, u, v,
triangle id), whether it has read poison, and whether it has been stopped (R371). -/
structure Walk where
  best : Nat
  hit : Option (Nat × Nat × Nat × Nat × Nat) := none
  stack : List (Word × Nat)
  bad : Bool := false
  stopped : Bool := false
  deriving DecidableEq, Repr

/-- One lane of an intersection-unit instance: its registers' words, the descriptor or root that it named, the place of `occq`'s
predicate word, and where its results go. -/
structure IuLane where
  lane : Nat
  words : List Word
  desc : List Word
  place : Option (Loc × Word)
  dst : Nat
  fut : FutRef
  walk : Option Walk := none
  deriving DecidableEq, Repr

/-- An instance of the intersection unit (R362): 0 `trav`, 1 `tvis`, 2 `occq`; `flag` is `.any` or `.cull`, `id` the number that
registers wait for, `got` the granules that came from a peer, by package and address. -/
structure IuJob where
  kind : Nat
  slot : Nat
  team : Nat
  ctx : Nat
  cls : Nat
  user : Bool
  flag : Bool
  id : Nat
  lanes : List IuLane
  got : Tab (List Byte × List Bool × Nat) := []
  deriving DecidableEq, Repr

/-- A monitor of an `mwait` lane (R259-R262): at its agent, or polled by its core. -/
structure Mon where
  who : LaneId
  /-- The lane's team, by context and node. -/
  team : Nat
  ctx : Nat
  loc : Loc
  ty : Ty
  cond : Nat
  b : Nat
  deadline : Nat
  dst : Option Nat
  polled : Bool
  lastPoll : Nat
  value : Nat
  bad : Bool
  /-- A finish recorded for a team that is swapped out (R262). -/
  done : Option (Word × Word)
  deriving DecidableEq, Repr

/-- A `stepadv` of a context, queued or under way (R184). -/
structure StepReq where
  who : LaneId
  lanes : Mask
  team : Nat
  n : Nat
  dst : Option Nat
  deriving DecidableEq, Repr

/-- A context (R407). -/
structure CtxSt where
  live : Bool := false
  cmin : Nat := 0
  /-- The table in use, and the one that a context shootdown brings into use. -/
  pgroot : Nat := 0
  pgNew : Nat := 0
  captab : Nat := 0
  tvec : Nat := 0
  trbase : Nat := 0
  factab : Nat := 0
  drainlim : Nat := 2000000
  /-- Step, decay factors that differ from 1.0 and their power rows, stale count (R175, R176). -/
  step : Nat := 0
  /-- Queued `stepadv` operations, the first of them under way: the HAs that have swept for it, the step that it sends once they all
  have, and the agents that have adopted that step (R184-R186). -/
  advs : List StepReq := []
  swept : Tab Bool := []
  next : Option Nat := none
  adopted : Tab Bool := []
  lam : Tab Nat := []
  pow : Tab (List Nat) := []
  dstale : Nat := 0
  collmode : Word := 0
  deriving DecidableEq, Repr, Inhabited

/-- A graph node (R329-R335, R440). `phase`: 0 waits for predecessors, 1 ready, 2 running, 4 failed. -/
structure Node where
  ctx : Nat
  nid : Nat
  desc : List Word
  chain : Nat
  count : Nat
  phase : Nat := 0
  readyAt : Nat := 0
  /-- Teams that have not ended, and the first core of the origin. -/
  left : Nat := 0
  reruns : Nat := 0
  core0 : Nat := 0
  /-- A re-execution waits for the node's teams to end (R439). -/
  rerun : Bool := false
  /-- The tile operands' dwords (R330), and the collective that an engine node runs. -/
  tops : List Word := []
  coll : Option Nat := none
  /-- The node's work has ended, at this tick: it completes once every write has closed (R335). -/
  endAt : Option Nat := none
  deriving DecidableEq, Repr

/-- What a core holds of its team, as a forced save takes it (R337): by warp, lane, register, future entry and scratchpad byte. -/
structure Image where
  warps : Tab WarpSt := []
  lanes : Tab LaneSt := []
  pool : Tab Word := []
  marks : Tab Mark := []
  ureg : Tab Word := []
  umarks : Tab Mark := []
  fut : Tab FutSt := []
  sp : Memory := []
  spPoison : Tab Bool := []
  deriving DecidableEq, Repr, Inhabited

/-- A saved team (R337): bound to its core; swapped out by its monitors (R262); re-queued, and since when. -/
structure Saved where
  core : Nat
  team : TeamSt
  img : Image
  swapped : Bool
  queued : Bool
  at_ : Nat
  deriving DecidableEq, Repr

/-- A gang that is being drained or saved for a more urgent node (R336). -/
structure Drain where
  node : Nat
  cores : List Nat
  deadline : Nat
  expired : Bool
  deriving DecidableEq, Repr

/-- A command chain (R340, R341). -/
structure Chain where
  seg : Nat := 0
  tail : Nat := 0
  done : Nat := 0
  seqa : Nat := 0
  msia : Nat := 0
  msid : Word := 0
  erra : Nat := 0
  ctl : Word := 0
  unit : Nat := 0
  /-- The entry in progress: its dwords and address, whether it is performed, its completion witness. -/
  cur : Option (List Word × Nat) := none
  curDone : Bool := false
  wit : Word := 0
  /-- Merge of the completion witnesses of earlier entries (R339). -/
  prior : Word := 0
  /-- Witnesses of the TAIL writes that are not yet satisfied, with the core that checks them (R353). -/
  gates : List (Nat × Word × Nat) := []
  /-- A wait has begun; its semaphore has served it. -/
  waiting : Bool := false
  got : Bool := false
  /-- Writes of the entry that is performed; its store at SEQA, once DONE is set; the record of an error, whose message waits for it
  (R339, R341, R342). -/
  shut : Opened := {}
  seqAt : Option Opened := none
  errAt : Option Opened := none
  deriving DecidableEq, Repr, Inhabited

/-- A message sent on a connection and not yet complete (R278-R283). `kind`: 0 write, 1 `rget`, 2 atomic, 3 record. `pages` are
the local pages of an `rget`, by virtual page, with their physical address; `bad` the poison of the granules sent; `parts` the
offsets of the data that have come back, with their lengths, and `shut` the writes by which they landed. `cls` is the class of the work
that issued it (R26). `endp` is the endpoint, or 65536 for a peer aperture. -/
structure Msg where
  seq : Nat
  kind : Nat
  who : LaneId
  team : Nat
  ctx : Nat
  lva : Nat
  rva : Nat
  len : Nat
  dst : Option Nat
  id : Nat
  fut : Option FutRef
  ty : Ty
  sc : Scope
  endp : Nat
  words : List Word
  fen : Bool
  sent : Nat
  pages : List (Nat × Nat) := []
  bad : List Bool := []
  parts : List (Nat × Nat) := []
  shut : Opened := {}
  cls : Nat := 0
  deriving DecidableEq, Repr

/-- A received message whose bytes are performed, or are being performed: their writes, whether all have come, and whether an
acknowledgement is due once they have closed (R279, R280). -/
structure Landing where
  shut : Opened := {}
  whole : Bool := false
  ack : Bool := false
  deriving DecidableEq, Repr, Inhabited

/-- A record that a receive slot holds (R288, R289): what names its sender, the connection, and where it goes; `placed` is the slot of
Palette that has been written, until its writes close. -/
structure RecordIn where
  conn : Nat
  seq : Nat
  ctx : Nat
  endp : Nat
  stq : Nat
  words : List Word
  lane : Nat
  core : Nat
  pkg : Nat
  placed : Option (Nat × Opened) := none
  deriving DecidableEq, Repr

/-- A connection: control block and message state (R275, R278-R282). -/
structure Conn where
  cctl : Word := 0
  paddr : Word := 0
  ccfg : Word := 0
  opened : Bool := false
  up : Bool := false
  failed : Bool := false
  closing : Bool := false
  /-- Last message number sent, messages not complete, and records whose unit of allowance is out (R288). -/
  sent : Nat := 0
  out : List Msg := []
  units : List (Nat × Nat) := []
  /-- LINKDONE times: (sequence, TC) for each prefix that completed (R233). -/
  tcs : List (Nat × Nat) := []
  /-- Time of the last acknowledgement (R282). -/
  progress : Nat := 0
  /-- Received messages: the longest complete prefix, later complete ones, the parts of each that has come in, those that have
  yet to close, and packets that a fence holds (R279, R281). -/
  rcvd : Nat := 0
  got : Tab Bool := []
  parts : Tab (List (Nat × Nat)) := []
  landing : Tab Landing := []
  held : List (Nat × Packet) := []
  deriving DecidableEq, Repr, Inhabited

/-- A connection's key block (R427): epochs and keys. -/
structure KeyBlk where
  cur : Nat := 0
  curValid : Bool := false
  next : Nat := 0
  nextValid : Bool := false
  bytes : Tab Byte := []
  deriving DecidableEq, Repr, Inhabited

/-- A line of the remote-read cache (R292): context, package, remote line, and the local page through which it was filled. -/
structure RrcLine where
  ctx : Nat
  pkg : Nat
  rva : Nat
  page : Nat
  bytes : List Byte
  bad : List Bool
  deriving DecidableEq, Repr

/-- A load that waits for a remote read, or for a line of the RRC when `fill` is set (R291, R292). -/
structure RrcFetch where
  conn : Nat
  ctx : Nat
  pkg : Nat
  rva : Nat
  page : Nat
  size : Nat
  who : LaneId
  team : Nat
  dst : Option Nat
  ty : Ty
  id : Nat
  fill : Bool
  kind : Nat := 0
  since : Nat := 0
  deriving DecidableEq, Repr

/-- A lane parked at Palette (R379, R380): its team, and the register that receives the index. -/
structure PalWait where
  who : LaneId
  team : Nat
  dst : Option Nat
  since : Nat
  deriving DecidableEq, Repr

/-- Palette's state of a context (R378-R381, R401). -/
structure PalCtx where
  base : Nat := 0
  count : Nat := 0
  resv : Nat := 0
  qbase : Nat := 0
  /-- Allocated slots, and the reserve; every other slot below `count` is free. -/
  used : List Nat := []
  reserve : List Nat := []
  /-- Stage queues: slots with the witness of their append. -/
  queues : Tab (List (Nat × Word)) := []
  /-- Software has written the storage at QBASE. -/
  broken : Bool := false
  /-- Units of allowance withheld from their senders, oldest first: connection and endpoint (R289, R401). -/
  held : List (Nat × Nat) := []
  getWait : List PalWait := []
  takeWait : Tab (List PalWait) := []
  deriving DecidableEq, Repr, Inhabited

/-- A collective queued or running in Glaze (R293-R303): its descriptor, rank, number of ranks and connections to its neighbours;
`order` holds the ranks of an alpha composite front first, `chain` the mode in which it was issued; `semGot` is what its semaphore's
wait brought, and `metAt` says when the wait was met; `shut` are the writes of a result that has been written (R300). -/
structure CollSt where
  who : LaneId
  ctx : Nat
  desc : List Word
  rank : Nat
  ranks : Nat
  conns : Nat × Nat
  order : List Nat
  chain : Bool
  pri : Nat
  tag : Nat
  issued : Nat
  fut : Option FutRef
  running : Bool
  user : Bool
  /-- Physical pages of each contributing die's source, and of the result. -/
  srcs : List (List (Nat × Nat))
  dsts : List (Nat × Nat)
  semGot : Option Word := none
  metAt : Option Nat := none
  shut : Option Opened := none
  deriving DecidableEq, Repr

/-- A service pair (R444). -/
structure PairSt where
  working : Bool := true
  failed : Bool := false
  /-- The term that the pair last read from LEAD, and divergences since its last checkpoint. -/
  term : Nat := 0
  diverged : Nat := 0
  deriving DecidableEq, Repr, Inhabited

/-- The instance being issued: core, slot, lanes, whether it leaves by the loop-buffer port, and the
word (R314). -/
structure Issue where
  core : Nat := 0
  slot : Nat := 0
  lanes : Mask := 0
  lbp : Bool := false
  word : Word := 0
  deriving DecidableEq, Repr, Inhabited

/-- A step of the schedule (log entry 4). -/
inductive Move
  | event (i : Instr)
  | cycle (core sub : Nat)
  | pass (ns : Nat)
  deriving DecidableEq, Repr

/-- The state of a package. -/
structure State where
  /-- Time base, ns since module reset (R24). -/
  now : Nat
  /-- The model's own: the instance being issued, the second port's instance, the schedule, whose cycle comes next when
  the schedule is empty, the counter behind free values, and the next request number (log entry 4). -/
  cur : Issue
  second : Option Issue
  agenda : List Move
  turn : Nat
  free : Nat
  seq : Nat
  stopped : Bool
  faultOut : Bool
  /-- HBM: bytes, poisoned 8-byte granules, owner tags of lines, compressed superblocks, dirty lines, representatives. -/
  mem : Memory
  poison : Tab Bool
  tags : Tab Nat
  comp : Tab Bool
  dirty : Tab Bool
  reps : List Rep
  /-- Low 24 bits of the leaf through which a 64 KiB page was last reached, where it is CMP or TOL (R206, R208). -/
  attrs : Tab Nat
  /-- Cores absent from the mesh (R15). -/
  absent : Tab Bool
  /-- Register pools, uniform registers and their marks. -/
  pool : Tab Word
  marks : Tab Mark
  ureg : Tab Word
  umarks : Tab Mark
  /-- Scratchpads. -/
  sp : Memory
  spPoison : Tab Bool
  teams : Tab TeamSt
  warps : Tab WarpSt
  lanes : Tab LaneSt
  fut : Tab FutSt
  tlb : List TlbEnt
  dtlb : List TlbEnt
  l1 : Tab L1Line
  ic : Tab IcLine
  lb : Tab LoopWin
  fills : List Fill
  subs : Tab SubSt
  mx : Tab (List MxOp)
  iu : Tab (List IuJob)
  cq : Tab (List CopyJob)
  dropped : Tab Nat
  replies : Tab Reply
  reqs : Tab Req
  joins : Tab Join
  /-- When every agent published its closed tick last, and when some have since; the ticks before that time are closed (R224). -/
  ctBase : Nat
  ct : Tab Nat
  mons : Tab Mon
  ctxs : Tab CtxSt
  nodes : Tab Node
  ready : List Nat
  heldDec : Tab Nat
  saved : List Saved
  drains : List Drain
  backfillOff : List Nat
  caps : Tab (List Word)
  shadows : Tab (List (Nat × List Byte))
  psems : Tab Sem
  /-- Owner of each package semaphore, by context (R263). -/
  psemOwner : Tab Nat
  chains : Tab Chain
  rr : Tab Nat
  conns : Tab Conn
  keys : Tab KeyBlk
  endps : Tab (Word × Word)
  allow : Tab Nat
  inbox : Tab RecordIn
  errq : Tab (List (List Word))
  rrc : List RrcLine
  rrcFetch : Tab RrcFetch
  /-- Re-execution requests that the Burzon die has accepted: context and node (R439). -/
  reexec : List (Nat × Nat)
  pal : Tab PalCtx
  colls : Tab CollSt
  imsic : Tab (List Nat)
  imsg : Tab (Nat × Nat)
  shootVa : Word
  shootId : Word
  shootCount : Nat
  shootQ : List (Word × Word)
  /-- What the shootdown in service waits for, as `tlbi` keeps it. -/
  shootMark : Nat
  inb : Tab (List Word)
  escid : Tab Word
  lead : Word
  hbeat : Nat
  fence : Nat
  jbase : Word
  jhead : Word
  pairs : Tab PairSt
  nv : Tab Nat
  /-- Dies that have shut the module down (R29). -/
  shutdowns : List Nat
  /-- Cores that have failed since reset, and the number of each die's that ever have (R14, R447). -/
  retired : List Nat
  lost : Tab Nat
  coreStep : Nat
  haStep : Nat
  powerLimit : Nat
  minVer : Tab Nat
  revoked : Tab Bool
  images : List (Nat × Nat × Bool)
  /-- Attestation reports: nonce, counts, versions, revoked slots, signatures (R429). -/
  reports : List (List Nat)
  lanesUp : Tab Nat
  chanFail : List Nat
  /-- Answers given to the PCIe host, oldest first; none where the request was refused (R420). -/
  hostOut : List (Option (List Byte))
  /-- When the last posted write of the host was performed (R420). -/
  hostWrote : Option Nat
  /-- Accesses that lanes and engines have sent to the host or to peers, oldest first, less their replies. -/
  outbox : List (List Nat)
  deriving DecidableEq, Repr

/-- The machine right after module reset: no team, no context, nothing in memory; every register that the spec gives no
reset value reads 0 (log entry 2), but for the power limit (R28, log entry 79). -/
def State.reset : State where
  now := 0
  cur := {}
  second := none
  agenda := []
  turn := 0
  free := 0
  seq := 0
  stopped := false
  faultOut := false
  mem := []
  poison := []
  tags := []
  comp := []
  dirty := []
  reps := []
  attrs := []
  absent := []
  pool := []
  marks := []
  ureg := []
  umarks := []
  sp := []
  spPoison := []
  teams := []
  warps := []
  lanes := []
  fut := []
  tlb := []
  dtlb := []
  l1 := []
  ic := []
  lb := []
  fills := []
  subs := []
  mx := []
  iu := []
  cq := []
  dropped := []
  replies := []
  reqs := []
  joins := []
  ctBase := 0
  ct := []
  mons := []
  ctxs := []
  nodes := []
  ready := []
  heldDec := []
  saved := []
  drains := []
  backfillOff := []
  caps := []
  shadows := []
  psems := []
  psemOwner := []
  chains := []
  rr := []
  conns := []
  keys := []
  endps := []
  allow := []
  inbox := []
  errq := []
  rrc := []
  rrcFetch := []
  reexec := []
  pal := []
  colls := []
  imsic := []
  imsg := []
  shootVa := 0
  shootId := 0
  shootCount := 0
  shootQ := []
  shootMark := 0
  inb := []
  escid := []
  lead := 0
  hbeat := 0
  fence := 0
  jbase := 0
  jhead := 0xFFFFFFFFFFFFFFFF
  pairs := []
  nv := []
  shutdowns := []
  retired := []
  lost := []
  coreStep := 0
  haStep := 0
  powerLimit := 5200
  minVer := []
  revoked := []
  images := []
  reports := []
  lanesUp := []
  chanFail := []
  hostOut := []
  hostWrote := none
  outbox := []

end Sys2Proof.Machine
end

