-- ==== Sys2Proof/Machine/Regs.lean ====
section
/-! DEFINITION. Lanes, warps, teams and registers: the accessors through which every meaning reads and writes them, with
the fixed-latency rules of R74-R78. -/

namespace Sys2Proof.Machine

def laneKey (c w l : Nat) : Nat := c * 2048 + w * 32 + l
def warpKey (c w : Nat) : Nat := c * 64 + w

def State.lane (s : State) (c w l : Nat) : LaneSt := s.lanes.get {} (laneKey c w l)
def State.setLane (s : State) (c w l : Nat) (x : LaneSt) : State := { s with lanes := s.lanes.set (laneKey c w l) x }
def State.modLane (s : State) (c w l : Nat) (f : LaneSt → LaneSt) : State := s.setLane c w l (f (s.lane c w l))

def State.warp (s : State) (c w : Nat) : WarpSt := s.warps.get {} (warpKey c w)
def State.setWarp (s : State) (c w : Nat) (x : WarpSt) : State := { s with warps := s.warps.set (warpKey c w) x }
def State.modWarp (s : State) (c w : Nat) (f : WarpSt → WarpSt) : State := s.setWarp c w (f (s.warp c w))

def State.team (s : State) (c : Nat) : TeamSt := s.teams.get {} c
def State.setTeam (s : State) (c : Nat) (x : TeamSt) : State := { s with teams := s.teams.set c x }
def State.modTeam (s : State) (c : Nat) (f : TeamSt → TeamSt) : State := s.setTeam c (f (s.team c))

def State.ctxOf (s : State) (c : Nat) : CtxSt := s.ctxs.get {} (s.team c).ctx
def State.modCtx (s : State) (x : Nat) (f : CtxSt → CtxSt) : State := { s with ctxs := s.ctxs.set x (f (s.ctxs.get {} x)) }

/-- Applies a function for each lane of a list, in order. -/
def State.forLanes (s : State) (ls : List Nat) (f : Nat → State → State) : State := ls.foldl (fun s l => f l s) s

/-- Live lanes of a warp. -/
def State.liveLanes (s : State) (c w : Nat) : List Nat := (List.range 32).filter fun l => (s.lane c w l).live

/-- Slabs of a warp's share, n + 16a (R147). -/
def State.share (s : State) (c : Nat) : Nat := (s.team c).nreg + 16 * (s.team c).nacc

/-- Pool word of slab `i` of a warp's share, lane `l` (R147, R196). -/
def State.poolKey (s : State) (c w i l : Nat) : Nat := c * 65536 + (w * s.share c + i) * 32 + l
def uregKey (c w i : Nat) : Nat := warpKey c w * 64 + i

/-- Predicate p of a lane; p7 reads true (R59). -/
def LaneSt.pred (x : LaneSt) (p : Nat) : Bool := p % 8 == 7 || x.preds.getLsbD (p % 8)

/-- A register's newest value. -/
def State.reg (s : State) (c w l : Nat) (r : Nat) : Word :=
  if r < 128 then s.pool.get 0 (s.poolKey c w r l)
  else if r < 192 then s.ureg.get 0 (uregKey c w (r - 128))
  else if (s.lane c w l).pred (r - 256) then 1 else 0

/-- What a register carries beside its value. -/
def State.mark (s : State) (c w l : Nat) (r : Nat) : Mark :=
  if r < 128 then s.marks.get {} (s.poolKey c w r l)
  else if r < 192 then s.umarks.get {} (uregKey c w (r - 128))
  else {}

def State.setMark (s : State) (c w l : Nat) (r : Nat) (m : Mark) : State :=
  if r < 128 then { s with marks := s.marks.set (s.poolKey c w r l) m }
  else if r < 192 then { s with umarks := s.umarks.set (uregKey c w (r - 128)) m }
  else s

/-- Replaces bit p of a lane's predicates; a write to p7 is discarded (R59). -/
def LaneSt.setPred (x : LaneSt) (p : Nat) (b : Bool) : LaneSt :=
  if p % 8 = 7 then x
  else { x with preds := x.preds &&& ~~~BitVec.twoPow 8 (p % 8) ||| if b then BitVec.twoPow 8 (p % 8) else 0 }

/-- Writes a register's value, with the marks that come with it. -/
def State.putReg (s : State) (c w l : Nat) (r : Nat) (v : Word) (m : Mark := {}) : State :=
  if r < 128 then
    { s with pool := s.pool.set (s.poolKey c w r l) v, marks := s.marks.set (s.poolKey c w r l) m }
  else if r < 192 then
    { s with ureg := s.ureg.set (uregKey c w (r - 128)) v, umarks := s.umarks.set (uregKey c w (r - 128)) m }
  else s.modLane c w l fun x => x.setPred (r - 256) (v != 0)

/-- What a reader at issue gets (R76, R78): the earlier value while a fixed-latency result has not reached its distance. -/
def State.rd (s : State) (c w l : Nat) (r : Nat) : Word :=
  match (s.lane c w l).shadow.find? (fun x => x.reg == r) with
  | some x => x.old
  | none => s.reg c w l r

/-- A predicate as an instruction reads it. -/
def State.rdPred (s : State) (c w l p : Nat) : Bool := p % 8 == 7 || s.rd c w l (predId (p % 8)) != 0

/-- Drops the fixed-latency history of a register in a lane: its newest value is seen. -/
def State.dropShadow (s : State) (c w l : Nat) (r : Nat) : State :=
  s.modLane c w l fun x => { x with shadow := x.shadow.filter fun y => y.reg != r }

/-- A fixed-latency write of a register that is `left` from its distance: the earlier value stands for readers until then (R76), and
an earlier write of the register lands no later (R78). -/
def LaneSt.late (x : LaneSt) (r : Nat) (old : Word) (left : Nat) : LaneSt :=
  { x with shadow := (x.shadow.map fun y => if y.reg = r then { y with left := min y.left left } else y) ++ [{ reg := r, old := old, left := left }] }

/-- The fixed-latency writes of uniform registers that a lane has made since an earlier state of it. -/
def LaneSt.newer (x earlier : LaneSt) : List Shadow :=
  (x.shadow.drop earlier.shadow.length).filter fun y => decide (128 ≤ y.reg) && decide (y.reg < 192)

/-- A lane parked so stands before its word's issue: its sources are read later (R151, R310). -/
def Park.early : Park → Bool
  | .retry | .sign _ => true
  | _ => false

/-- Writes one register as the result of lane `l`; `first` says that no lower lane has executed, which decides a uniform
destination (R56). A latency of 0 lands at once; any other keeps the earlier value for readers below the distance (R75), and an earlier
write of the register lands no later than it (R78). A write to p7 leaves nothing (R59). -/
def State.result (s : State) (c w l : Nat) (first : Bool) (lat : Nat) (r : Nat) (v : Word) (m : Mark := {}) : State :=
  if r < 128 ∨ 192 ≤ r ∨ first then
    let old := s.reg c w l r
    let s := s.putReg c w l r v m
    if lat = 0 ∨ r = predId 7 then s.dropShadow c w l r
    else s.modLane c w l (·.late r old lat)
  else s

/-- One issued word of a lane: outstanding results come nearer by 1 + STALL (R74). -/
def LaneSt.age (x : LaneSt) (d : Nat) : LaneSt :=
  { x with shadow := (x.shadow.map fun y => { y with left := y.left - d }).filter fun y => y.left != 0 }

/-- Completes a warp's outstanding fixed-latency writes (R77). -/
def State.land (s : State) (c w : Nat) : State :=
  s.forLanes (List.range 32) fun l s => s.modLane c w l fun x => { x with shadow := [] }

/-- Core coordinates (R13): die, local and global column and row. -/
def dieOf (c : Nat) : Nat := c / 192
def gxOf (c : Nat) : Nat := 16 * (dieOf c % 4) + c % 16
def gyOf (c : Nat) : Nat := 12 * (dieOf c / 4) + c % 192 / 16

/-- The core at global coordinates (R13). -/
def coreAt (x y : Nat) : Nat := 192 * (4 * (y / 12) + x / 16) + 16 * (y % 12) + x % 16

/-- Column and row within the launch rectangle (R308). -/
def State.teamX (s : State) (c : Nat) : Nat := gxOf c - (s.team c).ox
def State.teamY (s : State) (c : Nat) : Nat := gyOf c - (s.team c).oy

/-- The cores of a core's gang, by member index (R308). -/
def State.gang (s : State) (c : Nat) : List Nat :=
  let t := s.team c
  let x0 := gxOf c - s.teamX c % t.gw
  let y0 := gyOf c - s.teamY c % t.gh
  (List.range (t.gw * t.gh)).map fun m => coreAt (x0 + m % t.gw) (y0 + m / t.gw)

/-- A future-table entry (R344). -/
def futKey (c e : Nat) : Nat := c * 512 + e
def State.futEnt (s : State) (c e : Nat) : FutSt := s.fut.get {} (futKey c e)

/-- A pending handle's value (R344). -/
def handle (who : LaneId) (f : FutRef) : Word :=
  BitVec.ofNat 64 (0xE * 2 ^ 60 + f.core * 2 ^ 48 + who.slot * 2 ^ 42 + who.lane * 2 ^ 37 + f.ent * 2 ^ 28 + f.gen % 2 ^ 28)

/-- Raises a lifetime counter, saturating (R448). -/
def State.count (s : State) (i n : Nat) : State := { s with nv := s.nv.set i (min (s.nv.get 0 i + n) (2 ^ 64 - 1)) }

/-- Lanes that wait for an event at their word look again: they reissue it (R310). -/
def State.wake (s : State) : State :=
  { s with lanes := s.lanes.map fun (k, x) => (k, if x.park = .retry then { x with park := .none } else x) }

end Sys2Proof.Machine
end

