-- ==== Sys2Proof/Machine/Operands.lean ====
section
/-! DEFINITION. Operand forms: the value that an operand byte supplies to a lane at a type (R56, R57, R112). -/

namespace Sys2Proof.Machine

/-- A float constant's value as a real: a numerator over 4 with its sign (R56). -/
def fltConst (n : Nat) : XV :=
  let q := [2, 4, 8, 16, 2, 4, 8, 16, 1, 32, 1, 32].getD n 0
  .num ([4, 5, 6, 7, 10, 11].contains n) q 4 0

/-- The code of a format that holds an integer exactly, where it has one. -/
def Fmt.exactly (f : Fmt) (k : Int) : Option Nat :=
  let c := f.round .rne false 0 (.ofInt k)
  match f.val c with
  | .fin s m e => if 0 ≤ e ∧ k = (if s then -1 else 1) * (m * 2 ^ e.toNat : Nat) ∨ e < 0 ∧ k * (2 ^ (-e).toNat : Nat) = (if s then -1 else 1) * (m : Int) then some c else none
  | _ => none

/-- The code that a constant supplies at a binary8 type of `cvt` in its variant (R56, R90); a free value where the variant does not
hold the constant (log entry 76). -/
def constB8 (t : Ty) (un inf : Bool) (k : Int) : Nat :=
  match tyNum t un inf with
  | .flt f => (f.exactly k).getD (Config.constBits t.code.toNat (1 + (if un then 1 else 0) + (if inf then 2 else 0)) k % 256)
  | _ => 0

/-- The code that a constant supplies in each subelement of a type (R56). At a binary8 type outside `cvt` no variant is given, and only
0 has one code; x8 holds the powers of two alone (R92); where no code is fixed, a free value (log entry 76). -/
def constCode (t : Ty) (k : Int) : Nat :=
  match t with
  | .f16 | .bf16 | .f32 | .f64 => (tyFlt t).round .rne false 0 (.ofInt k)
  | .q4 => q4.round .rne false 0 (.ofInt k)
  | .b8p1 | .b8p2 | .b8p3 | .b8p4 | .b8p5 | .b8p6 | .b8p7 => if k = 0 then 0 else Config.constBits t.code.toNat 0 k % 256
  | .x8 => if k = 2 ^ Nat.log2 k.toNat then 127 + Nat.log2 k.toNat else Config.constBits t.code.toNat 0 k % 256
  | t => intCode (min t.width 64) k

/-- The value of a special operand (R56). -/
def State.special (s : State) (c w l : Nat) : Opnd → Nat
  | .lane => l
  | .sub => w / 12
  | .warp => w
  | .teamx => s.teamX c
  | .teamy => s.teamY c
  | .gx => gxOf c
  | .gy => gyOf c
  | _ => 0

/-- An operand read at a type by lane l (R56). -/
def State.opnd (s : State) (c w l : Nat) (t : Ty) (x : BitVec 8) : Word :=
  match Opnd.ofByte x with
  | .v n => s.rd c w l n
  | .s n => s.rd c w l (128 + n)
  | .nil | .sel _ | .rsv => 0
  | .int k => repE (min t.width 64) (constCode t k)
  | .flt n => repE t.width ((tyFlt t).round .rne false 0 (fltConst n))
  | o => repE (min t.width 64) (s.special c w l o)

/-- Operand A of `cvt`: a constant at a binary8 source type supplies its value in the word's variant (R90). -/
def State.cvtA (s : State) (c w l : Nat) (t : Ty) (un inf : Bool) (x : BitVec 8) : Word :=
  match Opnd.ofByte x with
  | .int k => if t.isB8 then repE 8 (constB8 t un inf k) else s.opnd c w l t x
  | _ => s.opnd c w l t x

/-- The register after the one that an operand names, j further on; above a constant, copies of its sign (R250). -/
def State.opndAt (s : State) (c w l : Nat) (x : BitVec 8) (j : Nat) : Word :=
  match Opnd.ofByte x with
  | .v n => s.rd c w l (n + j)
  | .s n => s.rd c w l (128 + n + j)
  | .int k => if k < 0 then 0xFFFFFFFFFFFFFFFF else 0
  | _ => 0

/-- A 64-bit operand. -/
def State.op64 (s : State) (c w l : Nat) (x : BitVec 8) : Word := s.opnd c w l .n64 x

/-- Operand A of an ALU word: its selected subelement, repeated, where C holds a selector code (R57). -/
def State.opA (s : State) (c w l : Nat) (f : Alu) (t : Ty) : Word :=
  let a := s.opnd c w l t f.a
  match Opnd.ofByte f.c with
  | .sel n => repE t.width (getE a t.width n)
  | _ => a

/-- The register that a destination byte names, `j` further on; none for `nil`. -/
def dstReg (x : BitVec 8) (j : Nat := 0) : Option Nat :=
  match Opnd.ofByte x with
  | .v n => some (n + j)
  | .s n => some (128 + n + j)
  | _ => none

/-- A loaded value of less than 16 bytes in a register: sign copies for i types, zeros otherwise (R214). -/
def placed (t : Ty) (x : Nat) : Word := BitVec.ofNat 64 (intCode 64 (intVal t.signed (min t.width 64) x))

end Sys2Proof.Machine
end

