-- ==== Sys2Proof/Machine/Window.lean ====
section
/-! DEFINITION. What the checks of R82 need of a word beyond its shape: the register window, which for matrix words can depend on the
format word (R60, R147, R149), and the registers that a format word adds to a word's sources. -/

namespace Sys2Proof

/-- A vector register that the word names lies at or above `bnd` (R60). -/
def Instr.vregsOutside (i : Instr) (bnd : Nat) : Bool :=
  match i.form with
  | .full _ s => s.vregs.any fun r => decide (bnd ≤ r)
  | .pair f o => (f.h1.d.toNat :: f.h2.d.toNat :: f.h1.reads o ++ f.h2.reads f.op2).any fun r => decide (bnd ≤ r)
  | .event => false

/-- A matrix-class word, whose window check is R149's. -/
def Instr.isMx (i : Instr) : Bool :=
  match i.form with
  | .full _ s => s.mx
  | _ => false

/-- Field E of the words whose registers depend on their format word. -/
def Instr.fmtField (i : Instr) : BitVec 8 :=
  match i with
  | .mma f | .mmaa f | .vxm f => f.e
  | _ => nilByte

/-- SCM of a format word is not 0 (R107). -/
def fmtScaled (fw : Nat) : Bool := fw / 2 ^ 12 % 4 != 0

/-- Registers that a word reads beside its operand fields, under a format word (R149, R162, R164). -/
def Instr.fmtReads (i : Instr) (fw : Nat) : List Nat :=
  match i with
  | .mma f => if fmtScaled fw then [f.a.toNat + 16] else []
  | .vxm f => (if fmtScaled fw then [f.a.toNat + 16] else []) ++ if f.z then [] else (List.range 16).map (f.d.toNat + 1 + ·)
  | _ => []

end Sys2Proof

namespace Sys2Proof.Machine

/-- A tile exists, or a pair from it on (R147). -/
def State.tileOk (s : State) (c w t : Nat) (pair : Bool) : Bool :=
  decide (16 * (t + 1 + (if pair then 1 else 0)) + (s.warp c w).bnd ≤ s.share c)

/-- The tiles that a matrix word names exist, under a format word (R149). -/
def State.tilesOk (s : State) (c w : Nat) (i : Instr) (fw : Nat) : Bool :=
  let pair := fw % 32 == 0x0B
  match i with
  | .mma f => s.tileOk c w f.d.toNat pair && s.tileOk c w f.acc.toNat pair
  | .mmaa f =>
    let last := f.acc.toNat + f.imm5.toNat % 4
    decide (last < 16) && s.tileOk c w f.d.toNat pair && s.tileOk c w last false
  | .mzero f => s.tileOk c w f.d.toNat false
  | .mld f | .mwr f => s.tileOk c w f.d.toNat f.dbl
  | .mst f | .mrd f => s.tileOk c w f.acc.toNat f.dbl
  | _ => true

/-- The window check of a matrix word under a format word (R149). -/
def State.mxWindow (s : State) (c w : Nat) (i : Instr) (fw : Nat) : Bool :=
  let bnd := (s.warp c w).bnd
  !i.vregsOutside bnd && (i.fmtReads fw).all (fun r => decide (r < bnd)) && s.tilesOk c w i fw

/-- The format word of a lane's matrix word. -/
def State.fmtOf (s : State) (i : Instr) (c w l : Nat) : Nat := (s.op64 c w l i.fmtField).toNat % 2 ^ 32

end Sys2Proof.Machine
end

