-- ==== Sys2Proof/Decode.lean ====
section
/-! DEFINITION. Decoding an instruction word, rejecting by name, and encoding one, from the layouts of R53, R54, R61-R65
and R69 and the opcode map of R79. A word is read as a number; a field is its bits above a position. -/

namespace Sys2Proof

/-- Why a word is no instruction: the check of R82 that it fails. -/
inductive DecodeError
  /-- Check 1: the form is 0b10 or 0b11. -/
  | form
  /-- Check 2: the opcode is not assigned, or a half operation is reserved or not accepted with its type. -/
  | opcode
  /-- Check 4: a field holds a reserved or unaccepted value. -/
  | field
  /-- Check 5: the pair breaks R72. -/
  | pair
  deriving DecidableEq, Repr

/-- Bits lo + n - 1 to lo of a word. -/
def bits (w lo n : Nat) : Nat := w / 2 ^ lo % 2 ^ n

/-- A field that holds a code, or the failure of check 4. -/
def field {α : Type} : Option α → Except DecodeError α
  | some a => .ok a
  | none => .error .field

/-- Stall count and guard (R54). -/
def Fields.hdr (w : Nat) : Hdr where
  stall := BitVec.ofNat 3 (bits w 59 3)
  gneg := bits w 58 1 == 1
  gp := BitVec.ofNat 3 (bits w 55 3)

/-- An operand byte at a position (R54, R61). -/
def Fields.byte (w lo : Nat) : BitVec 8 := BitVec.ofNat 8 (bits w lo 8)

/-- ALU class (R61). -/
def Fields.alu (w : Nat) : Except DecodeError Alu :=
  (field (Ty.ofCode (bits w 8 5))).bind fun ty =>
  (field (Rm.ofCode (bits w 5 3))).bind fun rm =>
  .ok { h := Fields.hdr w, d := Fields.byte w 37, a := Fields.byte w 29, b := Fields.byte w 21, c := Fields.byte w 13
        ty := ty, rm := rm, sat := bits w 4 1 == 1, lo := bits w 3 1 == 1, opx := BitVec.ofNat 3 (bits w 0 3) }

/-- Immediate class (R62). -/
def Fields.imm (w : Nat) : Except DecodeError Imm :=
  (field (Ty.ofCode (bits w 0 5))).bind fun ty =>
  .ok { h := Fields.hdr w, d := Fields.byte w 37, a := Fields.byte w 29, b := Fields.byte w 21
        imm := BitVec.ofNat 16 (bits w 5 16), ty := ty }

/-- Memory class (R63). -/
def Fields.mem (w : Nat) : Except DecodeError Mem :=
  (field (Ty.ofCode (bits w 4 5))).bind fun ty =>
  (field (Scope.ofCode (bits w 0 4))).bind fun sc =>
  .ok { h := Fields.hdr w, d := Fields.byte w 37, a := Fields.byte w 29, b := Fields.byte w 21
        imm := BitVec.ofNat 12 (bits w 9 12), ty := ty, sc := sc }

/-- Engine class (R64). -/
def Fields.eng (w : Nat) : Except DecodeError Eng :=
  (field (Ty.ofCode (bits w 4 5))).bind fun ty =>
  (field (Scope.ofCode (bits w 9 4))).bind fun sc =>
  .ok { h := Fields.hdr w, d := Fields.byte w 37, a := Fields.byte w 29, b := Fields.byte w 21, c := Fields.byte w 13
        sc := sc, ty := ty, mod := BitVec.ofNat 4 (bits w 0 4) }

/-- Matrix class (R65). -/
def Fields.mx (w : Nat) : Except DecodeError Mx :=
  .ok { h := Fields.hdr w, d := Fields.byte w 37, a := Fields.byte w 29, b := Fields.byte w 21, e := Fields.byte w 13
        acc := BitVec.ofNat 4 (bits w 9 4), k := BitVec.ofNat 3 (bits w 6 3), imm5 := BitVec.ofNat 5 (bits w 1 5)
        z := bits w 0 1 == 1 }

/-- Branch class (R65). -/
def Fields.br (w : Nat) : Except DecodeError Br :=
  .ok { h := Fields.hdr w, d := Fields.byte w 37, a := Fields.byte w 29, b := Fields.byte w 21
        off := BitVec.ofNat 21 (bits w 0 21) }

/-- `spmap` by MOD (R221). -/
def Eng.spmap (f : Eng) : Except DecodeError Instr :=
  match f.mod.toNat with
  | 0 => .ok (.spmapMap f) | 1 => .ok (.spmapUnmap f) | 2 => .ok (.spmapFlush f) | 3 => .ok (.spmapInval f)
  | _ => .error .field

/-- `semw` by MOD bits 1:0 (R267). -/
def Eng.semw (f : Eng) : Except DecodeError Instr :=
  match f.mod.toNat % 4 with
  | 0 => .ok (.semwGe f) | 1 => .ok (.semwTake f) | _ => .error .field

/-- `atomd` by MOD (R179). -/
def Eng.atomd (f : Eng) : Except DecodeError Instr :=
  match f.mod.toNat with
  | 0 => .ok (.atomdAdd f) | 1 => .ok (.atomdMrg f) | _ => .error .field

/-- `mill` by MOD (R346). -/
def Eng.mill (f : Eng) : Except DecodeError Instr :=
  match f.mod.toNat with
  | 0 => .ok (.millRd f) | 1 => .ok (.millClr f) | _ => .error .field

/-- `tlbi` by MOD (R417). -/
def Eng.tlbi (f : Eng) : Except DecodeError Instr :=
  match f.mod.toNat with
  | 0 => .ok (.tlbiPg f) | 1 => .ok (.tlbiCtx f) | _ => .error .field

/-- `wrsys` by its register: dfac and srseed have rows of their own (R422). -/
def Imm.wrsys (f : Imm) : Except DecodeError Instr :=
  match f.imm.toNat with
  | 0x0E => .ok (.dfacWrite f) | 0x0D => .ok (.srseedWrite f) | _ => .ok (.wrsys f)

/-- The fields of a full-form word, by opcode (R79). -/
def decodeFull (w : Nat) : Except DecodeError Instr :=
  match bits w 45 10 with
  | 0x0 => (Fields.alu w).map .add
  | 0x1 => (Fields.alu w).map .sub
  | 0x2 => (Fields.alu w).map .mul
  | 0x3 => (Fields.alu w).map .mulh
  | 0x4 => (Fields.alu w).map .mad
  | 0x5 => (Fields.alu w).map .div
  | 0x6 => (Fields.alu w).map .rem
  | 0x7 => (Fields.alu w).map .min
  | 0x8 => (Fields.alu w).map .max
  | 0x9 => (Fields.alu w).map .abs
  | 0xa => (Fields.alu w).map .neg
  | 0xb => (Fields.alu w).map .addc
  | 0xc => (Fields.alu w).map .subb
  | 0xd => (Fields.alu w).map .sad
  | 0xe => (Fields.alu w).map .lea
  | 0xf => (Fields.alu w).map .dot4
  | 0x10 => (Fields.alu w).map .dot2
  | 0x20 => (Fields.imm w).map .addImm
  | 0x21 => (Fields.imm w).map .subImm
  | 0x22 => (Fields.imm w).map .mulImm
  | 0x27 => (Fields.imm w).map .minImm
  | 0x28 => (Fields.imm w).map .maxImm
  | 0x40 => (Fields.alu w).map .and
  | 0x41 => (Fields.alu w).map .or
  | 0x42 => (Fields.alu w).map .xor
  | 0x43 => (Fields.alu w).map .andn
  | 0x44 => (Fields.alu w).map .not
  | 0x45 => (Fields.alu w).map .shl
  | 0x46 => (Fields.alu w).map .shr
  | 0x47 => (Fields.alu w).map .sar
  | 0x48 => (Fields.alu w).map .rot
  | 0x49 => (Fields.alu w).map .popc
  | 0x4a => (Fields.alu w).map .clz
  | 0x4b => (Fields.alu w).map .ctz
  | 0x4c => (Fields.alu w).map .brev
  | 0x4d => (Fields.alu w).map .bfx
  | 0x4e => (Fields.alu w).map .bfi
  | 0x4f => (Fields.alu w).map .sel
  | 0x50 => (Fields.alu w).map .mov
  | 0x51 => (Fields.imm w).map .movw
  | 0x60 => (Fields.imm w).map .andImm
  | 0x61 => (Fields.imm w).map .orImm
  | 0x62 => (Fields.imm w).map .xorImm
  | 0x65 => (Fields.imm w).map .shlImm
  | 0x66 => (Fields.imm w).map .shrImm
  | 0x67 => (Fields.imm w).map .sarImm
  | 0x68 => (Fields.imm w).map .rotImm
  | 0x80 => (Fields.alu w).map .cmp
  | 0x81 => (Fields.alu w).map .fcmp
  | 0x82 => (Fields.alu w).map .plop
  | 0x83 => (Fields.alu w).map .pmov
  | 0xc0 => (Fields.alu w).map .fadd
  | 0xc1 => (Fields.alu w).map .fsub
  | 0xc2 => (Fields.alu w).map .fmul
  | 0xc3 => (Fields.alu w).map .fma
  | 0xc4 => (Fields.alu w).map .fmin
  | 0xc5 => (Fields.alu w).map .fmax
  | 0xc6 => (Fields.alu w).map .fcls
  | 0xc7 => (Fields.alu w).map .fscale
  | 0xc8 => (Fields.alu w).map .fract
  | 0xc9 => (Fields.alu w).map .frnd
  | 0xca => (Fields.alu w).map .fdot2
  | 0x100 => (Fields.alu w).map .cvt
  | 0x101 => (Fields.alu w).map .frcp
  | 0x102 => (Fields.alu w).map .frsq
  | 0x103 => (Fields.alu w).map .fsqrt
  | 0x104 => (Fields.alu w).map .fdiv
  | 0x105 => (Fields.alu w).map .fexp2
  | 0x106 => (Fields.alu w).map .flog2
  | 0x107 => (Fields.alu w).map .fsin
  | 0x108 => (Fields.alu w).map .fcos
  | 0x109 => (Fields.alu w).map .xfm
  | 0x140 => (Fields.alu w).map .shfl
  | 0x141 => (Fields.alu w).map .vote
  | 0x142 => (Fields.alu w).map .redux
  | 0x143 => (Fields.alu w).map .perm
  | 0x144 => (Fields.alu w).map .rdln
  | 0x145 => (Fields.alu w).map .wrln
  | 0x146 => (Fields.alu w).map .scan
  | 0x180 => (Fields.mem w).map .ldG
  | 0x181 => (Fields.mem w).map .ldSp
  | 0x182 => (Fields.mem w).map .ldGs
  | 0x184 => (Fields.mem w).map .stG
  | 0x185 => (Fields.mem w).map .stSp
  | 0x186 => (Fields.mem w).map .stGs
  | 0x188 => (Fields.mem w).map .ldwG
  | 0x189 => (Fields.mem w).map .ldwSp
  | 0x18a => (Fields.mem w).map .ldwGs
  | 0x18c => (Fields.mem w).map .stp
  | 0x190 => (Fields.mem w).map .pfl
  | 0x191 => (Fields.mem w).map .cwb
  | 0x192 => (Fields.mem w).map .cinv
  | 0x193 => (Fields.mem w).map .icinv
  | 0x194 => (Fields.eng w).bind Eng.spmap
  | 0x195 => (Fields.alu w).map .lfen
  | 0x1c0 => (Fields.alu w).map .wmrg
  | 0x1c1 => (Fields.alu w).map .wtst
  | 0x1c2 => (Fields.alu w).map .wwait
  | 0x1c3 => (Fields.eng w).map .wfen
  | 0x1c4 => (Fields.eng w).map .wscp
  | 0x1c5 => (Fields.alu w).map .wloc
  | 0x200 => (Fields.eng w).map .atomG
  | 0x201 => (Fields.eng w).map .atomSp
  | 0x202 => (Fields.eng w).map .atomGs
  | 0x204 => (Fields.eng w).map .atomr
  | 0x208 => (Fields.eng w).map .mwait
  | 0x20c => (Fields.eng w).map .seminc
  | 0x20d => (Fields.eng w).bind Eng.semw
  | 0x20e => (Fields.eng w).map .semrd
  | 0x20f => (Fields.eng w).map .semset
  | 0x240 => (Fields.mem w).map .ldd
  | 0x241 => (Fields.mem w).map .std
  | 0x242 => (Fields.eng w).bind Eng.atomd
  | 0x243 => (Fields.alu w).map .dcvt
  | 0x244 => (Fields.eng w).map .stepadv
  | 0x245 => (Fields.alu w).map .steprd
  | 0x280 => (Fields.mx w).map .kdecl
  | 0x281 => (Fields.mx w).map .mma
  | 0x282 => (Fields.mx w).map .mmaa
  | 0x283 => (Fields.mx w).map .vxm
  | 0x284 => (Fields.mx w).map .mzero
  | 0x285 => (Fields.mx w).map .mld
  | 0x286 => (Fields.mx w).map .mst
  | 0x287 => (Fields.mx w).map .mrd
  | 0x288 => (Fields.mx w).map .mwr
  | 0x289 => (Fields.mx w).map .mvbnd
  | 0x2c0 => (Fields.eng w).map .cpy
  | 0x2c1 => (Fields.eng w).map .cpyw
  | 0x2c2 => (Fields.eng w).map .cpyg
  | 0x2c3 => (Fields.eng w).map .chn
  | 0x2c4 => (Fields.eng w).map .qfen
  | 0x2c5 => (Fields.eng w).map .qtail
  | 0x2c6 => (Fields.eng w).map .qpop
  | 0x2c7 => (Fields.eng w).map .qpush
  | 0x2c8 => (Fields.eng w).bind Eng.mill
  | 0x2c9 => (Fields.eng w).map .fwait
  | 0x2ca => (Fields.eng w).map .ftst
  | 0x2cb => (Fields.eng w).map .fcan
  | 0x2cc => (Fields.eng w).map .fmov
  | 0x2cd => (Fields.eng w).map .fst
  | 0x2ce => (Fields.eng w).map .fld
  | 0x300 => (Fields.eng w).map .trav
  | 0x301 => (Fields.eng w).map .tvis
  | 0x302 => (Fields.eng w).map .psget
  | 0x303 => (Fields.eng w).map .psput
  | 0x304 => (Fields.eng w).map .psq
  | 0x305 => (Fields.eng w).map .psdq
  | 0x306 => (Fields.eng w).map .amp
  | 0x307 => (Fields.eng w).map .occq
  | 0x308 => (Fields.eng w).map .smp
  | 0x340 => (Fields.eng w).map .send
  | 0x341 => (Fields.eng w).map .rget
  | 0x342 => (Fields.eng w).map .rput
  | 0x343 => (Fields.eng w).map .ratom
  | 0x344 => (Fields.eng w).map .coll
  | 0x345 => (Fields.eng w).map .bkt
  | 0x380 => (Fields.br w).map .bra
  | 0x381 => (Fields.alu w).map .brx
  | 0x382 => (Fields.br w).map .call
  | 0x383 => (Fields.alu w).map .calx
  | 0x384 => (Fields.alu w).map .ret
  | 0x385 => (Fields.alu w).map .land
  | 0x386 => (Fields.br w).map .hlp
  | 0x387 => (Fields.alu w).map .exit
  | 0x388 => (Fields.alu w).map .kill
  | 0x389 => (Fields.alu w).map .bar
  | 0x38a => (Fields.alu w).map .barg
  | 0x38b => (Fields.imm w).map .nap
  | 0x3c0 => (Fields.imm w).map .trap
  | 0x3c1 => (Fields.imm w).map .brk
  | 0x3c2 => (Fields.alu w).map .tret
  | 0x3c3 => (Fields.imm w).map .rdsys
  | 0x3c4 => (Fields.imm w).bind Imm.wrsys
  | 0x3c5 => (Fields.eng w).bind Eng.tlbi
  | 0x3c6 => (Fields.eng w).map .capw
  | 0x3c7 => (Fields.eng w).map .capi
  | _ => .error .opcode

/-- One half less its operation, from its 30 bits (R69). -/
def Fields.half (x : Nat) : Half where
  ty := HTy.ofCode (bits x 22 3)
  gneg := bits x 21 1 == 1
  gp := BitVec.ofNat 3 (bits x 18 3)
  d := BitVec.ofNat 7 (bits x 11 7)
  imm := bits x 10 1 == 1
  s := BitVec.ofNat 8 (bits x 2 8)

/-- The pair instruction that a first half's operation names. -/
def pairOf (f : Pair) : HOp → Instr
  | .add => .pairAdd f
  | .sub => .pairSub f
  | .mul => .pairMul f
  | .min => .pairMin f
  | .max => .pairMax f
  | .and => .pairAnd f
  | .or => .pairOr f
  | .xor => .pairXor f
  | .andn => .pairAndn f
  | .shl => .pairShl f
  | .shr => .pairShr f
  | .sar => .pairSar f
  | .mov => .pairMov f
  | .fadd => .pairFadd f
  | .fsub => .pairFsub f
  | .fmul => .pairFmul f
  | .fmin => .pairFmin f
  | .fmax => .pairFmax f

/-- A pair word (R69-R70). Bits 1:0 of a half must be zero (check 4). -/
def decodePair (w : Nat) : Except DecodeError Instr :=
  let x := bits w 30 30
  let y := bits w 0 30
  match HOp.ofCode (bits x 25 5), HOp.ofCode (bits y 25 5) with
  | some o, some p =>
    let f : Pair := { stall := BitVec.ofNat 2 (bits w 60 2), h1 := Fields.half x, op2 := p, h2 := Fields.half y }
    if !(o.accepts f.h1.ty && p.accepts f.h2.ty) then .error .opcode
    else if bits x 0 2 = 0 ∧ bits y 0 2 = 0 then .ok (pairOf f o) else .error .field
  | _, _ => .error .opcode

/-- Checks 4 and 5 of a word whose fields have been read. -/
def checked (i : Instr) : Except DecodeError Instr :=
  if !i.fieldsOk then .error .field else if !i.pairOk then .error .pair else .ok i

/-- The instruction of a word, or the first check of R82, other than check 3, that it fails. -/
def decodeNat (w : Nat) : Except DecodeError Instr :=
  match bits w 62 2 with
  | 0 => (decodeFull w).bind checked
  | 1 => (decodePair w).bind checked
  | _ => .error .form

def decode (w : Word) : Except DecodeError Instr := decodeNat w.toNat

/-- Little-endian number of a list of bytes. -/
def leNat : List Byte → Nat
  | [] => 0
  | b :: t => b.toNat + 256 * leNat t

/-- The n low bytes of a number, lowest first. -/
def leBytes : Nat → Nat → List Byte
  | 0, _ => []
  | n + 1, x => BitVec.ofNat 8 x :: leBytes n (x / 256)

/-- The word that eight bytes of memory hold (R52). -/
def wordOfBytes (bs : List Byte) : Word := BitVec.ofNat 64 (leNat bs)

/-- Decodes the instruction whose bits are w, as the opcode table numbers them: stored little-endian (R52), then read back. -/
def decodeTableWord (nbits w : Nat) : Option Instr :=
  if nbits ≤ 64 then (decode (wordOfBytes (leBytes 8 (w % 2 ^ nbits)))).toOption else none

def bit (b : Bool) : Nat := if b then 1 else 0

/-- Header, opcode and operands D, A and B of a full-form word (R54). -/
def encFull (h : Hdr) (opc : Nat) (d a b : BitVec 8) (cls : Nat) : Nat :=
  h.stall.toNat * 2 ^ 59 + bit h.gneg * 2 ^ 58 + h.gp.toNat * 2 ^ 55 + opc * 2 ^ 45 + d.toNat * 2 ^ 37 + a.toNat * 2 ^ 29 +
    b.toNat * 2 ^ 21 + cls

def Alu.enc (f : Alu) (opc : Nat) : Nat :=
  encFull f.h opc f.d f.a f.b (f.c.toNat * 2 ^ 13 + f.ty.code.toNat * 2 ^ 8 + f.rm.code.toNat * 2 ^ 5 + bit f.sat * 2 ^ 4 +
    bit f.lo * 2 ^ 3 + f.opx.toNat)

def Imm.enc (f : Imm) (opc : Nat) : Nat := encFull f.h opc f.d f.a f.b (f.imm.toNat * 2 ^ 5 + f.ty.code.toNat)

def Mem.enc (f : Mem) (opc : Nat) : Nat :=
  encFull f.h opc f.d f.a f.b (f.imm.toNat * 2 ^ 9 + f.ty.code.toNat * 2 ^ 4 + f.sc.code.toNat)

def Eng.enc (f : Eng) (opc : Nat) : Nat :=
  encFull f.h opc f.d f.a f.b (f.c.toNat * 2 ^ 13 + f.sc.code.toNat * 2 ^ 9 + f.ty.code.toNat * 2 ^ 4 + f.mod.toNat)

def Mx.enc (f : Mx) (opc : Nat) : Nat :=
  encFull f.h opc f.d f.a f.b (f.e.toNat * 2 ^ 13 + f.acc.toNat * 2 ^ 9 + f.k.toNat * 2 ^ 6 + f.imm5.toNat * 2 + bit f.z)

def Br.enc (f : Br) (opc : Nat) : Nat := encFull f.h opc f.d f.a f.b f.off.toNat

/-- The 30 bits of a half (R69). -/
def Half.enc (h : Half) (o : HOp) : Nat :=
  o.code.toNat * 2 ^ 25 + h.ty.code.toNat * 2 ^ 22 + bit h.gneg * 2 ^ 21 + h.gp.toNat * 2 ^ 18 + h.d.toNat * 2 ^ 11 +
    bit h.imm * 2 ^ 10 + h.s.toNat * 2 ^ 2

def Pair.enc (f : Pair) (o : HOp) : Nat := 2 ^ 62 + f.stall.toNat * 2 ^ 60 + f.h1.enc o * 2 ^ 30 + f.h2.enc f.op2

/-- The word of an instruction as a number; a step that no word starts gives a word of the reserved form 0b11. -/
def encodeNat : Instr → Nat
  | .add f => f.enc 0x0
  | .sub f => f.enc 0x1
  | .mul f => f.enc 0x2
  | .mulh f => f.enc 0x3
  | .mad f => f.enc 0x4
  | .div f => f.enc 0x5
  | .rem f => f.enc 0x6
  | .min f => f.enc 0x7
  | .max f => f.enc 0x8
  | .abs f => f.enc 0x9
  | .neg f => f.enc 0xa
  | .addc f => f.enc 0xb
  | .subb f => f.enc 0xc
  | .sad f => f.enc 0xd
  | .lea f => f.enc 0xe
  | .dot4 f => f.enc 0xf
  | .dot2 f => f.enc 0x10
  | .addImm f => f.enc 0x20
  | .subImm f => f.enc 0x21
  | .mulImm f => f.enc 0x22
  | .minImm f => f.enc 0x27
  | .maxImm f => f.enc 0x28
  | .and f => f.enc 0x40
  | .or f => f.enc 0x41
  | .xor f => f.enc 0x42
  | .andn f => f.enc 0x43
  | .not f => f.enc 0x44
  | .shl f => f.enc 0x45
  | .shr f => f.enc 0x46
  | .sar f => f.enc 0x47
  | .rot f => f.enc 0x48
  | .popc f => f.enc 0x49
  | .clz f => f.enc 0x4a
  | .ctz f => f.enc 0x4b
  | .brev f => f.enc 0x4c
  | .bfx f => f.enc 0x4d
  | .bfi f => f.enc 0x4e
  | .sel f => f.enc 0x4f
  | .mov f => f.enc 0x50
  | .movw f => f.enc 0x51
  | .andImm f => f.enc 0x60
  | .orImm f => f.enc 0x61
  | .xorImm f => f.enc 0x62
  | .shlImm f => f.enc 0x65
  | .shrImm f => f.enc 0x66
  | .sarImm f => f.enc 0x67
  | .rotImm f => f.enc 0x68
  | .cmp f => f.enc 0x80
  | .fcmp f => f.enc 0x81
  | .plop f => f.enc 0x82
  | .pmov f => f.enc 0x83
  | .fadd f => f.enc 0xc0
  | .fsub f => f.enc 0xc1
  | .fmul f => f.enc 0xc2
  | .fma f => f.enc 0xc3
  | .fmin f => f.enc 0xc4
  | .fmax f => f.enc 0xc5
  | .fcls f => f.enc 0xc6
  | .fscale f => f.enc 0xc7
  | .fract f => f.enc 0xc8
  | .frnd f => f.enc 0xc9
  | .fdot2 f => f.enc 0xca
  | .cvt f => f.enc 0x100
  | .frcp f => f.enc 0x101
  | .frsq f => f.enc 0x102
  | .fsqrt f => f.enc 0x103
  | .fdiv f => f.enc 0x104
  | .fexp2 f => f.enc 0x105
  | .flog2 f => f.enc 0x106
  | .fsin f => f.enc 0x107
  | .fcos f => f.enc 0x108
  | .xfm f => f.enc 0x109
  | .shfl f => f.enc 0x140
  | .vote f => f.enc 0x141
  | .redux f => f.enc 0x142
  | .perm f => f.enc 0x143
  | .rdln f => f.enc 0x144
  | .wrln f => f.enc 0x145
  | .scan f => f.enc 0x146
  | .ldG f => f.enc 0x180
  | .ldSp f => f.enc 0x181
  | .ldGs f => f.enc 0x182
  | .stG f => f.enc 0x184
  | .stSp f => f.enc 0x185
  | .stGs f => f.enc 0x186
  | .ldwG f => f.enc 0x188
  | .ldwSp f => f.enc 0x189
  | .ldwGs f => f.enc 0x18a
  | .stp f => f.enc 0x18c
  | .pfl f => f.enc 0x190
  | .cwb f => f.enc 0x191
  | .cinv f => f.enc 0x192
  | .icinv f => f.enc 0x193
  | .spmapMap f => f.enc 0x194
  | .spmapUnmap f => f.enc 0x194
  | .spmapFlush f => f.enc 0x194
  | .spmapInval f => f.enc 0x194
  | .lfen f => f.enc 0x195
  | .wmrg f => f.enc 0x1c0
  | .wtst f => f.enc 0x1c1
  | .wwait f => f.enc 0x1c2
  | .wfen f => f.enc 0x1c3
  | .wscp f => f.enc 0x1c4
  | .wloc f => f.enc 0x1c5
  | .atomG f => f.enc 0x200
  | .atomSp f => f.enc 0x201
  | .atomGs f => f.enc 0x202
  | .atomr f => f.enc 0x204
  | .mwait f => f.enc 0x208
  | .seminc f => f.enc 0x20c
  | .semwGe f => f.enc 0x20d
  | .semwTake f => f.enc 0x20d
  | .semrd f => f.enc 0x20e
  | .semset f => f.enc 0x20f
  | .ldd f => f.enc 0x240
  | .std f => f.enc 0x241
  | .atomdAdd f => f.enc 0x242
  | .atomdMrg f => f.enc 0x242
  | .dcvt f => f.enc 0x243
  | .stepadv f => f.enc 0x244
  | .steprd f => f.enc 0x245
  | .kdecl f => f.enc 0x280
  | .mma f => f.enc 0x281
  | .mmaa f => f.enc 0x282
  | .vxm f => f.enc 0x283
  | .mzero f => f.enc 0x284
  | .mld f => f.enc 0x285
  | .mst f => f.enc 0x286
  | .mrd f => f.enc 0x287
  | .mwr f => f.enc 0x288
  | .mvbnd f => f.enc 0x289
  | .cpy f => f.enc 0x2c0
  | .cpyw f => f.enc 0x2c1
  | .cpyg f => f.enc 0x2c2
  | .chn f => f.enc 0x2c3
  | .qfen f => f.enc 0x2c4
  | .qtail f => f.enc 0x2c5
  | .qpop f => f.enc 0x2c6
  | .qpush f => f.enc 0x2c7
  | .millRd f => f.enc 0x2c8
  | .millClr f => f.enc 0x2c8
  | .fwait f => f.enc 0x2c9
  | .ftst f => f.enc 0x2ca
  | .fcan f => f.enc 0x2cb
  | .fmov f => f.enc 0x2cc
  | .fst f => f.enc 0x2cd
  | .fld f => f.enc 0x2ce
  | .trav f => f.enc 0x300
  | .tvis f => f.enc 0x301
  | .psget f => f.enc 0x302
  | .psput f => f.enc 0x303
  | .psq f => f.enc 0x304
  | .psdq f => f.enc 0x305
  | .amp f => f.enc 0x306
  | .occq f => f.enc 0x307
  | .smp f => f.enc 0x308
  | .send f => f.enc 0x340
  | .rget f => f.enc 0x341
  | .rput f => f.enc 0x342
  | .ratom f => f.enc 0x343
  | .coll f => f.enc 0x344
  | .bkt f => f.enc 0x345
  | .bra f => f.enc 0x380
  | .brx f => f.enc 0x381
  | .call f => f.enc 0x382
  | .calx f => f.enc 0x383
  | .ret f => f.enc 0x384
  | .land f => f.enc 0x385
  | .hlp f => f.enc 0x386
  | .exit f => f.enc 0x387
  | .kill f => f.enc 0x388
  | .bar f => f.enc 0x389
  | .barg f => f.enc 0x38a
  | .nap f => f.enc 0x38b
  | .trap f => f.enc 0x3c0
  | .brk f => f.enc 0x3c1
  | .tret f => f.enc 0x3c2
  | .rdsys f => f.enc 0x3c3
  | .wrsys f => f.enc 0x3c4
  | .dfacWrite f => f.enc 0x3c4
  | .srseedWrite f => f.enc 0x3c4
  | .tlbiPg f => f.enc 0x3c5
  | .tlbiCtx f => f.enc 0x3c5
  | .capw f => f.enc 0x3c6
  | .capi f => f.enc 0x3c7
  | .pairAdd f => f.enc .add
  | .pairSub f => f.enc .sub
  | .pairMul f => f.enc .mul
  | .pairMin f => f.enc .min
  | .pairMax f => f.enc .max
  | .pairAnd f => f.enc .and
  | .pairOr f => f.enc .or
  | .pairXor f => f.enc .xor
  | .pairAndn f => f.enc .andn
  | .pairShl f => f.enc .shl
  | .pairShr f => f.enc .shr
  | .pairSar f => f.enc .sar
  | .pairMov f => f.enc .mov
  | .pairFadd f => f.enc .fadd
  | .pairFsub f => f.enc .fsub
  | .pairFmul f => f.enc .fmul
  | .pairFmin f => f.enc .fmin
  | .pairFmax f => f.enc .fmax
  | _ => 2 ^ 64 - 1

/-- The word of an instruction. -/
def encode (i : Instr) : Word := BitVec.ofNat 64 (encodeNat i)

/-- The word names a privileged opcode, or a system register that R422 forbids in the mode (check 3 of R82). -/
def forbidden (user : Bool) (w : Nat) : Bool :=
  bits w 62 2 == 0 &&
  match bits w 45 10 with
  | 0x3C2 | 0x3C5 | 0x3C6 | 0x3C7 => user
  | 0x3C3 =>
    match bits w 5 16 with
    | 3 | 4 | 5 | 7 => user
    | 0x0E => true
    | _ => false
  | 0x3C4 =>
    match bits w 5 16 with
    | 1 | 9 | 0x0C | 0x0D | 0x0E => false
    | 5 | 0x0F => user
    | n => decide (n < 16)
  | _ => false

end Sys2Proof
end

