-- ==== Sys2Proof/Machine/Mem.lean ====
section
/-! DEFINITION. Memory: bytes at their places, what a write does at its agent (R195-R211), monitors (R259), stepping past
a word (R323), page tables and translation (R192, R410-R415). -/

namespace Sys2Proof.Machine

/-- The byte at an address; an unlisted byte reads 0 (log entry 1). -/
def Memory.get : Memory → Nat → Byte
  | [], _ => 0
  | (a, b) :: t, n => if a = n then b else if n < a then 0 else Memory.get t n

/-- Writes a byte, keeping the canonical form: a byte 0 is not listed. -/
def Memory.put : Memory → Nat → Byte → Memory
  | [], n, b => if b = 0 then [] else [(n, b)]
  | (a, x) :: t, n, b =>
    if n < a then (if b = 0 then (a, x) :: t else (n, b) :: (a, x) :: t)
    else if n = a then (if b = 0 then t else (n, b) :: t)
    else (a, x) :: Memory.put t n b

/-- Addresses rise from a lower bound, and no listed byte is 0. -/
def Memory.wfFrom : Nat → Memory → Bool
  | _, [] => true
  | n, (a, b) :: t => decide (n ≤ a) && b != 0 && Memory.wfFrom (a + 1) t

/-- The canonical form. -/
def Memory.wf (m : Memory) : Bool := Memory.wfFrom 0 m

/-- Bytes at an address. -/
def Memory.read (m : Memory) (a n : Nat) : List Byte := (List.range n).map fun j => m.get (a + j)

/-- Writes bytes from an address on. -/
def Memory.write : Memory → Nat → List Byte → Memory
  | m, _, [] => m
  | m, a, b :: t => Memory.write (m.put a b) (a + 1) t

/-- A little-endian number in memory. -/
def Memory.num (m : Memory) (a n : Nat) : Nat := leNat (m.read a n)

def Loc.add (j : Nat) : Loc → Loc
  | .hbm p => .hbm (p + j)
  | .pool c o => .pool c (o + j)
  | .sp c o => .sp c (o + j)
  | .sync c o => .sync c (o + j)
  | .queue c o => .queue c (o + j)
  | .control c o => .control c (o + j)
  | .burzon o => .burzon (o + j)
  | .host a => .host (a + j)
  | .peer k a => .peer k (a + j)

/-- The scratchpad granule that registers a physical address, with its core and table entry (R199). -/
def State.registered (s : State) (pa : Nat) : Option (Nat × Nat × MapEnt) :=
  s.teams.findSome? fun (c, t) => t.map.findSome? fun (e, m) => if m.pa = pa / 4096 * 4096 then some (c, e, m) else none

/-- Where an access is performed: a registered granule at its scratchpad port (R199, R200). -/
def State.place (s : State) (x : Loc) : Loc :=
  match x with
  | .hbm pa =>
    match s.registered pa with
    | some (c, _, m) => .sp c (m.gr * 4096 + pa % 4096)
    | none => x
  | x => x

/-- The home agent of a physical address (R19, R20). -/
def haOf (pa : Nat) : Nat := 64 * (pa / 2 ^ 37 % 8) + pa / 1024 % 64

/-- Agents by number: HAs and scratchpad agents as R20; 0x800 the Burzon die, 0x801 the PCIe ordering point, 0x802 the links. -/
def burzonAgent : Nat := 0x800
def pcieAgent : Nat := 0x801

def Loc.agent : Loc → Nat
  | .hbm pa => haOf pa
  | .pool c _ | .sp c _ | .sync c _ | .queue c _ | .control c _ => 0x200 + c
  | .burzon _ => burzonAgent
  | .host _ => pcieAgent
  | .peer _ _ => 0x802

/-- Scratchpad byte key. -/
def spKey (c o : Nat) : Nat := c * 2 ^ 19 + o

/-- Pool words that belong to a warp of the resident team; the others read zero and discard writes (R196). -/
def State.poolLive (s : State) (c o : Nat) : Bool := decide (o / 256 < (s.team c).nwarp * s.share c)

/-- The byte at a place that holds bytes. -/
def State.byte (s : State) : Loc → Byte
  | .hbm pa => s.mem.get pa
  | .sp c o => s.sp.get (spKey c o)
  | .pool c o =>
    if s.poolLive c o then BitVec.ofNat 8 (getE (s.pool.get 0 (c * 65536 + o / 8)) 8 (o % 8)) else 0
  | _ => 0

/-- Bytes at a place, which are performed where the place says. -/
def State.bytes (s : State) (x : Loc) (n : Nat) : List Byte := (List.range n).map fun j => s.byte (x.add j)

/-- The poison bit of the granule that holds a byte (R211). -/
def State.bad (s : State) : Loc → Bool
  | .hbm pa => s.poison.get false (pa / 8)
  | .sp c o => s.spPoison.get false (spKey c o / 8)
  | .pool c o => (s.marks.get {} (c * 65536 + o / 8)).bad
  | _ => false

/-- Some granule of the bytes is poisoned. -/
def State.badIn (s : State) (x : Loc) (n : Nat) : Bool := (List.range n).any fun j => s.bad (x.add j)

def State.setBad (s : State) (b : Bool) : Loc → State
  | .hbm pa => { s with poison := if b then s.poison.set (pa / 8) true else s.poison.erase (pa / 8) }
  | .sp c o => { s with spPoison := if b then s.spPoison.set (spKey c o / 8) true else s.spPoison.erase (spKey c o / 8) }
  | .pool c o =>
    if s.poolLive c o then
      let k := c * 65536 + o / 8
      { s with marks := s.marks.set k (if b then { s.marks.get {} k with bad := true } else { (s.marks.get {} k) with bad := false }) }
    else s
  | _ => s

def State.setByte (s : State) (b : Byte) : Loc → State
  | .hbm pa => { s with mem := s.mem.put pa b }
  | .sp c o => { s with sp := s.sp.put (spKey c o) b }
  | .pool c o =>
    if s.poolLive c o then
      let k := c * 65536 + o / 8
      -- the written register is no longer pending on a handle, and its newest value is seen at once (R197, R283, R345)
      let m := s.marks.get {} k
      { s with pool := s.pool.set k (setE (s.pool.get 0 k) 8 (o % 8) b.toNat), marks := s.marks.set k { m with fut := none, fault := 0, aux := 0 } }.dropShadow
        c (o / 256 / s.share c) (o % 256 / 8) (o / 256 % s.share c)
    else s
  | _ => s

/-- Writes bytes one after another. -/
def State.setBytes (s : State) (x : Loc) : List Byte → State
  | [] => s
  | b :: t => State.setBytes (s.setByte b x) (x.add 1) t

/-- The lane's next word: the loop-end test at the end of an active loop (R323), else the next address. -/
def LaneSt.next (x : LaneSt) : LaneSt :=
  let e := x.pc
  let x := { x with prev := e, pc := e + 8, tied := false }
  let at0 := x.lc0.active && x.lc0.stop == e
  let at1 := x.lc1.active && x.lc1.stop == e
  -- one loop's test: goes back while iterations are left
  let t0 := fun (y : LaneSt) =>
    if y.lc0.count - 1 = 0 then { y with lc0 := { y.lc0 with count := y.lc0.count - 1, active := false } }
    else { y with lc0 := { y.lc0 with count := y.lc0.count - 1 }, pc := y.lc0.start }
  let t1 := fun (y : LaneSt) =>
    if y.lc1.count - 1 = 0 then { y with lc1 := { y.lc1 with count := y.lc1.count - 1, active := false } }
    else { y with lc1 := { y.lc1 with count := y.lc1.count - 1 }, pc := y.lc1.start }
  match at0, at1 with
  | false, false => x
  | true, false => t0 x
  | false, true => t1 x
  | true, true =>
    if x.later then (let y := t1 x; if y.lc1.active then y else t0 y) else (let y := t0 x; if y.lc0.active then y else t1 y)

/-- A waiting lane's word is complete: the lane goes on past it. Its stall count has been counted when it parked. -/
def LaneSt.resume (x : LaneSt) : LaneSt := { x with park := .none, since := 0 }.next

/-- A point witness (R229). -/
def point (agent scope tick : Nat) : Word :=
  BitVec.ofNat 64 (2 ^ 60 + scope % 16 * 2 ^ 56 + agent % 4096 * 2 ^ 44 + tick % 2 ^ 44)

/-- A frontier witness (R229). -/
def frontier (scope tick : Nat) : Word :=
  BitVec.ofNat 64 (2 * 2 ^ 60 + scope % 16 * 2 ^ 56 + 0xFFF * 2 ^ 44 + tick % 2 ^ 44)

/-- A link witness, whose scope is 9 at least (R229, R450). -/
def linkWit (scope conn seq : Nat) : Word :=
  BitVec.ofNat 64 (3 * 2 ^ 60 + max scope 9 % 16 * 2 ^ 56 + conn % 65536 * 2 ^ 40 + seq % 2 ^ 40)

/-- A monitor's lane is on its core, and not in a saved image. -/
def State.resident (s : State) (m : Mon) (k : Nat) : Bool := (s.lane m.who.core m.who.slot m.who.lane).park == .monitor k

/-- Drops every stale copy of a core's L1 (R204): what its lanes have been given at an agent is no newer than what it keeps. -/
def State.l1Fresh (s : State) (c : Nat) : State := { s with l1 := s.l1.filter fun (k, y) => !(y.stale && k / 2 ^ 40 == c) }

/-- Completes a monitor: D and D+1 in a resident lane, else recorded for the restore (R259, R262). -/
def State.finishMon (s : State) (k : Nat) (m : Mon) (d w : Word) (bad : Bool) : State :=
  if s.resident m k then
    let (c, v, l) := (m.who.core, m.who.slot, m.who.lane)
    let s := match m.dst with
      | some r => (s.result c v l true 0 r d { bad := bad }).result c v l true 0 (r + 1) w
      | none => s
    { (s.modLane c v l (·.resume)).l1Fresh c with mons := s.mons.erase k }
  else { s with mons := s.mons.set k { m with done := some (d, w), bad := bad } }

/-- A swapped-out team asks to be queued again at a finish of one of its monitors (R262). -/
def State.requeueFor (s : State) (k : Nat) (who : LaneId) : State :=
  { s with saved := s.saved.map fun x =>
      if x.core = who.core ∧ x.swapped ∧ !x.queued ∧
          (x.img.lanes.get {} (laneKey who.core who.slot who.lane)).park = .monitor k then
        { x with queued := true, at_ := s.now }
      else x }

/-- Tests the monitors of the written bytes, at the write's place (R259, R261). -/
def State.testMons (s : State) (x : Loc) (n : Nat) : State :=
  s.mons.foldl (fun s (k, m) =>
    let y := s.place m.loc
    -- a window's word is the scratchpad's of the monitor's own context (R419)
    let ours := match m.loc with | .sp c _ => (s.team c).ctx == m.ctx | _ => true
    let hit := ours && !m.polled && m.done.isNone && (List.range n).any fun i => (List.range m.ty.bytes).any fun j => y.add j == x.add i
    if !hit then s else
    let v := leNat (s.bytes y m.ty.bytes)
    if waitCond m.cond m.ty v m.b then (s.requeueFor k m.who).finishMon k m (placed m.ty v) (point y.agent 7 s.now) (s.badIn y m.ty.bytes)
    else { s with mons := s.mons.set k { m with value := v, bad := s.badIn y m.ty.bytes } }) s

/-- Puts bytes into a list at an offset. -/
def patch {α : Type} (xs : List α) (o : Nat) (ys : List α) : List α := xs.take o ++ ys ++ xs.drop (o + ys.length)

/-- Bytes of a line of HBM, and the poison of its granules. -/
def State.lineBytes (s : State) (line : Nat) : List Byte := s.mem.read (line * 128) 128
def State.lineBad (s : State) (line : Nat) : List Bool := (List.range 16).map fun g => s.bad (.hbm (line * 128 + 8 * g))

/-- Line, superblock and map state that a write changes at its agent (R174, R199, R204, R205, R207): the owner tag that the
write leaves; the L1 copy of the core `own` is updated in place, and every other copy is stale until its HA drops it. -/
def State.noteWrite (s : State) (x : Loc) (data : List Byte) (tag : Option Nat) (own : Option Nat) : State :=
  match x with
  | .hbm pa =>
    let line := pa / 128
    { s with
      dirty := s.dirty.set line true, comp := s.comp.erase (pa / 512)
      tags := (match tag with | some t => s.tags.set line t | none => s.tags.erase line)
      l1 := s.l1.map fun (k, y) => (k, if k % 2 ^ 40 != line then y
        else if some (k / 2 ^ 40) == own then { y with bytes := patch y.bytes (pa % 128) data, bad := s.lineBad line }
        else { y with stale := true }) }
  | .sp c o =>
    s.modTeam c fun t => { t with map := t.map.map fun (e, m) => (e, if m.gr = o / 4096 then { m with dirty := true } else m) }
  | _ => s

/-- A write performed at its agent: bytes, poison, coherence and monitors. A write of whole granules clears their poison, or
carries the poison `bad` of a moved granule; a narrower one leaves it, or brings it (R211). -/
def State.agentWrite (s : State) (x : Loc) (data : List Byte) (tag : Option Nat) (own : Option Nat) (bad : Bool := false) : State :=
  let n := data.length
  let s := s.setBytes x data
  let s := if 8 ≤ n then (List.range (n / 8)).foldl (fun s g => s.setBad bad (x.add (8 * g))) s
    else if bad then s.setBad true x else s
  (s.noteWrite x data tag own).testMons x n

/-- Accesses, as far as translation tells them apart (R173, R210, R413). -/
inductive Acc
  | ld (size : Nat)
  | st
  | stp
  | atomic
  | decayed (read write : Bool)
  | mwait (size : Nat)
  | tileAdd
  | rawRead
  | rawWrite
  | map
  /-- A page that must allow what a unit does to its target (R372). -/
  | target
  | touch
  | cache
  | fetch
  deriving DecidableEq, Repr

def Acc.reads : Acc → Bool
  | .ld _ | .atomic | .mwait _ | .tileAdd | .rawRead | .map | .target | .touch | .cache => true
  | .decayed r _ => r
  | _ => false

def Acc.writes : Acc → Bool
  | .st | .stp | .atomic | .tileAdd | .rawWrite | .map | .target => true
  | .decayed _ w => w
  | _ => false

/-- The access itself writes, so its leaf's D is set first (R414). -/
def Acc.dirties (acc : Acc) : Bool := acc.writes && acc != .target

/-- Bit i of a leaf or register. -/
def Word.bit (w : Word) (i : Nat) : Bool := w.getLsbD i

/-- Bits hi to lo of a word as a number. -/
def Word.field (w : Word) (hi lo : Nat) : Nat := w.toNat / 2 ^ lo % 2 ^ (hi + 1 - lo)

/-- Walks the tables from a level's index position down: the leaf, its level and its address (R192, R410, R411; a host
leaf's high bits, log entry 94). -/
def State.walkFrom (s : State) (va : Nat) : List (Nat × Nat) → Nat → Option (Word × Nat × Nat)
  | [], _ => none
  | (level, pos) :: rest, base =>
    let a := base + va / 2 ^ pos % 512 * 8
    let e : Word := BitVec.ofNat 64 (leNat (s.bytes (s.place (.hbm a)) 8))
    if !Word.bit e 0 then none
    else if e.toNat / 2 % 8 = 0 then
      if Word.field e 63 48 = 0 ∧ Word.field e 11 1 = 0 ∧ level < 3 then State.walkFrom s va rest (Word.field e 47 12 * 4096)
      else none
    else if level = 0 then none
    else
      let ap := Word.field e 9 7
      let mbz := Word.bit e 15 || ((ap == 0 || ap == 3 || ap == 4 || ap == 2) && Word.field e 63 56 != 0) ||
        (Word.field e 23 16 != 0 && !(ap == 1 || (ap == 0 && Word.bit e 12))) ||
        (level == 2 && Word.field e 32 24 != 0) || (level == 1 && Word.field e 41 24 != 0)
      if mbz then none else some (e, level, a)

/-- A walk of four levels. -/
def State.walk (s : State) (ctx va : Nat) : Option (Word × Nat × Nat) :=
  s.walkFrom va [(0, 43), (1, 34), (2, 25), (3, 16)] (s.ctxs.get {} ctx).pgroot

/-- Offset bits of a leaf's page at a level (R192). -/
def pageBits (level : Nat) : Nat := if level = 1 then 34 else if level = 2 then 25 else 16

/-- The physical address of a local leaf (R411). -/
def leafPa (leaf : Word) (level va : Nat) : Nat := Word.field leaf 55 24 * 65536 + va % 2 ^ pageBits level

/-- The rules of R412 hold for a leaf that places `pa`, with the ranges of R193 and the element types of R208. -/
def leafOk (leaf : Word) (level pa : Nat) : Bool :=
  let (ap, b) := (Word.field leaf 9 7, Word.bit leaf)
  let attr := fun (cmp tol dec rap : Bool) => (cmp || !b 11) && (tol || !b 12) && (dec || !b 13) && (rap || !b 10)
  (b 1 || !b 2) && (ap == 0 || !b 3) &&
  match ap with
  | 0 => attr true true true false && !(b 12 && b 13) && decide (pa < 2 ^ 40) && !(b 12 && decide (5 ≤ Word.field leaf 23 21))
  | 1 => attr false false false true && level == 3
  | 2 => attr false false false false
  | 3 => attr false false false false && level == 3 && decide (0xF80000000000 ≤ pa)
  | 4 => attr false false false false && level != 1 && decide (0xF00000000000 ≤ pa) && decide (pa < 0xF00100000000)
  | _ => false

/-- The fault of an access through a leaf, or 0: R413 steps 2 to 5, in order. -/
def leafFault (leaf : Word) (level pa : Nat) (user : Bool) (acc : Acc) : Nat :=
  let b := Word.bit leaf
  if !leafOk leaf level pa then 0x0C
  else if user && !b 4 then 0x0C
  else if (acc.reads && !b 1) || (acc.writes && !b 2) || (acc == .fetch && !b 3) then 0x0C
  else
    let (dec, tol) := (b 13, b 12)
    match acc with
    | .decayed .. => if dec then 0 else 0x0D
    | .ld n | .mwait n => if dec && n != 8 then 0x0D else 0
    | .st => if dec then 0x0D else 0
    | .stp | .atomic | .tileAdd | .map | .target => if dec then 0x0D else if tol then 0x0C else 0
    | _ => 0

/-- A window's place, or none where the access is not allowed there (R195). -/
def windowLoc (off : Nat) (user : Bool) (acc : Acc) (size : Nat) : Option Loc :=
  let i := off / 0x200000
  let o := off % 0x200000
  let c := 192 * (i / 256) + i % 256
  if 192 ≤ i % 256 ∨ 2048 ≤ i then none
  else if o < 0xE0000 ∧ 16 < size then none
  else if o < 0x80000 then (if acc == .atomic || acc == .tileAdd then none else some (.pool c o))
  else if o < 0xE0000 then some (.sp c (o - 0x80000))
  else if o < 0xE1000 then (if size = 8 ∧ (acc = .ld 8 ∨ acc = .st ∨ acc = .rawRead ∨ acc = .rawWrite) then some (.sync c (o - 0xE0000)) else none)
  else if o < 0xE2000 then (if size = 8 ∧ (acc = .ld 8 ∨ acc = .rawRead) then some (.queue c (o - 0xE1000)) else none)
  else if 0xF0000 ≤ o ∧ o < 0x100000 then
    (if user || acc == .atomic || acc == .tileAdd then none else some (.control c (o - 0xF0000)))
  else none

/-- The core holds a team of the context, resident or saved (R419). -/
def State.holds (s : State) (c ctx : Nat) : Bool :=
  (match s.teams.find? c with | some t => t.ctx == ctx | none => false) || s.saved.any fun x => x.core == c && x.team.ctx == ctx

/-- The place that a leaf gives an address, or none for an access fault. -/
def State.leafLoc (s : State) (ctx : Nat) (leaf : Word) (level va : Nat) (user : Bool) (acc : Acc) (size : Nat) : Option Loc :=
  let pa := leafPa leaf level va
  match Word.field leaf 9 7 with
  | 0 => some (.hbm pa)
  | 1 => some (.peer (Word.field leaf 27 24 * 256 + Word.field leaf 23 16) (Word.field leaf 63 28 * 65536 + va % 65536))
  | 2 => some (.host pa)
  | 3 => some (.burzon (pa - 0xF80000000000))
  | _ =>
    match windowLoc (pa - 0xF00000000000) user acc size with
    | some x =>
      let c := x.agent - 0x200
      if s.absent.get false c then none else if s.holds c ctx then some x else none
    | none => none

/-- Entries a TLB holds at one place (R415): the oldest leaves when it is full (log entry 13). -/
def tlbAdd (cap : Nat) (t : List TlbEnt) (e : TlbEnt) : List TlbEnt :=
  let t := t.filter fun x => !(x.at_ == e.at_ && x.ctx == e.ctx && x.level == e.level && x.page == e.page)
  let own := t.countP fun x => x.at_ == e.at_
  let t := if cap ≤ own then (match t.findIdx? fun x => x.at_ == e.at_ with | some i => t.eraseIdx i | none => t) else t
  t ++ [e]

def TlbEnt.hits (x : TlbEnt) (at_ ctx va : Nat) : Bool :=
  x.at_ == at_ && x.ctx == ctx && x.page == va / 2 ^ pageBits x.level

/-- Context, package and remote page to which an entry's leaf leads an address, where it has the peer aperture (R411). -/
def TlbEnt.peerPage (x : TlbEnt) : Option (Nat × Nat × Nat) :=
  if Word.field x.leaf 9 7 = 1 then some (x.ctx, Word.field x.leaf 27 24 * 256 + Word.field x.leaf 23 16, Word.field x.leaf 63 28) else none

/-- Keeps the attributes of the leaf through which a page of HBM was last reached (R206, R208). -/
def State.noteLeaf (s : State) (leaf : Word) (x : Loc) : State :=
  match x with
  | .hbm pa =>
    let k := pa / 65536
    if Word.bit leaf 11 || Word.bit leaf 12 then { s with attrs := s.attrs.set k (leaf.toNat % 2 ^ 24) }
    else if (s.attrs.find? k).isSome then { s with attrs := s.attrs.erase k } else s
  | _ => s

/-- A fault found for an address of a core drops the entries through which it was found (R415). -/
def State.unlearn (s : State) (core : Option Nat) (ctx va : Nat) : State :=
  match core with
  | some c => { s with tlb := s.tlb.filter fun x => !x.hits c ctx va, dtlb := s.dtlb.filter fun x => !x.hits (dieOf c) ctx va }
  | none => s

/-- Translates an address for an access of a context: the place and leaf, or the cause of the fault (R192, R413-R415). `core` is
the core whose TLBs are used; engines of the package walk each time. -/
def State.xlate (s : State) (core : Option Nat) (ctx : Nat) (user : Bool) (acc : Acc) (va size : Nat) :
    State × Except Nat (Loc × Word) :=
  if 2 ^ 52 ≤ va then (s, .error 0x0B) else
  let hit := core.bind fun c =>
    ((s.tlb.find? fun x => x.hits c ctx va) <|> (s.dtlb.find? fun x => x.hits (dieOf c) ctx va)).filter
      fun x => !acc.dirties || Word.bit x.leaf 6
  let found := match hit with
    | some x => some (x.leaf, x.level, x.ent)
    | none => s.walk ctx va
  match found with
  | none => (s, .error 0x0B)
  | some (leaf, level, ent) =>
    let f := leafFault leaf level (leafPa leaf level va) user acc
    if f ≠ 0 then (s.unlearn core ctx va, .error f) else
    match s.leafLoc ctx leaf level va user acc size with
    | none => (s.unlearn core ctx va, .error 0x0C)
    | some x =>
      let need := (if Word.bit leaf 5 then 0 else 2 ^ 5) + (if acc.dirties && !Word.bit leaf 6 then 2 ^ 6 else 0)
      let s := if need = 0 then s else
        let p := s.place (.hbm ent)
        let old := leNat (s.bytes p 8)
        s.agentWrite p (leBytes 8 (old ||| need)) none none
      let e : TlbEnt := { at_ := 0, ctx := ctx, level := level, page := va / 2 ^ pageBits level, leaf := leaf ||| BitVec.ofNat 64 need, ent := ent }
      let s := match core with
        | some c => if hit.isSome then s else
          { s with tlb := tlbAdd 2048 s.tlb { e with at_ := c }, dtlb := tlbAdd 32768 s.dtlb { e with at_ := dieOf c } }
        | none => s
      (s.noteLeaf leaf x, .ok (x, leaf))

/-- Scratchpad space addresses (R198): `.sp`, or `.gs` by gang member. -/
def State.spLoc (s : State) (c : Nat) (gang : Bool) (a : Nat) : Option Loc :=
  let off := a % 2 ^ 19
  if 0x60000 ≤ off then none
  else if gang then
    match (s.gang c)[a / 2 ^ 19]? with
    | some m => if a < 2 ^ 26 then some (.sp m off) else none
    | none => none
  else if a < 2 ^ 19 then some (.sp c off) else none

end Sys2Proof.Machine
end

