-- ==== Sys2Proof/Machine/Witness.lean ====
section
/-! DEFINITION. Witnesses: agents by scope (R226, R227), formats (R229, R230), what satisfies one (R231-R234), merging (R237). -/

namespace Sys2Proof.Machine

/-- TICKGE (R225). -/
def tickGe (a b : Nat) : Bool := decide ((a % 2 ^ 44 + 2 ^ 44 - b % 2 ^ 44) % 2 ^ 44 < 2 ^ 43)

/-- The later of two ticks (R225). -/
def tickMax (a b : Nat) : Nat := if tickGe a b then a else b

/-- An agent's closed tick (R224): the tick before the one at which it published last. -/
def State.ctOf (s : State) (a : Nat) : Nat := (s.ct.get s.ctBase a + 2 ^ 44 - 1) % 2 ^ 44

/-- Scratchpad agents of the aligned square of side n around a core. -/
def squareAgents (c n : Nat) : List Nat :=
  (List.range (n * n)).map fun i => 0x200 + coreAt (gxOf c / n * n + i % n) (gyOf c / n * n + i / n)

/-- The 64 HAs of a core's die. -/
def dieHas (c : Nat) : List Nat := (List.range 64).map (64 * dieOf c + ·)

/-- AGENTS(s, c) (R226). -/
def agents (sc c : Nat) : List Nat :=
  if sc ≤ 3 then (0x200 + c) :: dieHas c
  else if sc = 4 then squareAgents c 2 ++ dieHas c
  else if sc = 5 then squareAgents c 4 ++ dieHas c
  else if sc = 6 then (List.range 192).map (0x200 + 192 * dieOf c + ·) ++ dieHas c
  else if sc = 8 then List.range 0x802
  else List.range 0x801

/-- Membership in AGENTS(s, c). -/
def inScope (sc c a : Nat) : Bool :=
  let ha := decide (a < 0x200) && a / 64 == dieOf c
  let k := a - 0x200
  let sp := decide (0x200 ≤ a) && decide (a < 0x800)
  if sc ≤ 3 then ha || a == 0x200 + c
  else if sc = 4 then ha || (sp && gxOf k / 2 == gxOf c / 2 && gyOf k / 2 == gyOf c / 2)
  else if sc = 5 then ha || (sp && gxOf k / 4 == gxOf c / 4 && gyOf k / 4 == gyOf c / 4)
  else if sc = 6 then ha || (sp && dieOf k == dieOf c)
  else if sc = 8 then decide (a < 0x802)
  else decide (a < 0x801)

/-- EXT(a, c): the narrowest of tm, cl, rg, di, pk and hs (R227). -/
def ext (a c : Nat) : Nat := ([3, 4, 5, 6, 7].find? fun sc => inScope sc c a).getD 8

/-- LINKDONE(n, q), with TC (R233). -/
def State.linkDone (s : State) (n q : Nat) : Option Nat :=
  match s.conns.find? n with
  | some k => (k.tcs.find? fun (x, _) => decide (q ≤ x)).map (·.2)
  | none => none

/-- A connection belongs to the context (R230, R275). -/
def State.connOwned (s : State) (n ctx : Nat) : Bool :=
  match s.conns.find? n with
  | some k => k.opened && Word.field k.cctl 55 44 == ctx
  | none => false

/-- A value is one of the formats of R229 (R230). -/
def State.witOk (s : State) (ctx : Nat) (w : Word) : Bool :=
  let k := Word.field w 63 60
  let sc := Word.field w 59 56
  if k = 0 then w == 0
  else if k = 1 then decide (1 ≤ sc) && decide (sc < 12) && decide (Word.field w 55 44 < 0x800)
  else if k = 2 then decide (1 ≤ sc) && decide (sc < 12) && Word.field w 55 44 == 0xFFF
  else if k = 3 then decide (9 ≤ sc) && decide (sc < 12) && s.connOwned (Word.field w 55 40) ctx
  else k == 0xE

/-- A point or frontier has expired (R231, R232). -/
def State.expired (s : State) (w : Word) : Bool :=
  let age := (s.now % 2 ^ 44 + 2 ^ 44 - Word.field w 43 0) % 2 ^ 44
  decide (2 ^ 43 ≤ age) && decide (age < 2 ^ 44 - 1024)

/-- SATISFIED of a frontier. -/
def State.frontOk (s : State) (sc tick c : Nat) : Bool := (agents sc c).all fun a => tickGe (s.ctOf a) tick

/-- SATISFIED(w, c) (R231). -/
def State.satisfied (s : State) (w : Word) (c : Nat) : Bool :=
  let k := Word.field w 63 60
  if k = 0 then true
  else if k = 1 then s.expired w || tickGe (s.ctOf (Word.field w 55 44)) (Word.field w 43 0)
  else if k = 2 then s.expired w || s.frontOk (Word.field w 59 56) (Word.field w 43 0) c
  else match s.linkDone (Word.field w 55 40) (Word.field w 39 0) with
    | some tc => s.expired (frontier 7 tc) || s.frontOk 7 tc c
    | none => false

/-- Counts a wait's witness that is satisfied because it has expired (R231, R232). -/
def State.countExpiry (s : State) (w : Word) : State :=
  let k := Word.field w 63 60
  let old := if k = 1 ∨ k = 2 then s.expired w
    else k == 3 && match s.linkDone (Word.field w 55 40) (Word.field w 39 0) with | some tc => s.expired (frontier 7 tc) | none => false
  if old then s.count 0x0A22 1 else s

/-- The entry of a handle's value has its generation, and its work is not complete. -/
def FutSt.open_ (e : FutSt) (w : Word) : Bool := e.busy && e.gen % 2 ^ 28 == Word.field w 27 0 && e.result.isNone

/-- The work of a foreign handle is complete: its entry no longer has that generation, or has its result (R357). -/
def State.handleDone (s : State) (w : Word) : Bool :=
  let (c, e) := (Word.field w 59 48, Word.field w 36 28)
  !((s.futEnt c e).open_ w) && s.saved.all fun x => !(x.core == c && ((x.img.fut.get {} (futKey c e)).open_ w))

/-- A connection has failed (R282). -/
def State.linkFailed (s : State) (n : Nat) : Bool :=
  match s.conns.find? n with
  | some k => k.failed
  | none => false

/-- Work may go on, waits, or ends in a fault with the value of AUX. -/
inductive Ready
  | ok
  | wait
  | fault (cause aux : Nat)

/-- How messages of an engine stand: all done, one lost with its connection, or on their way (R280, R282). -/
def State.linksState (s : State) (qs : List (Nat × Nat)) : Ready :=
  match qs.find? fun x => (s.linkDone x.1 x.2).isNone && s.linkFailed x.1 with
  | some x => .fault 0x14 x.1
  | none => if qs.all fun x => (s.linkDone x.1 x.2).isSome then .ok else .wait

/-- How writes that have been performed stand: closed at each agent, with their messages to peers done (R224, R244). -/
def State.shut (s : State) (o : Opened) : Ready :=
  match s.linksState o.links with
  | .ok => if o.agents.all fun a => tickGe (s.ctOf a) o.tick then .ok else .wait
  | r => r

/-- Writes of now at some agents, with the messages to peers among them. -/
def State.opens (s : State) (agents : List Nat) (links : List (Nat × Nat) := []) : Opened :=
  { agents := agents.eraseDups, tick := s.now, links := links }

/-- More writes of the same piece of work. -/
def State.opensMore (s : State) (o : Opened) (agents : List Nat) : Opened :=
  { o with agents := (o.agents ++ agents).eraseDups, tick := s.now }

/-- The work made no write. -/
def Opened.none (o : Opened) : Bool := o.agents.isEmpty && o.links.isEmpty

/-- How a wait for a witness stands. -/
inductive Wait
  | bad
  /-- The link has failed before the witness was satisfied (R282). -/
  | failed (conn : Nat)
  | wait (s : State)
  | go (s : State)

/-- A lane waits for a value as a witness (R230-R234): on a foreign handle until the work completes, then on the frontier of
the tick at which that was found, which the lane keeps. -/
def State.waitWit (s : State) (c v l : Nat) (w : Word) : Wait :=
  if !s.witOk (s.team c).ctx w then .bad
  else if Word.field w 63 60 = 0xE then
    let t := (s.lane c v l).since
    if t ≠ 0 then
      if s.frontOk 7 t c then .go (s.modLane c v l fun x => { x with since := 0 }) else .wait s
    else if s.handleDone w then .wait (s.modLane c v l fun x => { x with since := s.now, park := .retry })
    else .wait s
  else if s.satisfied w c then .go (s.countExpiry w)
  else if Word.field w 63 60 = 3 ∧ s.linkFailed (Word.field w 55 40) then .failed (Word.field w 55 40)
  else .wait s

/-- Merge of two witnesses by R237 around core c; none while a link of theirs is not done. -/
def State.merge (s : State) (c : Nat) (a b : Word) : Option Word :=
  let kind := fun (w : Word) => Word.field w 63 60
  let sc := fun (w : Word) => Word.field w 59 56
  -- as a frontier's tick and scope
  let front := fun (w : Word) =>
    if kind w = 1 then some (Word.field w 43 0, max (sc w) (ext (Word.field w 55 44) c))
    else if kind w = 2 then some (Word.field w 43 0, sc w)
    else (s.linkDone (Word.field w 55 40) (Word.field w 39 0)).map fun tc => (tc, sc w)
  if a = 0 then some b
  else if b = 0 then some a
  else if kind a = 1 ∧ kind b = 1 ∧ Word.field a 55 44 = Word.field b 55 44 then
    some (point (Word.field a 55 44) (max (sc a) (sc b)) (tickMax (Word.field a 43 0) (Word.field b 43 0)))
  else if kind a = 3 ∧ kind b = 3 ∧ Word.field a 55 40 = Word.field b 55 40 then
    some (linkWit (max (sc a) (sc b)) (Word.field a 55 40) (max (Word.field a 39 0) (Word.field b 39 0)))
  else match front a, front b with
    | some (t, x), some (u, y) =>
      -- beside a link, a point counts with its own scope
      let x := if kind b = 3 then (if kind a = 1 then sc a else x) else x
      let y := if kind a = 3 then (if kind b = 1 then sc b else y) else y
      some (frontier (max x y) (tickMax t u))
    | _, _ => none

/-- Merge of a list of points and frontiers, which needs no wait. -/
def State.mergeAll (s : State) (c : Nat) (ws : List Word) : Word := ws.foldl (fun a b => (s.merge c a b).getD a) 0

/-- `wscp`'s widening (R241); none while a link is not done. -/
def State.widen (s : State) (sc : Nat) (w : Word) : Option Word :=
  let k := Word.field w 63 60
  if w = 0 then some 0
  else if k = 1 then some (point (Word.field w 55 44) (max (Word.field w 59 56) sc) (Word.field w 43 0))
  else if k = 2 then some (frontier (max (Word.field w 59 56) sc) (Word.field w 43 0))
  else if 9 ≤ sc then some (linkWit (max (Word.field w 59 56) sc) (Word.field w 55 40) (Word.field w 39 0))
  else (s.linkDone (Word.field w 55 40) (Word.field w 39 0)).map fun tc => frontier (if sc ≤ 7 then 7 else 8) tc

/-- What `wfen` returns for a lane now that its writes are stamped (R240): ticks of its writes in scope and, for wide scopes,
of its fabric writes; none while a fabric write is not done. -/
def State.fenceWit (s : State) (c v l sc : Nat) : Option Word :=
  let x := s.lane c v l
  let ticks := (x.wrote.filter fun (a, _) => inScope sc c a).map (·.2)
  let links := if 9 ≤ sc then x.fab.map fun (n, q) => s.linkDone n q else []
  if links.contains none then none
  else
    let all := ticks ++ links.filterMap id
    match all with
    | [] => some 0
    | t :: ts => some (frontier sc (ts.foldl tickMax t))

/-- The request is a write that `wfen` counts (R240). -/
def ReqOp.isWrite : ReqOp → Bool
  | .store .. | .atomic .. | .stp .. | .tile .. | .stdw .. | .addDw .. | .mrgDw .. | .cwb .. => true
  | _ => false

/-- The request counts for a lane. -/
def Req.of (r : Req) (c v l : Nat) : Bool := r.who.core == c && r.who.slot == v && r.lanes.has l

/-- Every earlier write of the lane is stamped: none waits for its agent or in the matrix engine (R240). -/
def State.stamped (s : State) (c v l : Nat) : Bool :=
  (s.reqs.all fun (_, r) => !(r.op.isWrite && r.of c v l)) &&
  ((s.mx.get [] c).all fun o => match o.k with | .mst .. => !(o.slot == v && o.lanes.has l) | _ => true)

/-- The request returns a value that `lfen` waits for (R220). -/
def ReqOp.isLoad : ReqOp → Bool
  | .load _ | .lddw .. | .addDw .. | .mrgDw .. | .fld => true
  | .atomic _ _ _ _ _ old => old
  | _ => false

/-- Every earlier load of the lane has returned (R220). -/
def State.loadsBack (s : State) (c v l : Nat) : Bool :=
  (s.reqs.all fun (_, r) => !(r.dst.isSome && r.op.isLoad && r.of c v l)) &&
  (s.replies.all fun (_, r) => !(r.load && r.who == ⟨c, v, l⟩)) &&
  (s.rrcFetch.all fun (_, r) => r.who != ⟨c, v, l⟩) &&
  (s.conns.all fun (_, k) => k.out.all fun m => !(m.kind == 2 && m.dst.isSome && m.who == ⟨c, v, l⟩)) &&
  ((s.mx.get [] c).all fun o => match o.k with | .mld .. => !(o.slot == v && o.lanes.has l) | _ => true)

/-- Records a stamped write of a lane (R240). -/
def State.noteStamp (s : State) (who : LaneId) (agent tick : Nat) : State :=
  if who.lane < 32 then s.modLane who.core who.slot who.lane fun x => { x with wrote := x.wrote.set agent tick } else s

end Sys2Proof.Machine
end

