-- ==== Sys2Proof/Machine/Ops.lean ====
section
/-! DEFINITION. Issuing a word: the checks of R82 in order, the lanes of M (R43, R109), what becomes of each lane (R431),
taking a trap and a nested fault (R432-R434, R437), returning from one (R435), and ending a lane (R324). -/

namespace Sys2Proof

/-- The stall count of a word (R54, R69). -/
def Instr.stall (i : Instr) : Nat :=
  match i.form with
  | .full h _ => h.stall.toNat
  | .pair f _ => f.stall.toNat
  | .event => 0

/-- Registers that a word reads in a lane whose guard is true, less guards. -/
def Instr.reads (i : Instr) : List Nat :=
  match i.form with
  | .full _ s => s.reads
  | .pair f o => f.h1.reads o ++ f.h2.reads f.op2
  | .event => []

/-- Registers that a word reads where the guards that `g` accepts hold: each half of a pair has its own (R55, R69). -/
def Instr.readsWhere (i : Instr) (g : BitVec 3 × Bool → Bool) : List Nat :=
  match i.form with
  | .pair f o => (if g (f.h1.gp, f.h1.gneg) then f.h1.reads o else []) ++ (if g (f.h2.gp, f.h2.gneg) then f.h2.reads f.op2 else [])
  | .full h s => if g (h.gp, h.gneg) then s.reads else []
  | .event => []

/-- Registers whose pending handle does not block the word (R358-R360). -/
def Instr.noBlock (i : Instr) : List Nat :=
  match i with
  | .ftst f | .fcan f | .fmov f => (Use.reg 1).regs f.a
  | .fst f => (Use.reg 1).regs f.b
  | _ => []

/-- Guards of a word: the predicate and its sense (R55, R69). -/
def Instr.guards (i : Instr) : List (BitVec 3 × Bool) :=
  match i.form with
  | .full h _ => [(h.gp, h.gneg)]
  | .pair f _ => [(f.h1.gp, f.h1.gneg), (f.h2.gp, f.h2.gneg)]
  | .event => []

/-- Detail of an illegal-instruction trap found at checks 2, 4 or 5 (R82, R434). -/
def Instr.illegal (i : Instr) : Option Nat :=
  match i.form with
  | .pair f o => if !(o.accepts f.h1.ty && f.op2.accepts f.h2.ty) then some 2 else if !i.fieldsOk then some 4
      else if !i.pairOk then some 5 else none
  | _ => if i.fieldsOk then none else some 4

end Sys2Proof

namespace Sys2Proof.Machine

/-- The answer of every meaning. -/
abbrev Out := Host.Outcome State Fault Refusal

/-- A guard holds in a lane. -/
def State.guard (s : State) (c w l : Nat) (g : BitVec 3 × Bool) : Bool := s.rdPred c w l g.1.toNat != g.2

/-- Some guard of the word holds: the lane belongs to M. -/
def State.inM (s : State) (i : Instr) (c w l : Nat) : Bool := i.guards.any (s.guard c w l)

/-- Registers that the word reads in a lane, less guards: none where no guard holds (R82); its format word may add some. -/
def State.needs (s : State) (i : Instr) (c w l : Nat) : List Nat :=
  i.readsWhere (s.guard c w l) ++ if s.inM i c w l then i.fmtReads (s.fmtOf i c w l) else []

/-- A predicate waits for an operation in flight (R164). -/
def State.predBusy (s : State) (c w l : Nat) (r : Nat) : Bool :=
  decide (256 ≤ r) && ((s.lane c w l).ppend.find? (r - 256)).isSome

/-- The lane's word reads a register with a pending write (R78, R310). -/
def State.waitsWrite (s : State) (i : Instr) (c w l : Nat) : Bool :=
  i.guards.any (fun g => s.predBusy c w l (predId g.1.toNat)) ||
  (s.needs i c w l).any (fun r => (s.mark c w l r).pend != 0 || s.predBusy c w l r)

/-- The lane's word reads a register with a pending write or handle (R78, R310, R345). -/
def State.waits (s : State) (i : Instr) (c w l : Nat) : Bool :=
  s.waitsWrite i c w l || (s.needs i c w l).any fun r => (s.mark c w l r).fut.isSome && !i.noBlock.contains r

/-- Lanes of the instance that can issue the word now (R310, R311). -/
def State.issuing (s : State) (i : Instr) : List Nat :=
  let (c, w) := (s.cur.core, s.cur.slot)
  if (s.warp c w).frozen then [] else
  s.cur.lanes.lanes.filter fun l =>
    let x := s.lane c w l
    x.live && x.park == .none && !x.held && !s.waits i c w l

/-- The instance's lanes run in user mode; they are of one mode (R311). -/
def State.userMode (s : State) (ls : List Nat) : Bool :=
  !(ls.any fun l => (s.lane s.cur.core s.cur.slot l).handler)

/-- Check 7 of R82 fails in a lane: a guard, or in a lane of M a source, is below its distance. -/
def State.tooSoon (s : State) (i : Instr) (c w l : Nat) : Bool :=
  let sh := (s.lane c w l).shadow
  let soon := fun r => sh.any fun x => x.reg == r
  i.guards.any (fun g => soon (predId g.1.toNat)) || (s.needs i c w l).any soon

/-- The window check fails in a lane: that of a matrix word is the lane's own, made where its guard holds (R60, R149). -/
def State.windowFails (s : State) (i : Instr) (c w l : Nat) : Bool :=
  if i.isMx then s.inM i c w l && !s.mxWindow c w i (s.fmtOf i c w l) else i.vregsOutside (s.warp c w).bnd

/-- The first check of R82 that the word fails: cause and DETAIL. -/
def State.check (s : State) (i : Instr) (ls : List Nat) : Option (Nat × Nat) :=
  let (c, w) := (s.cur.core, s.cur.slot)
  if i.illegal == some 2 then some (0x01, 2)
  else if forbidden (s.userMode ls) (encodeNat i) then some (0x02, 0)
  else match i.illegal with
    | some d => some (0x01, d)
    | none =>
      if ls.any (s.windowFails i c w) then some (0x03, 0)
      else if Word.bit (s.warp c w).wmode 0 && ls.any (s.tooSoon i c w) then some (0x04, 0)
      else none

/-- The lanes that a failed check traps: every lane that issues the word, or the lanes whose own window check fails (R82, R149). -/
def State.checkLanes (s : State) (i : Instr) (ls : List Nat) (cause : Nat) : List Nat :=
  if cause = 0x03 then ls.filter (s.windowFails i s.cur.core s.cur.slot) else ls

/-- A fault that a source register brings: poison, or the fault kept for its first reader (R211, R283). -/
def State.sourceFault (s : State) (c w l : Nat) (rs : List Nat) : Option (Nat × Nat) :=
  rs.findSome? fun r =>
    let m := s.mark c w l r
    if m.bad then some (0x11, 0) else if m.fault ≠ 0 then some (m.fault, m.aux) else none

/-- What becomes of one lane. -/
inductive LaneOut
  | done
  | jump (pc : Word)
  | fault (cause addr aux : Nat)
  | park (p : Park)
  deriving DecidableEq, Repr

/-- A fault of one lane: lane, cause, address. -/
abbrev LaneFault := Nat × Nat × Nat

/-- Where a warp's trap record lies (R407). -/
def State.trecOf (s : State) (c w : Nat) : Nat := (s.team c).trbase + 1024 * (48 * c + w)

/-- The trap record (R434) as 128 dwords: what varies, at its place; every other dword is zero. -/
def trapRecord (cause detail : Nat) (word : Word) (active done faultm : Mask) (tcount nid : Nat) (pair lbp : Bool)
    (tick aux : Nat) (pcs : List Nat) (addrs : List Nat) (diag : List Nat) : List Nat :=
  [detail % 256 * 256 + cause, word.toNat, done.toNat * 2 ^ 32 + active.toNat, faultm.toNat,
    tcount * 2 ^ 32 + nid * 2 ^ 16 + (if pair then 2 else 0) + (if lbp then 1 else 0), tick, aux, 0] ++
  pcs ++ addrs ++ diag ++ List.replicate (56 - diag.length) 0

/-- Writes bytes line by line, each line at its agent. -/
def State.writeLines (s : State) (x : Loc) (ctx : Nat) : List (List Byte) → State
  | [] => s
  | b :: t => State.writeLines (s.agentWrite (s.place x) b none none) (x.add b.length) ctx t

/-- Writes of n lines from a place on have closed: no L1 holds an older copy of them (R204, R224). -/
def State.forgetLines (s : State) (x : Loc) (n : Nat) : State :=
  match x with
  | .hbm pa => { s with l1 := s.l1.filter fun (k, _) => !(decide (pa / 128 ≤ k % 2 ^ 40) && decide (k % 2 ^ 40 < pa / 128 + n)) }
  | _ => s

/-- Splits bytes into pieces of n. -/
def pieces (n : Nat) : Nat → List Byte → List (List Byte)
  | 0, _ => []
  | k + 1, bs => bs.take n :: pieces n k (bs.drop n)

/-- Stores the record at `trec`, as handler-mode stores, and waits until they have closed: 0, or the cause of the fault by which it
cannot be written (R432, R437, log entry 80). -/
def State.putRecord (s : State) (c w : Nat) (ds : List Nat) : State × Nat :=
  match s.xlate (some c) (s.team c).ctx false .st (s.trecOf c w) 8 with
  | (s, .ok (x, _)) => ((s.writeLines x (s.team c).ctx (pieces 128 8 (ds.flatMap (leBytes 8)))).forgetLines x 8, 0)
  | (s, .error k) => (s, k)

/-- A message of an identity to an IMSIC page, on its way (R343). -/
def State.sendMsi (s : State) (page identity : Nat) : State :=
  { s with imsg := s.imsg.set s.seq (page, identity), seq := s.seq + 1 }

/-- The die whose service pair serves a die: its own, or the leader's once its own has failed (R444). -/
def State.servedBy (s : State) (d : Nat) : Nat :=
  let x := s.pairs.get {} d
  if (x.failed || !x.working) && s.lead.getLsbD 3 then s.lead.toNat % 8 else d

/-- A nested fault: freezes the warp, marks the record, fills the escalation block, tells the die's service pair (R437). -/
def State.nestedFault (s : State) (c w cause : Nat) (recorded : Bool) : State :=
  let s := s.land c w
  let x := s.warp c w
  let (s, ok) :=
    if !recorded then (s, false) else
    match s.xlate (some c) (s.team c).ctx false .st (s.trecOf c w) 8 with
    | (s, .ok (loc, _)) => (s.agentWrite (s.place (loc.add 56)) (leBytes 8 (256 + cause)) none (some c), true)
    | (s, .error _) => (s, false)
  let s := s.setWarp c w { x with
    frozen := true, estat := BitVec.ofNat 64 (2 ^ 63 + cause * 256 + x.cause)
    erec := if ok then BitVec.ofNat 64 (s.trecOf c w) else 0 }
  let id := Word.field (s.escid.get 0 (dieOf c)) 10 0
  let d := s.servedBy (dieOf c)
  (s.sendMsi (2 * (2 * d) + 1) id).sendMsi (2 * (2 * d + 1) + 1) id

/-- Takes a trap (R432): completes the fixed-latency writes, writes the record, and moves the faulting lanes to TVEC in handler
mode. A fault of a handler lane is a nested fault (R437); a fault beside a running handler, or in a frozen warp, holds its lanes at
their word (R433). -/
def State.takeTrap (s : State) (c w : Nat) (active done : Mask) (fs : List LaneFault) (detail aux : Nat)
    (diag : List Nat := []) (enter : Bool := true) : State :=
  let cause := fs.foldl (fun m f => min m f.2.1) 255
  if !(s.warp c w).frozen && fs.any fun f => (s.lane c w f.1).handler then s.nestedFault c w cause true
  else if (s.warp c w).frozen || (List.range 32).any fun l => (s.lane c w l).handler then
    fs.foldl (fun s f => s.modLane c w f.1 fun x => { x with held := true, tied := false }) s
  else
    let s := s.land c w
    let fm := Mask.ofLanes (fs.map (·.1))
    let s := s.modWarp c w fun x => { x with tcount := x.tcount + 1, cause := cause, recPcs := fs.map fun f => (f.1, (s.lane c w f.1).pc) }
    -- a done lane that waits for what it asked for goes on at its next word
    let pcOf := fun (x : LaneSt) => match x.park with | .replies _ => x.next.pc | _ => x.pc
    let pcs := (List.range 32).map fun l =>
      if fm.has l then (s.lane c w l).pc.toNat else if done.has l then (pcOf (s.lane c w l)).toNat else 0
    let addrs := (List.range 32).map fun l =>
      match fs.find? fun f => f.1 == l with
      | some f => f.2.1 * 2 ^ 56 + f.2.2 % 2 ^ 52
      | none => 0
    let ds := trapRecord cause detail s.cur.word active done fm (s.warp c w).tcount.toNat (s.team c).nid
      (s.cur.word.toNat / 2 ^ 62 == 1) s.cur.lbp s.now aux pcs addrs diag
    let (s, bad) := s.putRecord c w ds
    if bad ≠ 0 then s.nestedFault c w bad false
    else if !enter then s.nestedFault c w cause true
    else
      let t : Word := BitVec.ofNat 64 (s.team c).tvec
      fs.foldl (fun s f => s.modLane c w f.1 fun x => { x with handler := true, park := .none, prev := x.pc, pc := t }) s

/-- A trap of every lane of a list for one cause (R82, R430). -/
def State.trapAll (s : State) (ls : List Nat) (cause detail : Nat) (addr : Nat → Nat := fun _ => 0) (aux : Nat := 0)
    (enter : Bool := true) : State :=
  if ls.isEmpty then s else
  s.takeTrap s.cur.core s.cur.slot (Mask.ofLanes ls) 0 (ls.map fun l => (l, cause, addr l)) detail aux [] enter

/-- What a lane is after its word (R323, R431). -/
def LaneOut.after (o : LaneOut) (stall : Nat) (x : LaneSt) : LaneSt :=
  match o with
  | .done => (x.age (1 + stall)).next
  | .jump t => { x.age (1 + stall) with prev := x.pc, pc := t, tied := false }
  | .park p => if p.early then { x with park := p } else { x.age (1 + stall) with park := p }
  | .fault .. => x

/-- The lanes of M, done and faulting, as the instance goes on. -/
structure Acc3 where
  s : State
  done : List Nat
  faults : List LaneFault
  aux : Nat
  /-- Fixed-latency writes of uniform registers that the first lane made. -/
  late : List Shadow := []

/-- Runs a body in one lane: it sees the state at issue and whether no lower lane has executed. -/
def Acc3.lane (stall c w : Nat) (body : Nat → Bool → State → LaneOut × State) (a : Acc3) (l : Nat) : Acc3 :=
  match body l a.done.isEmpty a.s with
  | (.fault cause addr aux, s) => { a with s := s, faults := a.faults ++ [(l, cause, addr)], aux := if a.faults.isEmpty then aux else a.aux }
  | (o, s) =>
    { a with
      s := s.modLane c w l (o.after stall), done := match o with | .park (.replies _) | .done | .jump _ => a.done ++ [l] | _ => a.done
      late := if a.done.isEmpty then (s.lane c w l).newer (a.s.lane c w l) else a.late }

/-- Every lane that issued the word is as far from its uniform result as the lane that wrote it (R74, R76). -/
def State.lateIn (s : State) (c w stall : Nat) (late : List Shadow) (ls : List Nat) : State :=
  s.forLanes ls fun l s => s.modLane c w l fun x =>
    late.foldl (fun x e => if e.left ≤ 1 + stall then x else x.late e.reg e.old (e.left - (1 + stall))) x

/-- Runs a body in the lanes of a list, ascending, then takes the trap of those that faulted (R431); `ks` are lanes that have gone
past the word. -/
def State.runLanes (s : State) (stall : Nat) (ms : List Nat) (body : Nat → Bool → State → LaneOut × State) (ks : List Nat := []) : State :=
  let (c, w) := (s.cur.core, s.cur.slot)
  let a := ms.foldl (Acc3.lane stall c w body) { s := s, done := [], faults := [], aux := 0 }
  let u := a.s.lateIn c w stall a.late (ks ++ a.done.drop 1)
  if a.faults.isEmpty then u
  else u.takeTrap c w (Mask.ofLanes ms) (Mask.ofLanes a.done) a.faults 0 a.aux

/-- Lanes whose guard is false go past the word (R43). -/
def State.skipLanes (s : State) (stall : Nat) (ls : List Nat) : State :=
  s.forLanes ls fun l u => u.modLane s.cur.core s.cur.slot l (LaneOut.done.after stall)

/-- A word's check of the whole instance, made before any lane: a cause, with each lane's ADDR. -/
abbrev PreCheck := State → List Nat → Option (Nat × (Nat → Nat))

/-- Issues a word that acts per lane: checks, guards, faults of the sources, then the body in each lane of M. -/
def State.perLane (s : State) (i : Instr) (body : State → Nat → Nat → Nat → Bool → State → LaneOut × State)
    (pre : PreCheck := fun _ _ => none) (except : List Nat := []) : Out :=
  let (c, w) := (s.cur.core, s.cur.slot)
  let ls := s.issuing i
  match s.check i ls with
  | some (cause, detail) => .next (s.trapAll (s.checkLanes i ls cause) cause detail)
  | none =>
    let ms := ls.filter (s.inM i c w)
    let ks := ls.filter fun l => !s.inM i c w l
    let t := s.skipLanes i.stall ks
    match pre s ms with
    | some (cause, addr) => .next (t.trapAll ms cause (if cause = 0x01 then 4 else 0) addr)
    | none =>
      .next (t.runLanes i.stall ms (fun l first u =>
        match s.sourceFault c w l ((s.needs i c w l).filter fun r => !except.contains r) with
        | some (cause, aux) => (.fault cause 0 aux, u)
        | none => body s c w l first u) ks)

/-- What becomes of a warp operation: done in every lane of M, parked there, a fault of all of M, or one for each lane that the
body names. -/
inductive WarpOut
  | done
  /-- The body has moved the lanes itself. -/
  | own
  | park (p : Park)
  | fault (cause : Nat) (addr : Nat → Nat) (aux : Nat := 0)

/-- A warp operation's operands, read in one lane, that must agree in M (R160, R267). The differing lanes are marked (R434). -/
def State.disagree (_ : State) (ms : List Nat) (key : Nat → List Word) : Option (Nat × (Nat → Nat)) :=
  match ms with
  | [] => none
  | m :: _ => if ms.all fun l => key l == key m then none else some (0x06, fun l => if key l == key m then 0 else 1)

/-- The lanes of M whose sources bring a fault, with their causes, and AUX of the first (R211, R283). -/
def State.badLanes (s : State) (i : Instr) (c w : Nat) (ms : List Nat) : List LaneFault × Nat :=
  let fs := ms.filterMap fun l => (s.sourceFault c w l i.reads).map fun f => (l, f)
  (fs.map fun (l, f) => (l, f.1, 0), match fs with | (_, f) :: _ => f.2 | [] => 0)

/-- What the lanes that perform a warp operation become. -/
def WarpOut.settle (o : WarpOut) (stall c w : Nat) (rs : List Nat) (u : State) : State :=
  match o with
  | .done => u.forLanes rs fun l u => u.modLane c w l (LaneOut.done.after stall)
  | .park p => u.forLanes rs fun l u => u.modLane c w l (LaneOut.after (.park p) stall)
  | .own | .fault .. => u

/-- The trap that a warp operation's answer raises, with the lanes whose sources were bad (R211, R431). -/
def WarpOut.trap (o : WarpOut) (ms rs : List Nat) (bad : List LaneFault) (aux : Nat) (u : State) : State :=
  let (c, w) := (u.cur.core, u.cur.slot)
  match o with
  | .fault cause addr aux => u.takeTrap c w (Mask.ofLanes ms) 0 (rs.map (fun l => (l, cause, addr l)) ++ bad) 0 aux
  | _ => if bad.isEmpty then u else u.takeTrap c w (Mask.ofLanes ms) (Mask.ofLanes (rs.filter fun l => (u.lane c w l).park == .none)) bad 0 aux

/-- Issues a warp operation: once for the lanes of M, nothing if M is empty. A lane with a bad source faults alone and the others
perform (log entry 50), unless the body looks at its sources itself (`late`). -/
def State.perWarp (s : State) (i : Instr) (key : State → Nat → Nat → Nat → List Word)
    (body : State → Nat → Nat → List Nat → State → WarpOut × State) (late : Bool := false) : Out :=
  let (c, w) := (s.cur.core, s.cur.slot)
  let ls := s.issuing i
  match s.check i ls with
  | some (cause, detail) => .next (s.trapAll (s.checkLanes i ls cause) cause detail)
  | none =>
    let ms := ls.filter (s.inM i c w)
    let t := s.skipLanes i.stall (ls.filter fun l => !s.inM i c w l)
    if ms.isEmpty then .next t else
    match s.disagree ms (key s c w) with
    | some (cause, addr) => .next (t.trapAll ms cause 0 addr)
    | none =>
      let (bad, aux) := if late then ([], 0) else s.badLanes i c w ms
      let rs := ms.filter fun l => !bad.any fun f => f.1 == l
      if rs.isEmpty then .next (t.takeTrap c w (Mask.ofLanes ms) 0 bad 0 aux) else
      let (o, u) := body s c w rs t
      .next (o.trap ms rs bad aux (o.settle i.stall c w rs u))

/-- Writes a value to a destination operand in a lane, at once (R78); `nil` discards it (R47). -/
def State.put (s : State) (c w l : Nat) (first : Bool) (d : BitVec 8) (v : Word) (m : Mark := {}) (j : Nat := 0) : State :=
  match dstReg d j with
  | some r => s.result c w l first 0 r v m
  | none => s

/-- Writes a fixed-latency result (R75). -/
def State.putLat (s : State) (c w l : Nat) (first : Bool) (lat : Nat) (d : BitVec 8) (v : Word) (j : Nat := 0) : State :=
  match dstReg d j with
  | some r => s.result c w l first lat r v
  | none => s

/-- Writes a predicate (R59). -/
def State.putPred (s : State) (c w l : Nat) (lat : Nat) (p : Nat) (b : Bool) : State :=
  s.result c w l true lat (predId (p % 8)) (if b then 1 else 0)

/-- A fault found for work of a lane that has ended is dropped and counted (R165, R324). -/
def State.dropFault (s : State) (c : Nat) : State := { s with dropped := s.dropped.set c (s.dropped.get 0 c + 1) }.count 0x0A24 1

/-- Marks n registers from r on as waiting for request `id` (R78). Their poison and faults stand until the result lands. -/
def State.expect (s : State) (c w l : Nat) (first : Bool) (d : Option Nat) (n id : Nat) : State :=
  match d with
  | some r =>
    if r < 128 ∨ first then
      (List.range n).foldl (fun s j =>
        (s.setMark c w l (r + j) { s.mark c w l (r + j) with pend := id + 1, fut := none }).dropShadow c w l (r + j)) s
    else s
  | none => s

/-- Ends a lane (R324): it leaves loops, convergence, monitors and waiting lists; its registers stay, and wait for no result. -/
def State.endLane (s : State) (c w l : Nat) : State :=
  let who : LaneId := ⟨c, w, l⟩
  let out := ~~~(Mask.one l)
  let unwait := fun (q : Sem) =>
    { q with wait := q.wait.filterMap fun x => match x.who with
        | .lanes c' w' k m d =>
          if c' = c ∧ w' = w ∧ k = (s.team c).ctx * 65536 + (s.team c).nid then
            (if m &&& out = 0 then none else some { x with who := .lanes c w k (m &&& out) d })
          else some x
        | _ => some x }
  let gone := fun (k : Nat) (m : Mark) => if k / 65536 = c ∧ k % 65536 / 32 / s.share c = w ∧ k % 32 = l then { m with fut := none, pend := 0 } else m
  let s := { s with marks := s.marks.map fun (k, m) => (k, gone k m) }.modLane c w l fun x =>
    { x with ppend := [], live := false, handler := false, killed := false, held := false, park := .none, lc0 := { x.lc0 with active := false }, lc1 := { x.lc1 with active := false } }
  let s := s.modTeam c fun t =>
    { t with
      kregs := t.kregs.map fun (k, x) => (k, if x.owner == some w then { x with members := x.members &&& out, signed := x.signed &&& out, signs := x.signs.filter fun y => y.lane != l } else x)
      sems := t.sems.map fun (k, q) => (k, unwait q)
      aqWait := t.aqWait.map fun (k, q) => (k, (q.map fun x => if x.slot = w then { x with lanes := x.lanes &&& out } else x).filter fun x => x.lanes != 0)
      cross := t.cross.map fun x => if x.slot = w then { x with arr := x.arr.map fun y => if y.lane = l then { y with part := false } else y } else x }
  let here := (s.team c).ctx * 65536 + (s.team c).nid
  let unpal := fun (q : List PalWait) => q.filter fun x => !(x.who == who && x.team == here)
  { s with
    pal := s.pal.map fun (k, p) => (k, { p with getWait := unpal p.getWait, takeWait := p.takeWait.map fun (j, q) => (j, unpal q) })
    mons := s.mons.filter (fun (_, m) => !(m.who == who && m.team == here)), psems := s.psems.map fun (k, q) => (k, unwait q) }

/-- A lane named by `kill`: ends, or ends at its `tret` while it is in handler mode (R324). -/
def State.killLane (s : State) (c w l : Nat) : State :=
  let x := s.lane c w l
  if !x.live then s else if x.handler then s.setLane c w l { x with killed := true } else s.endLane c w l

/-- Returns from a trap in the lanes of M (R435): DONE and PC[l] come from the record in memory. -/
def State.trapReturn (s : State) (c w : Nat) (ms : List Nat) : State :=
  match s.xlate (some c) (s.team c).ctx false (.ld 8) (s.trecOf c w) 8 with
  | (s, .error cause) => s.takeTrap c w (Mask.ofLanes ms) 0 (ms.map fun l => (l, cause, s.trecOf c w)) 0 0
  | (s, .ok (x, _)) =>
    let word := fun (o : Nat) => leNat (s.bytes (s.place (x.add o)) 8)
    let done : Mask := BitVec.ofNat 32 (word 16 / 2 ^ 32)
    let back := fun (l : Nat) (s : State) =>
      if (s.lane c w l).killed then s.endLane c w l
      else
        let p : Word := BitVec.ofNat 64 (word (64 + 8 * l))
        s.modLane c w l fun y =>
          let y := { y with handler := false, prev := y.pc, pc := p }
          if done.has l && (s.warp c w).recPcs.find? l == some p then y.next else y
    let s := s.forLanes ms back
    -- the last handler lane's return releases the held lanes (R433)
    if (List.range 32).any fun l => (s.lane c w l).handler then s
    else s.forLanes (List.range 32) fun l s => s.modLane c w l fun y => { y with held := false }

end Sys2Proof.Machine
end

