-- ==== Sys2Proof/Machine/Alu.lean ====
section
/-! DEFINITION. Groups 0 to 4 and the pair form: computation in registers (R113-R133, R69-R73). -/

namespace Sys2Proof.Machine

/-- A lane's body that computes one word into D from the state at issue. -/
abbrev LaneBody := State → Nat → Nat → Nat → Bool → State → LaneOut × State

/-- D as it stands, for `.lo` (R110). -/
def State.oldD (s : State) (c w l : Nat) (d : BitVec 8) : Word := s.op64 c w l d

/-- A body that writes D with a latency. -/
def toD (lat : Nat) (d : BitVec 8) (v : State → Nat → Nat → Nat → Word) : LaneBody :=
  fun s0 c w l first s => (.done, s.putLat c w l first lat d (v s0 c w l))

/-- One operand, per subelement. -/
def un (f : Alu) (lat : Nat) (g : Nat → Nat) : LaneBody :=
  toD lat f.d fun s c w l =>
    let a := s.opA c w l f f.ty
    mapE f.ty.width f.lo (s.oldD c w l f.d) fun e => g (getE a f.ty.width e)

/-- Two operands, per subelement. -/
def bin (f : Alu) (lat : Nat) (g : Nat → Nat → Nat) : LaneBody :=
  toD lat f.d fun s c w l =>
    let a := s.opA c w l f f.ty
    let b := s.opnd c w l f.ty f.b
    mapE f.ty.width f.lo (s.oldD c w l f.d) fun e => g (getE a f.ty.width e) (getE b f.ty.width e)

/-- Three operands, per subelement. -/
def tern (f : Alu) (lat : Nat) (g : Nat → Nat → Nat → Nat) : LaneBody :=
  toD lat f.d fun s c w l =>
    let a := s.opnd c w l f.ty f.a
    let b := s.opnd c w l f.ty f.b
    let k := s.opnd c w l f.ty f.c
    mapE f.ty.width f.lo (s.oldD c w l f.d) fun e =>
      g (getE a f.ty.width e) (getE b f.ty.width e) (getE k f.ty.width e)

/-- An immediate form: IMM16 sign-extended or unsigned, at the subelement width (R62, R118). -/
def immOp (f : Imm) (lat : Nat) (signed : Bool) (g : Nat → Nat → Nat) : LaneBody :=
  let w := f.ty.width
  let b := if signed then intCode w (intVal true 16 f.imm.toNat) else f.imm.toNat
  toD lat f.d fun s c v l =>
    let a := s.opnd c v l f.ty f.a
    mapE w false 0 fun e => g (getE a w e) b

/-- Signed and unsigned integer operations on codes at a type. -/
def addI (t : Ty) (sat : Bool) (a b : Nat) : Nat := putInt sat t.signed t.width (intVal t.signed t.width a + intVal t.signed t.width b)
def subI (t : Ty) (sat : Bool) (a b : Nat) : Nat := putInt sat t.signed t.width (intVal t.signed t.width a - intVal t.signed t.width b)
def mulI (t : Ty) (sat : Bool) (a b : Nat) : Nat := putInt sat t.signed t.width (intVal t.signed t.width a * intVal t.signed t.width b)

-- Group 0 (R113-R118)

def execAdd (f : Alu) (s : State) : Out := s.perLane (.add f) (bin f 4 (addI f.ty f.sat))
def execSub (f : Alu) (s : State) : Out := s.perLane (.sub f) (bin f 4 (subI f.ty f.sat))
def execMul (f : Alu) (s : State) : Out := s.perLane (.mul f) (bin f (mulLat f.ty) (mulI f.ty f.sat))

/-- Upper half of the exact product (R113). -/
def execMulh (f : Alu) (s : State) : Out :=
  s.perLane (.mulh f) (bin f (mulLat f.ty) fun a b =>
    intCode f.ty.width (intVal f.ty.signed f.ty.width a * intVal f.ty.signed f.ty.width b / 2 ^ f.ty.width))

def execMad (f : Alu) (s : State) : Out :=
  s.perLane (.mad f) (tern f (mulLat f.ty) fun a b k =>
    let v := intVal f.ty.signed f.ty.width
    putInt f.sat f.ty.signed f.ty.width (v a * v b + v k))

def execDiv (f : Alu) (s : State) : Out := s.perLane (.div f) (bin f 0 (divE f.ty.signed f.ty.width))
def execRem (f : Alu) (s : State) : Out := s.perLane (.rem f) (bin f 0 (remE f.ty.signed f.ty.width))
def execMin (f : Alu) (s : State) : Out := s.perLane (.min f) (bin f 4 (minE f.ty.signed f.ty.width))
def execMax (f : Alu) (s : State) : Out := s.perLane (.max f) (bin f 4 (maxE f.ty.signed f.ty.width))

def execAbs (f : Alu) (s : State) : Out :=
  s.perLane (.abs f) (un f 4 fun a => putInt f.sat f.ty.signed f.ty.width (intVal f.ty.signed f.ty.width a).natAbs)

def execNeg (f : Alu) (s : State) : Out :=
  s.perLane (.neg f) (un f 4 fun a => putInt f.sat f.ty.signed f.ty.width (-(intVal f.ty.signed f.ty.width a)))

/-- Sum or difference with carry or borrow in D and D+1 (R116). -/
def carry (f : Alu) (g : Nat → Nat → Nat → Nat × Nat) : LaneBody :=
  fun s c w l first t =>
    let n := f.ty.width
    let a := s.opnd c w l f.ty f.a
    let b := s.opnd c w l f.ty f.b
    let k := s.opnd c w l f.ty f.c
    let r := fun e => g (getE a n e) (getE b n e) (getE k n e % 2)
    let t := t.putLat c w l first 4 f.d (mapE n f.lo (s.oldD c w l f.d) fun e => (r e).1)
    (.done, t.putLat c w l first 4 f.d (mapE n f.lo (s.opndAt c w l f.d 1) fun e => (r e).2) 1)

def execAddc (f : Alu) (s : State) : Out :=
  s.perLane (.addc f) (carry f fun a b ci =>
    ((a + b + ci) % 2 ^ f.ty.width, if 2 ^ f.ty.width ≤ a + b + ci then 1 else 0))

def execSubb (f : Alu) (s : State) : Out :=
  s.perLane (.subb f) (carry f fun a b ci =>
    (intCode f.ty.width ((a : Int) - b - ci), if a < b + ci then 1 else 0))

def execSad (f : Alu) (s : State) : Out :=
  s.perLane (.sad f) (toD 4 f.d fun s c w l =>
    let n := f.ty.width
    let a := s.opnd c w l f.ty f.a
    let b := s.opnd c w l f.ty f.b
    let v := intVal f.ty.signed n
    let sum := (List.range (if f.lo then 1 else f.ty.count)).foldl (fun x e => x + (v (getE a n e) - v (getE b n e)).natAbs) 0
    BitVec.ofNat 64 ((s.op64 c w l f.c).toNat + sum))

def execLea (f : Alu) (s : State) : Out :=
  s.perLane (.lea f) (bin f 4 fun a b => (a + b * 2 ^ f.opx.toNat) % 2 ^ 64)

/-- `dot4` and `dot2` with elements of v bits (R117). -/
def dot (f : Alu) (v : Nat) : LaneBody :=
  toD (mulLat f.ty) f.d fun s c w l =>
    let n := f.ty.width
    let a := s.opnd c w l f.ty f.a
    let b := s.opnd c w l f.ty f.b
    let k := s.opnd c w l f.ty f.c
    mapE n f.lo (s.oldD c w l f.d) fun j =>
      putInt f.sat f.ty.signed n (intVal f.ty.signed n (getE k n j) + dotE f.ty.signed n v a b j)

def execDot4 (f : Alu) (s : State) : Out := s.perLane (.dot4 f) (dot f 8)
def execDot2 (f : Alu) (s : State) : Out := s.perLane (.dot2 f) (dot f 16)

def execAddImm (f : Imm) (s : State) : Out := s.perLane (.addImm f) (immOp f 4 true (addI f.ty false))
def execSubImm (f : Imm) (s : State) : Out := s.perLane (.subImm f) (immOp f 4 true (subI f.ty false))
def execMulImm (f : Imm) (s : State) : Out := s.perLane (.mulImm f) (immOp f (mulLat f.ty) true (mulI f.ty false))
def execMinImm (f : Imm) (s : State) : Out := s.perLane (.minImm f) (immOp f 4 true (minE f.ty.signed f.ty.width))
def execMaxImm (f : Imm) (s : State) : Out := s.perLane (.maxImm f) (immOp f 4 true (maxE f.ty.signed f.ty.width))

-- Group 1 (R119-R122)

def execAnd (f : Alu) (s : State) : Out := s.perLane (.and f) (bin f 4 fun a b => a &&& b)
def execOr (f : Alu) (s : State) : Out := s.perLane (.or f) (bin f 4 fun a b => a ||| b)
def execXor (f : Alu) (s : State) : Out := s.perLane (.xor f) (bin f 4 fun a b => a ^^^ b)
def execAndn (f : Alu) (s : State) : Out := s.perLane (.andn f) (bin f 4 (andnE f.ty.width))
def execNot (f : Alu) (s : State) : Out := s.perLane (.not f) (un f 4 (notE f.ty.width))
def execShl (f : Alu) (s : State) : Out := s.perLane (.shl f) (bin f 4 (shlE f.ty.width))
def execShr (f : Alu) (s : State) : Out := s.perLane (.shr f) (bin f 4 (shrE f.ty.width))
def execSar (f : Alu) (s : State) : Out := s.perLane (.sar f) (bin f 4 (sarE f.ty.width))
def execRot (f : Alu) (s : State) : Out := s.perLane (.rot f) (bin f 4 (rotE f.ty.width))
def execPopc (f : Alu) (s : State) : Out := s.perLane (.popc f) (un f 4 fun a => popE a f.ty.width)
def execClz (f : Alu) (s : State) : Out := s.perLane (.clz f) (un f 4 (clzE f.ty.width))
def execCtz (f : Alu) (s : State) : Out := s.perLane (.ctz f) (un f 4 fun a => ctzE a f.ty.width)
def execBrev (f : Alu) (s : State) : Out := s.perLane (.brev f) (un f 4 fun a => brevE a f.ty.width)
def execBfx (f : Alu) (s : State) : Out := s.perLane (.bfx f) (bin f 4 (bfxE f.ty.signed f.ty.width))
def execBfi (f : Alu) (s : State) : Out := s.perLane (.bfi f) (tern f 4 (bfiE f.ty.width))

def execSel (f : Alu) (s : State) : Out :=
  s.perLane (.sel f) (toD 4 f.d fun s c w l =>
    let a := s.opnd c w l f.ty f.a
    let b := s.opnd c w l f.ty f.b
    mapE f.ty.width f.lo (s.oldD c w l f.d) fun e =>
      getE (if s.rdPred c w l f.c.toNat then a else b) f.ty.width e)

/-- `mov`, and `mov.b128` of A and A+1 (R119). -/
def execMov (f : Alu) (s : State) : Out :=
  s.perLane (.mov f)
    (if f.ty = .b128 then fun s c w l first t =>
      let t' := t.putLat c w l first 4 f.d (s.opnd c w l .b128 f.a)
      (.done, t'.putLat c w l first 4 f.d (s.opndAt c w l f.a 1) 1)
    else un f 4 id)

def execMovw (f : Imm) (s : State) : Out :=
  s.perLane (.movw f) (toD 4 f.d fun s c w l => setE (s.oldD c w l f.d) 16 f.a.toNat f.imm.toNat)

def execAndImm (f : Imm) (s : State) : Out := s.perLane (.andImm f) (immOp f 4 false fun a b => a &&& b)
def execOrImm (f : Imm) (s : State) : Out := s.perLane (.orImm f) (immOp f 4 false fun a b => a ||| b)
def execXorImm (f : Imm) (s : State) : Out := s.perLane (.xorImm f) (immOp f 4 false fun a b => a ^^^ b)
def execShlImm (f : Imm) (s : State) : Out := s.perLane (.shlImm f) (immOp f 4 true (shlE f.ty.width))
def execShrImm (f : Imm) (s : State) : Out := s.perLane (.shrImm f) (immOp f 4 true (shrE f.ty.width))
def execSarImm (f : Imm) (s : State) : Out := s.perLane (.sarImm f) (immOp f 4 true (sarE f.ty.width))
def execRotImm (f : Imm) (s : State) : Out := s.perLane (.rotImm f) (immOp f 4 true (rotE f.ty.width))

-- Group 2 (R123, R124)

/-- A body that writes predicate D. -/
def toP (lat : Nat) (d : BitVec 8) (v : State → Nat → Nat → Nat → Bool) : LaneBody :=
  fun s0 c w l _ s => (.done, s.putPred c w l lat d.toNat (v s0 c w l))

def compare (f : Alu) (g : Nat → Nat → Bool) : LaneBody :=
  toP 4 f.d fun s c w l =>
    let a := s.opA c w l f f.ty
    let b := s.opnd c w l f.ty f.b
    allE f.ty.width f.lo fun e => g (getE a f.ty.width e) (getE b f.ty.width e)

def execCmp (f : Alu) (s : State) : Out := s.perLane (.cmp f) (compare f (cmpE f.opx.toNat f.ty.signed f.ty.width))
def execFcmp (f : Alu) (s : State) : Out := s.perLane (.fcmp f) (compare f (fcmpE f.opx.toNat (tyFlt f.ty)))

def execPlop (f : Alu) (s : State) : Out :=
  s.perLane (.plop f) (toP 4 f.d fun s c w l => plopOp f.opx.toNat (s.rdPred c w l f.a.toNat) (s.rdPred c w l f.b.toNat))

def execPmov (f : Alu) (s : State) : Out :=
  s.perLane (.pmov f) (toP 4 f.d fun s c w l => pmovOp f.opx.toNat (s.rdPred c w l f.a.toNat))

-- Groups 3 and 4 (R125-R133)

/-- A floating computation of subelements of width n: the generator steps once for each under sr (R98, R125). -/
def fltBody (f : Alu) (lat n : Nat) (g : State → Nat → Nat → Nat → Nat → Nat → Nat) : LaneBody :=
  fun s0 c w l first s =>
    let r := mapSr n f.lo (s0.oldD c w l f.d) (f.rm == .sr) (s0.lane c w l).gen (g s0 c w l)
    let s := s.modLane c w l fun x => { x with gen := r.2 }
    (.done, s.putLat c w l first lat f.d r.1)

/-- One operand: exact value, then RND (R125). -/
def flt1 (f : Alu) (lat : Nat) (g : FV → Nat → XV) : LaneBody :=
  fltBody f lat f.ty.width fun s c w l u e =>
    (tyFlt f.ty).round f.rm f.sat u (g ((tyFlt f.ty).val (getE (s.opA c w l f f.ty) f.ty.width e)) u)

/-- Two operands. -/
def flt2 (f : Alu) (lat : Nat) (g : FV → FV → XV) : LaneBody :=
  fltBody f lat f.ty.width fun s c w l u e =>
    let v := fun x => (tyFlt f.ty).val (getE x f.ty.width e)
    (tyFlt f.ty).round f.rm f.sat u (g (v (s.opA c w l f f.ty)) (v (s.opnd c w l f.ty f.b)))

def execFadd (f : Alu) (s : State) : Out :=
  s.perLane (.fadd f) (flt2 f (fltLat f.ty) fun a b => (sumFV f.rm [a, b]).x)
def execFsub (f : Alu) (s : State) : Out :=
  s.perLane (.fsub f) (flt2 f (fltLat f.ty) fun a b => (sumFV f.rm [a, b.neg]).x)
def execFmul (f : Alu) (s : State) : Out :=
  s.perLane (.fmul f) (flt2 f (fltLat f.ty) fun a b => (a.mul b).x)

def execFma (f : Alu) (s : State) : Out :=
  s.perLane (.fma f) (fltBody f (fltLat f.ty) f.ty.width fun s c w l u e =>
    let v := fun x => (tyFlt f.ty).val (getE (s.opnd c w l f.ty x) f.ty.width e)
    (tyFlt f.ty).round f.rm f.sat u (sumFV f.rm [(v f.a).mul (v f.b), v f.c]).x)

def execFmin (f : Alu) (s : State) : Out := s.perLane (.fmin f) (bin f (fltLat f.ty) ((tyFlt f.ty).minmax false))
def execFmax (f : Alu) (s : State) : Out := s.perLane (.fmax f) (bin f (fltLat f.ty) ((tyFlt f.ty).minmax true))
def execFcls (f : Alu) (s : State) : Out := s.perLane (.fcls f) (un f (fltLat f.ty) (tyFlt f.ty).cls)

/-- `fscale`: B is a signed integer at the subelement width (R127). -/
def execFscale (f : Alu) (s : State) : Out :=
  s.perLane (.fscale f) (fltBody f (fltLat f.ty) f.ty.width fun s c w l u e =>
    let n := f.ty.width
    let b := intVal true n (getE (s.opnd c w l (intTy f.ty) f.b) n e)
    (tyFlt f.ty).round f.rm f.sat u (((tyFlt f.ty).val (getE (s.opA c w l f f.ty) n e)).scale b))

def execFract (f : Alu) (s : State) : Out := s.perLane (.fract f) (flt1 f (fltLat f.ty) fun a _ => a.fract)

/-- `frnd`: the rounding is to the integer grid; the result is exact in the type (R127). -/
def execFrnd (f : Alu) (s : State) : Out :=
  s.perLane (.frnd f) (fltBody f (fltLat f.ty) f.ty.width fun s c w l u e =>
    let a := (tyFlt f.ty).val (getE (s.opA c w l f f.ty) f.ty.width e)
    (tyFlt f.ty).round .rne f.sat 0 (a.rint f.rm u))

/-- `fdot2`: two products and an f32 addend into f32 words (R128). -/
def execFdot2 (f : Alu) (s : State) : Out :=
  s.perLane (.fdot2 f) (fltBody f 4 32 fun s c w l u j =>
    let v := fun x i => (tyFlt f.ty).val (getE (s.opnd c w l f.ty x) 16 i)
    let k := f32.val (getE (s.opnd c w l .f32 f.c) 32 j)
    f32.round f.rm f.sat u (sumFV f.rm [k, (v f.a (2 * j)).mul (v f.b (2 * j)), (v f.a (2 * j + 1)).mul (v f.b (2 * j + 1))]).x)

/-- `cvt` (R129). -/
def execCvt (f : Alu) (s : State) : Out :=
  s.perLane (.cvt f) fun s0 c w l first s =>
    let src := f.cvtSrc.getD .i8
    let r := cvtWord src f.ty (f.opx.getLsbD 0) (f.opx.getLsbD 1) f.hi f.lo f.rm f.sat (s0.lane c w l).gen
      (s0.cvtA c w l src (f.opx.getLsbD 0) (f.opx.getLsbD 1) f.a) (s0.oldD c w l f.d)
    let s := s.modLane c w l fun x => { x with gen := r.2 }
    (.done, s.putLat c w l first (if src = .f64 ∨ f.ty = .f64 then 6 else 4) f.d r.1)

def execFrcp (f : Alu) (s : State) : Out := s.perLane (.frcp f) (flt1 f 0 fun a _ => a.rcp)
def execFrsq (f : Alu) (s : State) : Out := s.perLane (.frsq f) (flt1 f 0 fun a _ => a.rsqrt)
def execFsqrt (f : Alu) (s : State) : Out := s.perLane (.fsqrt f) (flt1 f 0 fun a _ => a.sqrt)
def execFdiv (f : Alu) (s : State) : Out := s.perLane (.fdiv f) (flt2 f 0 FV.div)
def execFexp2 (f : Alu) (s : State) : Out := s.perLane (.fexp2 f) (flt1 f 0 fun a _ => a.exp2)
def execFlog2 (f : Alu) (s : State) : Out := s.perLane (.flog2 f) (flt1 f 0 fun a _ => a.log2)
def execFsin (f : Alu) (s : State) : Out := s.perLane (.fsin f) (flt1 f 0 fun a _ => a.sincos 0)
def execFcos (f : Alu) (s : State) : Out := s.perLane (.fcos f) (flt1 f 0 fun a _ => a.sincos 1)

/-- `xfm` (R133). -/
def execXfm (f : Alu) (s : State) : Out :=
  s.perLane (.xfm f) fun s0 c w l first s =>
    let p := fun j => f64.val (s0.opndAt c w l f.a j).toNat
    let o := fun j => f64.val (s0.opndAt c w l f.b j).toNat
    let q := fun i j => f32.val (getE (s0.opndAt c w l f.b (3 + (4 * i + j) / 2)) 32 ((4 * i + j) % 2))
    let s := s.putLat c w l first 0 f.d (wordE 32 [xfmRow p o q 0, xfmRow p o q 1])
    (.done, s.putLat c w l first 0 f.d (wordE 32 [xfmRow p o q 2, 0x3F800000]) 1)

-- Pairs (R69-R73)

/-- A half's operation on one subelement at its type (R71): no rounding suffix, no saturation. -/
def halfOp (o : HOp) (t : Ty) (a b : Nat) : Nat :=
  let w := t.width
  let sg := t.signed
  let fl := tyFlt t
  match o with
  | .add => addI t false a b
  | .sub => subI t false a b
  | .mul => mulI t false a b
  | .min => minE sg w a b
  | .max => maxE sg w a b
  | .and => a &&& b
  | .or => a ||| b
  | .xor => a ^^^ b
  | .andn => andnE w a b
  | .shl => shlE w a b
  | .shr => shrE w a b
  | .sar => sarE w a b
  | .mov => b
  | .fadd => fl.round .rne false 0 (sumFV .rne [fl.val a, fl.val b]).x
  | .fsub => fl.round .rne false 0 (sumFV .rne [fl.val a, (fl.val b).neg]).x
  | .fmul => fl.round .rne false 0 ((fl.val a).mul (fl.val b)).x
  | .fmin => fl.minmax false a b
  | .fmax => fl.minmax true a b

/-- S of a half: a register, or imm8 in every subelement (R71). -/
def State.halfS (s : State) (c w l : Nat) (h : Half) : Word :=
  if h.imm then repE h.ty.ty.width (constCode h.ty.ty (intVal true 8 h.s.toNat)) else s.rd c w l h.s.toNat

/-- The value a half writes. -/
def State.halfVal (s : State) (c w l : Nat) (h : Half) (o : HOp) : Word :=
  let n := h.ty.ty.width
  mapE n false 0 fun e => halfOp o h.ty.ty (getE (s.rd c w l h.d.toNat) n e) (getE (s.halfS c w l h) n e)

/-- Both halves read at issue, then write under their own guards (R73). -/
def pairBody (f : Pair) (o : HOp) : LaneBody := fun s0 c w l _ s =>
  let s := if s0.guard c w l (f.h1.gp, f.h1.gneg) then s.result c w l true (f.h1.lat o) f.h1.d.toNat (s0.halfVal c w l f.h1 o) else s
  (.done, if s0.guard c w l (f.h2.gp, f.h2.gneg) then s.result c w l true (f.h2.lat f.op2) f.h2.d.toNat (s0.halfVal c w l f.h2 f.op2) else s)

def execPairAdd (f : Pair) (s : State) : Out := s.perLane (.pairAdd f) (pairBody f .add)
def execPairSub (f : Pair) (s : State) : Out := s.perLane (.pairSub f) (pairBody f .sub)
def execPairMul (f : Pair) (s : State) : Out := s.perLane (.pairMul f) (pairBody f .mul)
def execPairMin (f : Pair) (s : State) : Out := s.perLane (.pairMin f) (pairBody f .min)
def execPairMax (f : Pair) (s : State) : Out := s.perLane (.pairMax f) (pairBody f .max)
def execPairAnd (f : Pair) (s : State) : Out := s.perLane (.pairAnd f) (pairBody f .and)
def execPairOr (f : Pair) (s : State) : Out := s.perLane (.pairOr f) (pairBody f .or)
def execPairXor (f : Pair) (s : State) : Out := s.perLane (.pairXor f) (pairBody f .xor)
def execPairAndn (f : Pair) (s : State) : Out := s.perLane (.pairAndn f) (pairBody f .andn)
def execPairShl (f : Pair) (s : State) : Out := s.perLane (.pairShl f) (pairBody f .shl)
def execPairShr (f : Pair) (s : State) : Out := s.perLane (.pairShr f) (pairBody f .shr)
def execPairSar (f : Pair) (s : State) : Out := s.perLane (.pairSar f) (pairBody f .sar)
def execPairMov (f : Pair) (s : State) : Out := s.perLane (.pairMov f) (pairBody f .mov)
def execPairFadd (f : Pair) (s : State) : Out := s.perLane (.pairFadd f) (pairBody f .fadd)
def execPairFsub (f : Pair) (s : State) : Out := s.perLane (.pairFsub f) (pairBody f .fsub)
def execPairFmul (f : Pair) (s : State) : Out := s.perLane (.pairFmul f) (pairBody f .fmul)
def execPairFmin (f : Pair) (s : State) : Out := s.perLane (.pairFmin f) (pairBody f .fmin)
def execPairFmax (f : Pair) (s : State) : Out := s.perLane (.pairFmax f) (pairBody f .fmax)

end Sys2Proof.Machine
end

