-- ==== Sys2Proof/Machine/Cross.lean ====
section
/-! DEFINITION. Group 5: cross-lane instances with their member masks, and the instructions that read or write one lane's
register (R134-R142). -/

namespace Sys2Proof.Machine

/-- An operand as it stands in a lane after all the words it has issued (R142). -/
def State.newest (s : State) (c w l : Nat) (t : Ty) (x : BitVec 8) : Word :=
  match Opnd.ofByte x with
  | .v n => s.reg c w l n
  | _ => s.opnd c w l t x

/-- The fault of a register operand in a lane, with no source waited for: poison, or a fault kept for a reader. -/
def State.operandFault (s : State) (c w l : Nat) (x : BitVec 8) : Nat :=
  match dstReg x with
  | some r => match s.sourceFault c w l [r] with | some (f, _) => f | none => 0
  | none => 0

/-- A lane's register awaits a variable-latency write, which a reader of it waits for (R78). -/
def State.pendingIn (s : State) (c w l : Nat) (x : BitVec 8) : Bool :=
  (s.lane c w l).live && match dstReg x with
  | some r => (s.mark c w l r).pend != 0 || (s.mark c w l r).fut.isSome
  | none => false

/-- Combination of two codes by `redux` and `scan` (R139). -/
def combineE (t : Ty) (rm : Rm) (sat : Bool) (op a b : Nat) : Nat :=
  match op with
  | 0 => (tyFlt t).round rm sat 0 (sumFV rm [(tyFlt t).val a, (tyFlt t).val b]).x
  | 1 => if t.isI then minE t.signed t.width a b else (tyFlt t).minmax false a b
  | 2 => if t.isI then maxE t.signed t.width a b else (tyFlt t).minmax true a b
  | 3 => a &&& b
  | 4 => a ||| b
  | _ => a ^^^ b

/-- One stage of the tree over lane positions; a position without a member is skipped (R139). -/
def treeStage (f : Nat → Nat → Nat) : List (Option Nat) → List (Option Nat)
  | x :: y :: t =>
    (match x, y with
    | some a, some b => some (f a b)
    | some a, none => some a
    | none, y => y) :: treeStage f t
  | t => t

/-- A lone contribution as a result: a NaN is canonical (R95), and under `.sat` an infinity is the greatest finite value (R125). -/
def canonE (t : Ty) (sat : Bool) (a : Nat) : Nat :=
  if t.isI then a else
  match (tyFlt t).val a with
  | .nan => (tyFlt t).nanCode
  | .inf s => (tyFlt t).infinite sat s
  | .fin .. => a

/-- `redux` over one subelement: codes by lane position, none where no member stands. -/
def reduxE (t : Ty) (rm : Rm) (sat : Bool) (op : Nat) (xs : List (Option Nat)) : Nat :=
  if t.isI ∧ op = 0 then putInt sat t.signed t.width (((xs.filterMap id).map (intVal t.signed t.width)).foldl (· + ·) 0)
  else
    let f := combineE t rm sat op
    match treeStage f (treeStage f (treeStage f (treeStage f (treeStage f xs)))) with
    | some a :: _ => canonE t sat a
    | _ => 0

/-- `scan` over one subelement: the codes of the members up to a lane, ascending. -/
def scanE (t : Ty) (rm : Rm) (sat : Bool) (op : Nat) (xs : List Nat) : Nat :=
  if t.isI ∧ op = 0 then putInt sat t.signed t.width ((xs.map (intVal t.signed t.width)).foldl (· + ·) 0)
  else match xs with
    | [] => 0
    | a :: t' => canonE t sat (t'.foldl (combineE t rm sat op) a)

/-- Source subelement of `shfl` (R137), none where the lane keeps its own value. -/
def shflSource (mode n i b : Nat) : Option Nat :=
  match mode with
  | 0 => some (b % (32 * n))
  | 1 => if b ≤ i then some (i - b) else none
  | 2 => if i + b < 32 * n then some (i + b) else none
  | _ => if i ^^^ b < 32 * n then some (i ^^^ b) else none

/-- A lane's own A and B, as it reads them at issue (R76). -/
def State.brings (s : State) (i : Instr) (c w l : Nat) : Word × Word :=
  match i with
  | .shfl f => (s.opnd c w l f.ty f.a, s.opnd c w l (intTy f.ty) f.b)
  | .vote f => (if s.rdPred c w l f.a.toNat then 1 else 0, 0)
  | .redux f | .scan f => (s.opnd c w l f.ty f.a, 0)
  | _ => (0, 0)

/-- What a participant contributes: its register after every word that it has issued (R142). -/
def State.gives (s : State) (i : Instr) (c w l : Nat) : Word :=
  match i with
  | .shfl f | .redux f | .scan f => s.newest c w l f.ty f.a
  | .vote f => if (s.lane c w l).pred f.a.toNat then 1 else 0
  | _ => 0

/-- What a member contributes that does not execute the word: its newest register, or false to a vote (R136, R142). -/
def State.givesIdle (s : State) (i : Instr) (c w l : Nat) : Word :=
  match i with
  | .vote _ => 0
  | i => s.gives i c w l

/-- The result for one participant, from its own operands and the contributions by member lane; its own subelements are those that
it reads at issue. -/
def crossResult (i : Instr) (l : Nat) (a b : Word) (con : Tab Word) : Word :=
  match i with
  | .shfl f =>
    let w := f.ty.width
    let n := 64 / w
    mapE w false 0 fun e =>
      match shflSource f.opx.toNat n (l * n + e) (getE b w e) with
      | none => getE a w e
      | some j => match con.find? (j / n) with
        | some x => getE (if j / n = l then a else x) w (j % n)
        | none => 0
  | .vote f =>
    if f.opx = 3 then (Mask.ofLanes ((con.filter fun (_, x) => x != 0).map (·.1))).setWidth 64
    else if voteOp f.opx.toNat (con.map fun (_, x) => x != 0) then 1 else 0
  | .redux f =>
    mapE f.ty.width false 0 fun e =>
      reduxE f.ty f.rm f.sat f.opx.toNat ((List.range 32).map fun m => (con.find? m).map (getE · f.ty.width e))
  | .scan f =>
    let incl := f.opx != 6
    mapE f.ty.width false 0 fun e =>
      scanE f.ty f.rm f.sat (if incl then f.opx.toNat else 0)
        ((con.filter fun (m, _) => decide (m < l) || (incl && m == l)).map fun (_, x) => getE x f.ty.width e)
  | _ => 0

/-- Writes a participant's result. -/
def State.putCross (s : State) (i : Instr) (c w l : Nat) (first : Bool) (v : Word) : State :=
  match i with
  | .vote f => if f.opx = 3 then s.put c w l first f.d v else s.putPred c w l 0 f.d.toNat (v != 0)
  | .shfl f | .redux f | .scan f => s.put c w l first f.d v
  | _ => s

/-- Writes the results of participants, ascending. -/
def State.putAll (s : State) (i : Instr) (c w : Nat) (ps : List (Nat × Word × Word)) (con : Tab Word) : State :=
  (ps.foldl (fun (acc : State × Bool) (l, a, b) =>
    (acc.1.putCross i c w l acc.2 (crossResult i l a b con), false)) (s, true)).1

/-- A trap for lanes that wait: each stands at its word, unparked, when the trap is taken. -/
def State.trapParked (s : State) (c w : Nat) (word : Word) (lbp : Bool) (ls : List Nat) (cause detail : Nat)
    (addr : Nat → Nat := fun _ => 0) (diag : List Nat := []) : State :=
  if ls.isEmpty then s else
  let s := s.forLanes ls fun l s => s.modLane c w l fun x => { x with park := .none, since := 0 }
  let s := { s with cur := { s.cur with core := c, slot := w, word := word, lbp := lbp } }
  s.takeTrap c w (Mask.ofLanes ls) 0 (ls.map fun l => (l, cause, addr l)) detail 0 diag

/-- Every member of an instance has arrived or ended (R136). -/
def State.crossReady (s : State) (c : Nat) (x : Cross) : Bool :=
  x.members.lanes.all fun m => x.arr.any (fun y => y.lane == m) || !(s.lane c x.slot m).live

/-- Arrived lanes that are no participants go on with no result (R136). -/
def State.crossRelease (s : State) (c : Nat) (x : Cross) : State :=
  s.forLanes ((x.arr.filter fun y => !y.part).map (·.lane)) fun l s =>
    s.modLane c x.slot l fun y => if y.live && y.park == .cross then y.resume else y

/-- An instance performs (R136): its results, or the poison fault of every participant. -/
def State.crossPerform (s : State) (c : Nat) (x : Cross) : State :=
  let w := x.slot
  let con : Tab Word := x.members.lanes.map fun m =>
    match x.arr.find? fun y => y.lane == m with
    | some y => (m, match x.i with | .vote _ => if (s.lane c w m).live then y.gives else 0 | _ => y.gives)
    | none => (m, s.givesIdle x.i c w m)
  let late := (x.members.lanes.filter fun m => !x.arr.any fun y => y.lane == m).map fun m =>
    match x.i with | .shfl f | .redux f | .scan f => s.operandFault c w m f.a | _ => 0
  let faults := (x.arr.map (·.fault) ++ late).filter (· != 0)
  let ps := x.arr.filter (·.part)
  let s := s.crossRelease c x
  match faults with
  | f :: _ => s.trapParked c w x.word x.lbp (Mask.ofLanes (ps.map (·.lane))).lanes f 0
  | [] =>
    let ps := (List.range 32).filterMap fun l => ps.find? fun y => y.lane == l
    let s := s.putAll x.i c w (ps.map fun y => (y.lane, y.a, y.b)) con
    s.forLanes (ps.map (·.lane)) fun l s => s.modLane c w l (·.resume)

/-- Performs the instances of a core that are complete. -/
def State.settleCross (s : State) (c : Nat) : State :=
  (s.team c).cross.foldl (fun s x =>
    if s.crossReady c x then
      (s.modTeam c fun t => { t with cross := t.cross.filter fun y => !(y.slot == x.slot && y.pc == x.pc) }).crossPerform c x
    else s) s

/-- Issues `shfl`, `vote`, `redux` or `scan` (R135, R136); C holds the member mask. -/
def State.crossIssue (s : State) (i : Instr) (C : BitVec 8) : Out :=
  let (c, w) := (s.cur.core, s.cur.slot)
  let ls := s.issuing i
  match s.check i ls with
  | some (cause, detail) => .next (s.trapAll ls cause detail)
  | none =>
    let ms := ls.filter (s.inM i c w)
    let mask : Mask := (s.op64 c w (ls.headD 0) C).setWidth 32
    let fault := fun l => match s.sourceFault c w l i.reads with | some (f, _) => f | none => 0
    let idle := ls.filter fun l => !s.inM i c w l
    let pc := (s.lane c w (ls.headD 0)).pc
    let old := (s.team c).cross.find? fun x => x.slot == w && x.pc == pc
    if mask = 0 ∧ old.isNone then
      let t := s.skipLanes i.stall idle
      match (ms.map fault).filter (· != 0) with
      | f :: _ => .next (t.trapAll ms f 0)
      | [] =>
        let u := t.putAll i c w (ms.map fun l => (l, s.brings i c w l)) (ms.map fun l => (l, s.gives i c w l))
        .next (u.forLanes ms fun l u => u.modLane c w l (LaneOut.done.after i.stall))
    else
      -- an instance that waits keeps the members that its first participants named (log entry 77)
      let members := match old with | some x => x.members | none => mask
      let joins := fun (l : Nat) => members.has l || old.isSome
      let waitOn := idle.any fun m => members.has m &&
        match i with | .shfl f | .redux f | .scan f => s.pendingIn c w m f.a | _ => false
      if waitOn then .next (s.forLanes ls fun l s => s.modLane c w l fun x => { x with park := .retry }) else
      let come := ms.map (fun l => ({ lane := l, part := true, gives := s.gives i c w l, a := (s.brings i c w l).1, b := (s.brings i c w l).2, fault := fault l } : CrossLane)) ++
        (idle.filter joins).map fun l => ({ lane := l, part := false, gives := s.givesIdle i c w l, a := 0, b := 0, fault := match i with | .shfl f | .redux f | .scan f => (if members.has l then s.operandFault c w l f.a else 0) | _ => 0 } : CrossLane)
      let t' := s.skipLanes i.stall (idle.filter fun l => !joins l)
      if come.isEmpty then .next t' else
      let base := old.getD { slot := w, pc := pc, members := members, arr := [], since := 0, i := i, word := s.cur.word, lbp := s.cur.lbp }
      let x := { base with arr := base.arr ++ come, since := if base.since = 0 ∧ !ms.isEmpty then s.now else base.since }
      let u := t'.forLanes (come.map (·.lane)) fun l u => u.modLane c w l (LaneOut.after (.park .cross) i.stall)
      .next ((u.modTeam c fun t => { t with cross := (t.cross.filter fun y => !(y.slot == w && y.pc == pc)) ++ [x] }).settleCross c)

def execShfl (f : Alu) (s : State) : Out := s.crossIssue (.shfl f) f.c
def execVote (f : Alu) (s : State) : Out := s.crossIssue (.vote f) f.c
def execRedux (f : Alu) (s : State) : Out := s.crossIssue (.redux f) f.c
def execScan (f : Alu) (s : State) : Out := s.crossIssue (.scan f) f.c

/-- `perm` (R140). -/
def execPerm (f : Alu) (s : State) : Out :=
  s.perLane (.perm f) (toD 0 f.d fun s c w l =>
    mapE 8 f.lo (s.oldD c w l f.d) fun e =>
      permE (s.opnd c w l .n8 f.a) (s.opnd c w l .n8 f.b) (s.opnd c w l .n8 f.c) e)

/-- Lane and subelement of an index, read as 64 bits (R134, R141). -/
def State.laneIndex (s : State) (c w l : Nat) (f : Alu) : Nat × Nat :=
  let n := f.ty.count
  let i := (s.op64 c w l f.b).toNat % (32 * n)
  (i / n, i % n)

/-- `rdln` (R141): the other lane's newest register, which the reader waits for. -/
def execRdln (f : Alu) (s : State) : Out :=
  s.perLane (.rdln f) (fun s0 c w l first s =>
    let (m, e) := s0.laneIndex c w l f
    if s0.pendingIn c w m f.a then (.park .retry, s)
    else
      let k := s0.operandFault c w m f.a
      if k ≠ 0 then (.fault k 0 0, s)
      else (.done, s.put c w l first f.d (repE f.ty.width (getE (s0.newest c w m f.ty f.a) f.ty.width e))))
    (except := (Use.src f.ty 1).regs f.a)

/-- `wrln` (R141): subelement 0 of A of the lowest lane of M goes to the lane that the index names, unless it has ended. -/
def execWrln (f : Alu) (s : State) : Out :=
  s.perLane (.wrln f) (fun s0 c w l _ s =>
    let low := ((s0.issuing (.wrln f)).filter (s0.inM (.wrln f) c w)).headD 32
    if l ≠ low then (.done, s)
    else
      let k := s0.operandFault c w l f.a
      let (m, e) := s0.laneIndex c w l f
      if k ≠ 0 then (.fault k 0 0, s)
      else if !(s0.lane c w m).live then (.done, s)
      else if s0.pendingIn c w m f.d then (.park .retry, s)
      else
        let x := getE (s0.opnd c w l f.ty f.a) f.ty.width 0
        (.done, s.result c w m true 0 f.d.toNat (setE (s0.reg c w m f.d.toNat) f.ty.width e x) (s0.mark c w m f.d.toNat)))
    (except := (Use.src f.ty 1).regs f.a)

end Sys2Proof.Machine
end

