-- ==== Sys2Proof/Machine/Decay.lean ====
section
/-! DEFINITION. Decayed words: factors and power tables, the decayed value, merging, sweeps and the advance of the step (R172-R187). -/

namespace Sys2Proof.Machine

/-- Fields of a decayed word (R172). -/
def dwF (w : Word) : Nat := Word.field w 63 56
def dwS (w : Word) : Nat := Word.field w 55 32
def dwV (w : Word) : Nat := Word.field w 31 0

/-- A decayed word from its factor index, stamp and value. -/
def dw (f s v : Nat) : Word := BitVec.ofNat 64 (f % 256 * 2 ^ 56 + s % 2 ^ 24 * 2 ^ 32 + v % 2 ^ 32)

/-- AGE(w, g) (R177). -/
def dwAge (w : Word) (g : Nat) : Nat := (g % 2 ^ 24 + 2 ^ 24 - dwS w) % 2 ^ 24

/-- RNE(a × b, f32) on codes. -/
def mul32 (a b : Nat) : Nat := f32.round .rne false 0 ((f32.val a).mul (f32.val b)).x

/-- RNE(a + b, f32) on codes. -/
def add32 (a b : Nat) : Nat := f32.round .rne false 0 (sumFV .rne [f32.val a, f32.val b]).x

/-- The code of 1.0. -/
def one32 : Nat := 0x3F800000

/-- n squarings of a factor, each rounded: the power row after its first entry (R176). -/
def powRow : Nat → Nat → List Nat
  | 0, _ => []
  | n + 1, x => x :: powRow n (mul32 x x)

/-- The power row of a factor in a context (R175). -/
def CtxSt.row (x : CtxSt) (f : Nat) : List Nat := x.pow.get (List.replicate 24 one32) f

/-- P(n, F): the powers of the set bits of n, lowest first (R177). -/
def powOf : List Nat → Nat → Nat → Nat
  | [], _, q => q
  | p :: t, n, q => powOf t (n / 2) (if n % 2 = 1 then mul32 q p else q)

def CtxSt.power (x : CtxSt) (n f : Nat) : Nat := powOf (x.row f) n one32

/-- The stale word counts: its value is not ±0 (R178). -/
def staleCounts (w : Word) : Bool := dwV w % 2 ^ 31 != 0

/-- DVAL(w, g), less its count: +0 for a stale word (R177). -/
def CtxSt.dval (x : CtxSt) (w : Word) (g : Nat) : Nat :=
  if 2 ^ 23 ≤ dwAge w g then 0 else mul32 (dwV w) (x.power (dwAge w g) (dwF w))

/-- Counts a read or add that found a stale word (R178). -/
def State.stale (s : State) (ctx : Nat) (w : Word) (g : Nat) : State :=
  if 2 ^ 23 ≤ dwAge w g ∧ staleCounts w then
    (s.modCtx ctx fun x => { x with dstale := (x.dstale + 1) % 2 ^ 64 }).count 0x0A23 1
  else s

/-- `atomd.add` (R182). -/
def CtxSt.addDw (x : CtxSt) (old : Word) (g b : Nat) : Word := dw (dwF old) g (add32 (x.dval old g) b)

/-- One side of `atomd.mrg` (R182). -/
def CtxSt.mrgSide (x : CtxSt) (w : Word) (age least : Nat) : Nat :=
  if 2 ^ 23 ≤ age then 0 else mul32 (dwV w) (x.power (age - least) (dwF w))

/-- `atomd.mrg` (R182). -/
def CtxSt.mrgDw (x : CtxSt) (old b : Word) (g : Nat) : Word :=
  let (am, ay) := (dwAge old g, dwAge b g)
  let least := min am ay
  dw (dwF old) (if am ≤ ay then dwS old else dwS b) (add32 (x.mrgSide old am least) (x.mrgSide b ay least))

/-- A word rebased by a sweep before boundary b, or none where it does not qualify (R186). -/
def CtxSt.rebase (x : CtxSt) (w : Word) (g b : Nat) : Option Word :=
  if 2 ^ 22 ≤ (b + 2 ^ 64 - dwS w) % 2 ^ 24 then
    some (dw (dwF w) g (if 2 ^ 23 ≤ dwAge w g then 0 else mul32 (dwV w) (x.power (dwAge w g) (dwF w))))
  else none

/-- The step that an agent holds: the one under way, once it has adopted that (R175, R185). -/
def CtxSt.stepAt (x : CtxSt) (agent : Nat) : Nat :=
  match x.next with
  | some g => if x.adopted.get false agent then g else x.step
  | none => x.step

/-- Sweeps one 8-byte word: a poisoned word is left as it is, and counted (R186, log entry 48). -/
def State.sweepWord (s : State) (ctx b pa : Nat) : State :=
  let x := s.ctxs.get {} ctx
  let place := Loc.hbm pa
  if s.bad place then s.count 0x20001 1 else
  let w : Word := BitVec.ofNat 64 (leNat (s.bytes place 8))
  match x.rebase w x.step b with
  | some w' => (s.stale ctx w x.step).agentWrite place (leBytes 8 w'.toNat) (s.tags.find? (pa / 128)) none
  | none => s

/-- An HA's part of a sweep: every word of its lines tagged with the context, in ascending address (R174, R186). -/
def State.sweepAt (s : State) (ctx ha : Nat) : State :=
  let b := ((s.ctxs.get {} ctx).step / 2 ^ 22 + 1) * 2 ^ 22
  s.tags.foldl (fun s (line, t) =>
    if t = ctx ∧ haOf (line * 128) = ha then (List.range 16).foldl (fun s j => s.sweepWord ctx b (line * 128 + 8 * j)) s else s) s

/-- The step that the oldest `stepadv` of a context brings, and whether a sweep comes first (R184). -/
def CtxSt.stepGoal (x : CtxSt) (n : Nat) : Nat := (x.step + n) % 2 ^ 64
def CtxSt.crosses (x : CtxSt) (n : Nat) : Bool := decide (x.step / 2 ^ 22 < (x.step + n) / 2 ^ 22)

/-- The oldest `stepadv` of a context begins: its step is sent at once, unless a sweep comes first (R184). -/
def State.stepBegin (s : State) (ctx : Nat) : State :=
  s.modCtx ctx fun x => match x.advs with
    | r :: _ => if x.next.isNone && !x.crosses r.n then { x with next := some (x.stepGoal r.n) } else x
    | [] => x

/-- A `stepadv` joins its context's queue, in the Burzon die's order (R184). -/
def State.stepAsk (s : State) (ctx : Nat) (r : StepReq) : State :=
  (s.modCtx ctx fun x => { x with advs := x.advs ++ [r] }).stepBegin ctx

/-- Writes a factor and its power row (R176); -0 is taken as +0. -/
def CtxSt.setFactor (x : CtxSt) (i lam : Nat) : CtxSt :=
  let lam := if lam = 2 ^ 31 then 0 else lam
  { x with lam := x.lam.set i lam, pow := x.pow.set i (powRow 24 lam) }

/-- A factor that R176 accepts: from +0 to 1.0, or -0. -/
def lamOk (lam : Nat) : Bool := decide (lam ≤ one32) || lam == 2 ^ 31

end Sys2Proof.Machine
end

