-- ==== Sys2Proof/Machine/Future.lean ====
section
/-! DEFINITION. Futures: entries of a core's table, pending registers, resolution and cancelling (R344, R345, R359). -/

namespace Sys2Proof.Machine

/-- Entries of a core's future table that are free (R344). -/
def State.freeEnts (s : State) (c : Nat) : List Nat := (List.range 512).filter fun e => !(s.futEnt c e).busy

/-- Entries that hold copies (R344). -/
def State.copyEnts (s : State) (c : Nat) : Nat :=
  s.fut.countP fun (k, f) => k / 512 == c && f.busy && f.copy

/-- n entries can be taken. -/
def State.futRoom (s : State) (c n : Nat) (copy : Bool) : Bool :=
  decide (n + s.fut.countP (fun (k, f) => k / 512 == c && f.busy) ≤ 512) && (!copy || decide (s.copyEnts c + n ≤ 256))

/-- Takes an entry; which of the free ones is the part's own choice (log entry 9). -/
def State.takeFut (s : State) (c : Nat) (copy : Bool) : FutRef × State :=
  let es := s.freeEnts c
  let e := es.getD (Config.futurePick s.free % es.length) 0
  let f := s.futEnt c e
  ({ core := c, ent := e, gen := f.gen },
   { s with free := s.free + 1, fut := s.fut.set (futKey c e) { f with busy := true, copy := copy, started := false, result := none } })

/-- D receives the handle and is pending on the entry (R345). -/
def State.putHandle (s : State) (c w l : Nat) (first : Bool) (d : BitVec 8) (f : FutRef) (who : LaneId) : State :=
  s.put c w l first d (handle who f) { fut := some f }

/-- The entry of a handle that is still its own, in the core's table or in a saved team's. -/
def State.futFind (s : State) (f : FutRef) : Option FutSt :=
  let e := s.futEnt f.core f.ent
  if e.busy && e.gen % 2 ^ 28 == f.gen % 2 ^ 28 then some e
  else s.saved.findSome? fun x =>
    if x.core = f.core then (x.img.fut.find? (futKey f.core f.ent)).filter fun y => y.busy && y.gen % 2 ^ 28 == f.gen % 2 ^ 28 else none

/-- Changes the entry of a handle, if it is still its own. -/
def State.futMod (s : State) (f : FutRef) (g : FutSt → FutSt) : State :=
  let e := s.futEnt f.core f.ent
  if e.busy && e.gen % 2 ^ 28 == f.gen % 2 ^ 28 then { s with fut := s.fut.set (futKey f.core f.ent) (g e) }
  else { s with saved := s.saved.map fun x =>
    if x.core = f.core then
      match (x.img.fut.find? (futKey f.core f.ent)).filter fun y => y.busy && y.gen % 2 ^ 28 == f.gen % 2 ^ 28 with
      | some y => { x with img := { x.img with fut := x.img.fut.set (futKey f.core f.ent) (g y) } }
      | none => x
    else x }

/-- Work has started and can no longer be cancelled (R359). -/
def State.futStart (s : State) (f : Option FutRef) : State :=
  match f with
  | some f => s.futMod f fun e => { e with started := true }
  | none => s

/-- Work is complete: the witness, and the fault of the first reader, wait for FUTURE_RESOLVE. -/
def State.futDone (s : State) (f : Option FutRef) (w : Word) (fault aux : Nat := 0) : State :=
  match f with
  | some f => s.futMod f fun e => { e with started := true, result := some (w, fault, aux) }
  | none => s

/-- The entry is free again, with a generation that no handle of its has had (R345). -/
def FutSt.freed (e : FutSt) : FutSt := { gen := max (if e.busy then e.gen + 1 else e.gen) e.top }

/-- A saved team's entry back in the core's table, whose own entry has gone on (R337): work in flight keeps its handle's generation. -/
def FutSt.back (e here : FutSt) : FutSt := if e.busy then { e with top := max e.top here.gen } else { e with gen := max e.gen here.gen }

/-- Gives registers pending on an entry their witness, in one pair of tables. -/
def resolveTabs (f : FutRef) (w : Word) (m : Mark) (vals : Tab Word) (marks : Tab Mark) : Tab Word × Tab Mark :=
  marks.foldl (fun (acc : Tab Word × Tab Mark) (k, x) =>
    if x.fut = some f then (acc.1.set k w, acc.2.set k m) else acc) (vals, marks)

/-- Every register pending on the entry receives the witness, in live and saved state; the entry is free again (R345). -/
def State.resolve (s : State) (f : FutRef) (w : Word) (fault aux : Nat) : State :=
  let m : Mark := { fault := fault, aux := aux }
  let (pool, marks) := resolveTabs f w m s.pool s.marks
  let (ureg, umarks) := resolveTabs f w m s.ureg s.umarks
  let saved := s.saved.map fun x =>
    let (p, q) := resolveTabs f w m x.img.pool x.img.marks
    let (u, v) := resolveTabs f w m x.img.ureg x.img.umarks
    { x with img := { x.img with pool := p, marks := q, ureg := u, umarks := v } }
  { s with pool := pool, marks := marks, ureg := ureg, umarks := umarks, saved := saved }.futMod f .freed

/-- A handle's entry, for a pending register or a foreign value. -/
def handleRef (w : Word) : FutRef := { core := Word.field w 59 48, ent := Word.field w 36 28, gen := Word.field w 27 0 }

/-- A handle's reference with the generation of its entry in full. -/
def State.fullRef (s : State) (f : FutRef) : FutRef := match s.futFind f with | some e => { f with gen := e.gen } | none => f

/-- What a core holds, apart from its team. -/
def State.imageOf (s : State) (c : Nat) : Image where
  warps := s.warps.filter fun (k, _) => k / 64 == c
  lanes := s.lanes.filter fun (k, _) => k / 2048 == c
  pool := s.pool.filter fun (k, _) => k / 65536 == c
  marks := s.marks.filter fun (k, _) => k / 65536 == c
  ureg := s.ureg.filter fun (k, _) => k / 4096 == c
  umarks := s.umarks.filter fun (k, _) => k / 4096 == c
  fut := s.fut.filter fun (k, _) => k / 512 == c
  sp := s.sp.filter fun (k, _) => k / 2 ^ 19 == c
  spPoison := s.spPoison.filter fun (k, _) => k / 65536 == c

/-- Places the entries of one table among another's: keys that both list take the second's. -/
def mergeTab {α : Type} (t u : Tab α) : Tab α := u.foldl (fun t (k, v) => t.set k v) t

/-- A core holds an image in place of what it held. -/
def State.setImage (s : State) (c : Nat) (x : Image) : State :=
  { s with
    warps := mergeTab (s.warps.filter fun (k, _) => k / 64 != c) x.warps
    lanes := mergeTab (s.lanes.filter fun (k, _) => k / 2048 != c) x.lanes
    pool := mergeTab (s.pool.filter fun (k, _) => k / 65536 != c) x.pool
    marks := mergeTab (s.marks.filter fun (k, _) => k / 65536 != c) x.marks
    ureg := mergeTab (s.ureg.filter fun (k, _) => k / 4096 != c) x.ureg
    umarks := mergeTab (s.umarks.filter fun (k, _) => k / 4096 != c) x.umarks
    fut := mergeTab (s.fut.filter fun (k, _) => k / 512 != c) x.fut
    sp := x.sp.foldl (fun m (a, b) => m.put a b) (s.sp.filter fun (k, _) => k / 2 ^ 19 != c)
    spPoison := mergeTab (s.spPoison.filter fun (k, _) => k / 65536 != c) x.spPoison }

/-- A team's own number: its context and node. -/
def TeamSt.key (t : TeamSt) : Nat := t.ctx * 65536 + t.nid

/-- A team of the context, and of the node where one is given. -/
def TeamSt.isOf (t : TeamSt) (ctx : Nat) (nid : Option Nat) : Bool := t.ctx == ctx && (match nid with | some n => t.nid == n | none => true)

/-- Runs `f` on saved team `x` as if it stood on its core. -/
def State.inSaved (s : State) (x : Saved) (f : State → State) : State :=
  let c := x.core
  let here := s.imageOf c
  let old := s.teams.find? c
  let t := f ((s.setImage c x.img).setTeam c x.team)
  let y := { (t.saved.find? fun z => z.core == c && z.team.key == x.team.key).getD x with img := t.imageOf c, team := t.team c }
  let back := t.setImage c here
  { back with
    teams := (match old with | some y => back.teams.set c y | none => back.teams.erase c)
    saved := back.saved.map fun z => if z.core = c ∧ z.team.key = x.team.key then y else z }

/-- Runs `f` on a core as it stands, or on the saved image of the team where no such team is resident (R195, R419). -/
def State.onTeam (s : State) (c ctx : Nat) (nid : Option Nat) (f : State → State) : State :=
  if (match s.teams.find? c with | some t => t.isOf ctx nid | none => false) then f s
  else match s.saved.find? fun x => x.core == c && x.team.isOf ctx nid with
    | none => f s
    | some x => s.inSaved x f

/-- A swapped-out team asks to be queued again (R262). -/
def State.requeueTeam (s : State) (c key : Nat) : State :=
  { s with saved := s.saved.map fun (x : Saved) =>
      if x.core = c ∧ x.team.key = key ∧ x.swapped ∧ !x.queued then { x with queued := true, at_ := s.now } else x }

/-- The team of a number is on its core, resident or saved. -/
def State.hasTeam (s : State) (c key : Nat) : Bool :=
  (match s.teams.find? c with | some t => t.key == key | none => false) || s.saved.any fun x => x.core == c && x.team.key == key

/-- Runs `f` for a team's number, and changes nothing where the team has gone. -/
def State.forTeam (s : State) (c key : Nat) (f : State → State) : State :=
  if s.hasTeam c key then s.onTeam c (key / 65536) (some (key % 65536)) f else s

end Sys2Proof.Machine
end

