-- ==== Sys2Proof/Machine/Sem.lean ====
section
/-! DEFINITION. Semaphores: counts, merged witnesses and waiting lists (R263-R270), and how a served waiter goes on. -/

namespace Sys2Proof.Machine

/-- A semaphore: of a core's sync unit, or of the Burzon die. -/
inductive SemId
  | core (c j : Nat)
  | pkg (j : Nat)
  deriving DecidableEq, Repr

def State.sem (s : State) : SemId → Sem
  | .core c j => (s.team c).sems.get {} j
  | .pkg j => s.psems.get {} j

def State.setSem (s : State) (x : SemId) (q : Sem) : State :=
  match x with
  | .core c j => s.modTeam c fun t => { t with sems := t.sems.set j q }
  | .pkg j => { s with psems := s.psems.set j q }

/-- Completes a lane's wait once its witness is satisfied: D receives it and the lane goes on (R267, R325). -/
def State.semFinish (s : State) (c w l : Nat) : State :=
  match (s.lane c w l).park with
  | .semGot x d =>
    if s.satisfied x c then
      let s := match d with | some r => s.result c w l true 0 r x | none => s
      (s.modLane c w l (·.resume)).countExpiry x
    else s
  | .slotGot x d v =>
    if s.satisfied x c then
      let s := match d with | some r => s.result c w l true 0 r v | none => s
      (s.modLane c w l (·.resume)).countExpiry x
    else s
  | .barWait x => if s.satisfied x c then (s.modLane c w l (·.resume)).countExpiry x else s
  | _ => s

/-- Lanes whose waits are served, or barriers complete, look at their witnesses again (R231). -/
def State.recheck (s : State) : State :=
  s.lanes.foldl (fun (s : State) (k, x) => match x.park with
    | .semGot .. | .slotGot .. | .barWait _ => s.semFinish (k / 2048) (k % 2048 / 32) (k % 32)
    | _ => s) s

/-- A served waiter: lanes wait for the witness; a chain or a collective is told (R267, R303, R339). -/
def State.served (s : State) (x : SemWait) (w : Word) : State :=
  match x.who with
  | .lanes c v k m d =>
    let s := s.requeueTeam c k
    s.forTeam c k fun s => s.forLanes m.lanes fun l s =>
      (s.modLane c v l fun y => if y.park = .sem then { y with park := .semGot w d } else y).semFinish c v l
  | .chain k => { s with chains := s.chains.set k { s.chains.get {} k with got := true, wit := w } }
  | .coll k => match s.colls.find? k with
    | some y => { s with colls := s.colls.set k { y with semGot := some w } }
    | none => s

/-- Serves waiting requests, in strict arrival order (R267). -/
def serveAll : List SemWait → Nat → List SemWait × Nat × List SemWait
  | [], v => ([], v, [])
  | x :: t, v =>
    if x.thr ≤ v then
      let (rest, v', out) := serveAll t (if x.take then v - x.thr else v)
      (rest, v', x :: out)
    else (x :: t, v, [])

def State.semServe (s : State) (x : SemId) : State :=
  let q := s.sem x
  let (rest, v, out) := serveAll q.wait q.v
  let s := s.setSem x { q with v := v, wait := rest }
  out.foldl (fun s y => s.served y q.w) s

/-- A witness as W holds it: links are waited for and become frontiers; a package semaphore's scope is at least pk (R264). -/
def State.semMerge (s : State) (x : SemId) (w f : Word) : Word :=
  let f := if Word.field f 63 60 = 3 then (s.widen 7 f).getD f else f
  match x with
  | .core c _ => (s.merge c w f).getD w
  | .pkg _ => ((s.merge 0 w f).bind (s.widen 7)).getD w

/-- An increment by b that merges f, and its service (R266). -/
def State.semInc (s : State) (x : SemId) (b : Nat) (f : Word) : State :=
  let q := s.sem x
  let s := if 2 ^ 64 - 1 ≤ q.v + b then s.count 0x20000 1 else s
  (s.setSem x { q with v := min (q.v + b) (2 ^ 64 - 1), w := s.semMerge x q.w f }).semServe x

/-- `semset` (R268). -/
def State.semSet (s : State) (x : SemId) (b : Nat) : State :=
  (s.setSem x { s.sem x with v := b, w := 0 }).semServe x

/-- Joins the back of the waiting list, and is served if it is first (R267). -/
def State.semJoin (s : State) (x : SemId) (y : SemWait) : State :=
  (s.setSem x { s.sem x with wait := (s.sem x).wait ++ [y] }).semServe x

/-- The package semaphore may be reached from the context (R263). -/
def State.psemOk (s : State) (ctx j : Nat) : Bool := s.psemOwner.find? j == some ctx

/-- The witness of an increment or a set: a point for a core's semaphore, a frontier for a package's (R266). -/
def State.semWit (s : State) (x : SemId) (sc : Scope) : Word :=
  match x with
  | .core c _ => point (0x200 + c) sc.code.toNat s.now
  | .pkg _ => frontier 7 s.now

end Sys2Proof.Machine
end

