-- ==== Sys2Proof/Machine/Matrix.lean ====
section
/-! DEFINITION. The matrix engine, up to its queue: tiles, format words, B descriptors, signing and issuing (R143-R170), and
the exact product (R156-R159). -/

namespace Sys2Proof.Machine

/-- A format word's fields, or none where R108 makes it an illegal operand. -/
def fmtWord (w : Word) : Option FmtWord :=
  let fw := w.toNat % 2 ^ 32
  let ok := fun (t : Ty) => [Ty.f64, .f32, .f16, .bf16, .i8, .n8, .i4, .n4, .q4].contains t || t.isB8
  match Ty.ofCode (fw % 32), Ty.ofCode (fw / 32 % 32), Rm.ofCode (fw / 2 ^ 18 % 8) with
  | some a, some b, some m =>
    let f : FmtWord := { aty := a, bty := b, act := fw / 2 ^ 10 % 4, scm := fw / 2 ^ 12 % 4, ovf := fw.testBit 14, ie := fw.testBit 15, au := fw.testBit 16, bu := fw.testBit 17, drm := m }
    if fw / 2 ^ 21 = 0 ∧ f.act ≠ 3 ∧ ok a ∧ ok b ∧ (f.au = true → a.isB8) ∧ (f.bu = true → b.isB8) then some f else none
  | _, _, _ => none

/-- A combination of fields that `mma`, `mmaa` and `vxm` accept (R146). -/
def FmtWord.combo (f : FmtWord) : Bool :=
  let int := fun (t : Ty) => [Ty.i8, .n8, .i4, .n4].contains t
  f.aty.width == f.bty.width &&
    (if 32 ≤ f.aty.width then f.act == 0 && f.scm == 0
     else f.act != 2 || (f.aty.width != 16 && f.scm == 0 && int f.aty && int f.bty))

def FmtWord.a (f : FmtWord) : NumFmt := tyNum f.aty f.au f.ie
def FmtWord.b (f : FmtWord) : NumFmt := tyNum f.bty f.bu f.ie
def FmtWord.pair (f : FmtWord) : Bool := f.aty == .f64

/-- Elements of an operand row, and scale blocks (R143). -/
def FmtWord.rowLen (f : FmtWord) : Nat := 1024 / f.aty.width
def FmtWord.nb (f : FmtWord) : Nat := 16 / f.aty.width

def FmtWord.scaleA (f : FmtWord) : Bool := f.scm % 2 == 1
def FmtWord.scaleB (f : FmtWord) : Bool := 2 ≤ f.scm

/-- A B descriptor: KX, NX and OFF, or none where it is an illegal operand (R145). -/
def bDesc (w : Word) (k : Nat) : Option (Nat × Nat × Nat) :=
  let (kx, nx, off) := (Word.field w 56 48, Word.field w 47 40, Word.field w 18 0)
  if Word.field w 63 57 = 0 ∧ Word.field w 39 19 = 0 ∧ kx ≤ k ∧ nx ≤ 32 ∧ off % 128 = 0 ∧ off + 128 * nx ≤ 0x60000 then
    some (kx, nx, off)
  else none

/-- Pool key of 64-bit word q of a tile, or of a pair (R147, R148). -/
def State.tileKey (s : State) (c w t q : Nat) : Nat :=
  s.poolKey c w (s.share c - 16 * (t + q / 512 + 1) + q % 512 / 32) (q % 32)

def State.tileWord (s : State) (c w t q : Nat) : Word := s.pool.get 0 (s.tileKey c w t q)

def State.setTileWord (s : State) (c w t q : Nat) (v : Word) (bad : Bool := false) : State :=
  { s with pool := s.pool.set (s.tileKey c w t q) v, marks := s.marks.set (s.tileKey c w t q) { bad := bad } }

/-- Element (m, n) of a tile, or of a pair (R148). -/
def State.tileElem (s : State) (c w t : Nat) (pair : Bool) (m n : Nat) : Nat :=
  if pair then (s.tileWord c w t (32 * m + n)).toNat else getE (s.tileWord c w t (16 * m + n / 2)) 32 (n % 2)

/-- Writes words of a row of a tile, from its first on. -/
def State.setTileRow (s : State) (c w t : Nat) (pair : Bool) (m : Nat) (ws : List Word) : State :=
  (ws.foldl (fun (acc : State × Nat) v => (acc.1.setTileWord c w t acc.2 v, acc.2 + 1)) (s, (if pair then 32 else 16) * m)).1

/-- A row of elements as words. -/
def packRow (w : Nat) : Nat → List Nat → List Word
  | 0, _ => []
  | k + 1, es => wordE w (es.take (64 / w)) :: packRow w k (es.drop (64 / w))

/-- Element k of an operand row of words (R144). -/
def rowElem (row : List Word) (w k : Nat) : Nat := getE (row.getD (k / (64 / w)) 0) w (k % (64 / w))

/-- A code's value as a term of a sum; integers are exact. -/
def NumFmt.fv (f : NumFmt) (c : Nat) : FV :=
  match f with
  | .flt g => g.val c
  | .int sg w => let x := intVal sg w c; .fin (decide (x < 0)) x.natAbs 0
  | _ => .nan

/-- An integer's value. -/
def NumFmt.iv (f : NumFmt) (c : Nat) : Int :=
  match f with
  | .int sg w => intVal sg w c
  | _ => 0

/-- One group of a product, less its scales: the exact sum of the products k0 … k1-1 (R156). -/
def groupSum (f : FmtWord) (a b : List Word) (k0 n : Nat) : FV :=
  sumFV .rne ((List.range n).map fun j => (f.a.fv (rowElem a f.aty.width (k0 + j))).mul (f.b.fv (rowElem b f.bty.width (k0 + j))))

def groupInt (f : FmtWord) (a b : List Word) (k0 n : Nat) : Int :=
  (List.range n).foldl (fun x j => x + f.a.iv (rowElem a f.aty.width (k0 + j)) * f.b.iv (rowElem b f.bty.width (k0 + j))) 0

/-- GROUP(m, n, g) as a value to accumulate, under the scale codes that apply (R156). -/
def groupVal (f : FmtWord) (x : FV) (codes : List Nat) : FV :=
  let t := if f.pair then f64 else f32
  let y := if codes.contains 0xFF then .nan else (x.scale (codes.foldl (fun (e : Int) (c : Nat) => e + (c : Int) - 127) 0))
  t.val (t.round .rne f.ovf 0 y)

/-- ACCUM(acc, G) on tile codes (R157). -/
def accum (f : FmtWord) (acc : Nat) (g : FV) : Nat :=
  if f.pair then f64.round .rne f.ovf 0 (sumFV .rne [f64.val acc, g]).x
  else if f.act = 1 then
    f32.round .rne false 0 (f16.val (f16.round .rne f.ovf 0 (sumFV .rne [f32.val acc, g]).x)).x
  else f32.round .rne f.ovf 0 (sumFV .rne [f32.val acc, g]).x

def accumInt (f : FmtWord) (acc : Nat) (g : Int) : Nat := putInt f.ovf true 32 (intVal true 32 acc + g)

/-- One output element: groups in ascending order over KX (R157, R162). `codes g` are the scale codes of group g. -/
def productElem (f : FmtWord) (kx : Nat) (a b : List Word) (codes : Nat → List Nat) (acc : Nat) : Nat :=
  (List.range ((kx + 31) / 32)).foldl (fun acc g =>
    let n := min 32 (kx - 32 * g)
    if f.act = 2 then accumInt f acc (groupInt f a b (32 * g) n)
    else accum f acc (groupVal f (groupSum f a b (32 * g) n) (codes g))) acc

/-- Scale codes of group g for row m and column n (R158). -/
def scaleCodes (f : FmtWord) (scale : Tab Word) (low ao bo : Nat) (aLow bLow : Bool) (m n g : Nat) : List Nat :=
  let byte := fun (l i : Nat) => getE (scale.get 0 l) 8 i
  (if f.scaleA then [byte (if aLow then low else m) (ao + g / 2)] else []) ++
  (if f.scaleB then [byte (if bLow then low else n) (bo + g / 2)] else [])

/-- A column of B: a 128-byte row of the core's scratchpad, as words (R145). -/
def State.bColumn (s : State) (c off n : Nat) : List Word :=
  (List.range 16).map fun j => BitVec.ofNat 64 (leNat (s.bytes (.sp c (off + 128 * n + 8 * j)) 8))

/-- D of `mma` or `mmaa`, row by row, from A rows by member lane (R159, R162). -/
def State.product (s : State) (c w : Nat) (f : FmtWord) (kx nx off : Nat) (rows : Tab (List Word))
    (codes : Nat → Nat → Nat → List Nat) (d src : Nat) (z : Bool) : State :=
  let cols := (List.range nx).map (s.bColumn c off)
  let row := fun (m : Nat) => (List.range 32).map fun n =>
    let acc := if z then 0 else s.tileElem c w src f.pair m n
    match rows.find? m, cols[n]? with
    | some a, some b => productElem f kx a b (codes m n) acc
    | _, _ => acc
  let out := (List.range 32).map row
  (out.foldl (fun (acc : State × Nat) es =>
    (acc.1.setTileRow c w d f.pair acc.2 (packRow (if f.pair then 64 else 32) (if f.pair then 32 else 16) es), acc.2 + 1)) (s, 0)).1

-- Signing and issue

/-- Steps a lane's generator n times; the draws, first first (R98). -/
def draws : Nat → Word → List Nat × Word
  | 0, g => ([], g)
  | n + 1, g =>
    let g := srStep g
    let (ds, h) := draws n g
    (srDraw g :: ds, h)

/-- Takes n draws of a lane. -/
def State.takeDraws (s : State) (c w l n : Nat) : List Nat × State :=
  let (ds, g) := draws n (s.lane c w l).gen
  (ds, s.modLane c w l fun x => { x with gen := g })

/-- Takes n draws in each lane of a list. -/
def State.takeAll (s : State) (c w n : Nat) : List Nat → List (Nat × List Nat) × State
  | [] => ([], s)
  | l :: t =>
    let (ds, s) := s.takeDraws c w l n
    let (rest, s) := s.takeAll c w n t
    ((l, ds) :: rest, s)

/-- The operation that a complete convergence register makes (R151, R152, R158, R163): its kind, or a cause and detail. -/
def State.mxMake (s : State) (c w : Nat) (i : Instr) (fw bd : Word) (ms : List Nat) : Except (Nat × Nat) MxKind × State :=
  match fmtWord fw with
  | none => (.error (0x05, 0), s)
  | some f =>
    let bad : Except (Nat × Nat) MxKind × State := (.error (0x05, 0), s)
    if !f.combo then bad else
    match bDesc bd f.rowLen with
    | none => bad
    | some (kx, nx, off) =>
      let missing := (List.range nx).any fun n => !ms.contains n
      match i with
      | .mma x =>
        let ao := x.imm5.toNat / 4
        let mode := x.imm5.toNat % 4
        let bo := if f.scaleA then ao + f.nb else ao
        if f.scm = 0 ∧ x.imm5 ≠ 0 then (.error (0x01, 4), s)
        else if f.pair ∧ (x.d.toNat % 2 = 1 ∨ x.acc.toNat % 2 = 1) then bad
        else if (f.scaleA ∧ 8 < ao + f.nb) ∨ (f.scaleB ∧ (8 < bo + f.nb ∨ (mode % 2 = 0 ∧ missing))) then bad
        else
          let rows := ms.map fun l => (l, (List.range 16).map fun j => s.rd c w l (x.a.toNat + j))
          let scale := if f.scm = 0 then [] else ms.map fun l => (l, s.rd c w l (x.a.toNat + 16))
          (.ok (.mma x.d.toNat x.acc.toNat f kx nx off rows scale ao mode x.z), s)
      | .mmaa x =>
        let n := x.imm5.toNat % 4 + 1
        let mode := x.imm5.toNat / 4 % 2
        let bo := x.imm5.toNat / 8 * 2
        let src := x.acc.toNat
        if f.pair ∨ f.scaleA ∨ f.act = 2 ∨ (src ≤ x.d.toNat ∧ x.d.toNat < src + n) then bad
        else if f.scaleB ∧ (8 < bo + f.nb ∨ (mode = 0 ∧ missing)) then bad
        else
          let scale := if f.scm = 0 then [] else ms.map fun l => (l, s.opnd c w l .n64 x.a)
          let (ds, s) := if f.drm = .sr then s.takeAll c w (32 * n) ms else ([], s)
          (.ok (.mmaa x.d.toNat src n f kx nx off ms ds scale bo mode x.z), s)
      | _ => bad

/-- A core's matrix queue has room (R154). -/
def State.mxRoom (s : State) (c : Nat) : Bool := decide ((s.mx.get [] c).length < 16)

/-- Enters an operation in the core's matrix queue (R154). -/
def State.mxPush (s : State) (c w : Nat) (lanes : Mask) (k : MxKind) : State :=
  let o : MxOp := { slot := w, lanes := lanes, ctx := (s.team c).ctx, cls := (s.team c).cls, id := s.seq, k := k }
  { s with mx := s.mx.set c (s.mx.get [] c ++ [o]), seq := s.seq + 1 }

/-- Ends a wait for signatures with a trap in every signed member (R152, R153). -/
def State.signTrap (s : State) (c n : Nat) (cause detail : Nat) (addr : Nat → Nat := fun _ => 0) (diag : List Nat := []) : State :=
  let k := (s.team c).kregs.get {} n
  let s := s.modTeam c fun t => { t with kregs := t.kregs.set n { k with signed := 0, signs := [], since := 0 } }
  match k.signs, k.owner with
  | g :: _, some w => s.trapParked c w g.word g.lbp k.signed.lanes cause detail addr diag
  | _, _ => s

/-- A convergence register whose members have all signed issues its operation, once the queue has room (R149, R151, R152). -/
def State.signSettle (s : State) (c n : Nat) : State :=
  let k := (s.team c).kregs.get {} n
  match k.owner with
  | none => s
  | some w =>
    if k.members = 0 then s.modTeam c fun t => { t with kregs := t.kregs.set n {} }
    else if k.signed = 0 ∨ k.members &&& ~~~k.signed ≠ 0 then s
    else
      let ls := k.signed.lanes
      match ls.filterMap fun l => k.signs.find? fun g => g.lane == l with
      | [] => s
      | g :: gs =>
        let key := fun (x : Sign) => (x.word.toNat % 2 ^ 55, x.fmt.toNat % 2 ^ 32, x.desc,
          match x.i with | .mmaa f => if x.fmt.toNat / 2 ^ 12 % 4 = 2 then s.opnd c w x.lane .n64 f.a else 0 | _ => 0)
        let diff := gs.filter fun x => key x != key g
        if !diff.isEmpty then s.signTrap c n 0x06 0 (fun l => if diff.any (·.lane == l) then 1 else 0)
        else if !s.mxWindow c w g.i (g.fmt.toNat % 2 ^ 32) then s.signTrap c n 0x03 0
        else if !s.mxRoom c then s
        else match s.mxMake c w g.i g.fmt g.desc ls with
          | (.error (cause, detail), _) => s.signTrap c n cause detail
          | (.ok op, s) =>
            let s := s.mxPush c w k.signed op
            let s := s.modTeam c fun t => { t with kregs := t.kregs.set n { k with signed := 0, signs := [], since := 0 } }
            s.forLanes ls fun l s => s.modLane c w l fun x => if x.park = .sign n then (x.age (1 + g.i.stall)).resume else x

/-- Issues every operation of a core that can issue. -/
def State.settleSigns (s : State) (c : Nat) : State := (List.range 8).foldl (fun s n => s.signSettle c n) s

/-- A lane signs (R151), unless it is no member of the register or its warp is not the owner (R153). -/
def signBody (i : Instr) (k : Nat) (b e : BitVec 8) (s0 : State) (c w l : Nat) (_ : Bool) (s : State) : LaneOut × State :=
  let x := (s.team c).kregs.get {} k
  if x.owner ≠ some w ∨ !x.members.has l then (.fault 0x07 0 0, s)
  else
    let g : Sign := { lane := l, i := i, word := s0.cur.word, lbp := s0.cur.lbp, fmt := s0.op64 c w l e, desc := s0.op64 c w l b }
    (.park (.sign k), s.modTeam c fun t =>
      { t with kregs := t.kregs.set k { x with signed := x.signed ||| Mask.one l, signs := x.signs ++ [g], since := if x.signs.isEmpty then s.now else x.since } })

/-- `f` after a meaning that went on. -/
def Out.andThen (o : Out) (f : State → State) : Out :=
  match o with
  | .next s => .next (f s)
  | o => o

def execMma (f : Mx) (s : State) : Out :=
  Out.andThen (s.perLane (.mma f) (signBody (.mma f) f.k.toNat f.b f.e)) fun t => t.signSettle s.cur.core f.k.toNat

def execMmaa (f : Mx) (s : State) : Out :=
  Out.andThen (s.perLane (.mmaa f) (signBody (.mmaa f) f.k.toNat f.b f.e)) fun t => t.signSettle s.cur.core f.k.toNat

/-- `kdecl` (R150, R153, R161). -/
def execKdecl (f : Mx) (s : State) : Out :=
  s.perWarp (.kdecl f) (fun _ _ _ _ => []) fun _ c w ms s =>
    let n := f.k.toNat
    let mask : Mask := (s.op64 c w (ms.headD 0) f.a).setWidth 32
    let x := (s.team c).kregs.get {} n
    if mask = 0 then (.fault 0x05 fun _ => 0, s)
    else if x.signed ≠ 0 then (.fault 0x07 fun _ => 0, s)
    else
      let live := Mask.ofLanes (s.liveLanes c w)
      (.done, s.modTeam c fun t => { t with kregs := t.kregs.set n { owner := some w, members := mask &&& live } })

/-- Issues a matrix word that acts once for the lanes of M: agreement, then the body once the queue has room. -/
def State.mxWarp (s : State) (i : Instr) (key : State → Nat → Nat → Nat → List Word)
    (body : Nat → Nat → List Nat → State → WarpOut × State) : Out :=
  s.perWarp i key fun s0 c w ms s => if s0.mxRoom c then body c w ms s else (.park .retry, s)

end Sys2Proof.Machine
end

