-- ==== Sys2Proof/Machine/Sync.lean ====
section
/-! DEFINITION. Barriers (R313, R325), and what a lane's end or arrival may complete: barriers, cross-lane instances, signed
operations (R324); ending teams and what ECTL does (R438). -/

namespace Sys2Proof.Machine

/-- Cores of a core's gang that hold a team of the same node. -/
def State.gangTeams (s : State) (c : Nat) : List Nat :=
  (s.gang c).filter fun d => (s.teams.find? d).isSome && (s.team d).ctx == (s.team c).ctx && (s.team d).nid == (s.team c).nid

/-- Live lanes of the teams on some cores. -/
def State.liveOf (s : State) (cores : List Nat) : List LaneId :=
  cores.flatMap fun c => (List.range (s.team c).nwarp).flatMap fun w => (s.liveLanes c w).map fun l => ⟨c, w, l⟩

/-- The witness a lane brought to barrier n, or none where it has not arrived. -/
def State.arrival (s : State) (n : Nat) (gang : Bool) (x : LaneId) : Option Word :=
  match (s.lane x.core x.slot x.lane).park with
  | .bar m g f => if m = n ∧ g = gang then some f else none
  | _ => none

/-- Key of a barrier in its team's table. -/
def barKey (n : Nat) (gang : Bool) : Nat := if gang then 8 + n else n

/-- A barrier that every live lane has reached completes (R325): lanes wait for the merged witness, arrivals are cleared, and
each team's last arrival is urgent (R313). -/
def State.barSettle (s : State) (c n : Nat) (gang : Bool) : State :=
  let cores := if gang then s.gangTeams c else [c]
  let ls := s.liveOf cores
  let fs := ls.map (s.arrival n gang)
  if ls.isEmpty ∨ fs.contains none then s
  else
    let w := s.mergeAll c (fs.filterMap id)
    let s := cores.foldl (fun s d => s.modTeam d fun t =>
      match t.bars.find? (barKey n gang) with
      | some (_, last) => { t with bars := t.bars.erase (barKey n gang), urgent := some last }
      | none => t) s
    ls.foldl (fun s x => (s.modLane x.core x.slot x.lane fun y => { y with park := .barWait w }).semFinish x.core x.slot x.lane) s

/-- Barriers of a core's team and gang that can complete. -/
def State.settleBars (s : State) (c : Nat) : State :=
  (List.range 8).foldl (fun s n => (s.barSettle c n false).barSettle c n true) s

/-- A warp without live lanes ends and is no longer urgent; a team whose warps have all ended waits for its work (R313, R324). -/
def State.settleEnds (s : State) (c : Nat) : State :=
  match s.teams.find? c with
  | none => s
  | some t =>
    let u := t.urgent.filter fun w => !(s.liveLanes c w).isEmpty
    s.setTeam c { t with urgent := u, ended := (List.range t.nwarp).all fun w => (s.liveLanes c w).isEmpty }

/-- After lanes of a core have ended or arrived. -/
def State.settle (s : State) (c : Nat) : State := (((s.settleCross c).settleSigns c).settleBars c).settleEnds c

/-- A lane arrives at a barrier: once its writes are stamped, with the witness of its fence (R325). -/
def barBody (n : Nat) (gang : Bool) (_ : State) (c w l : Nat) (_ : Bool) (s : State) : LaneOut × State :=
  if !s.stamped c w l then (.park .retry, s)
  else
    let f := (s.fenceWit c w l (if gang then 6 else 3)).getD 0
    (.park (.bar n gang f), s.modTeam c fun t =>
      let first := match t.bars.find? (barKey n gang) with | some (a, _) => a | none => s.now
      { t with bars := t.bars.set (barKey n gang) (first, w), urgent := if t.urgent = some w then none else t.urgent })

def execBar (f : Alu) (s : State) : Out :=
  Out.andThen (s.perLane (.bar f) (barBody f.opx.toNat false)) fun t => t.barSettle s.cur.core f.opx.toNat false

def execBarg (f : Alu) (s : State) : Out :=
  Out.andThen (s.perLane (.barg f) (barBody f.opx.toNat true)) fun t => t.barSettle s.cur.core f.opx.toNat true

/-- A semaphore whose first waiter has ended serves those behind it (R267). -/
def State.serveSems (s : State) (c : Nat) : State :=
  let busy := fun (t : Tab Sem) => (t.filter fun (_, q) => !q.wait.isEmpty).map (·.1)
  let s := (busy (s.team c).sems).foldl (fun (s : State) j => s.semServe (.core c j)) s
  (busy s.psems).foldl (fun (s : State) j => s.semServe (.pkg j)) s

/-- Lanes of a warp have ended: what waited for them goes on, and held lanes are released once no handler runs (R324, R433). -/
def State.afterEnds (s : State) (c w : Nat) : State :=
  let s := if (List.range 32).any fun l => (s.lane c w l).handler then s
    else s.forLanes (s.liveLanes c w) fun l s => s.modLane c w l fun y => { y with held := false }
  ((s.settle c).serveSems c).wake

/-- Ends every lane of a core's team at once (R324). -/
def State.endTeam (s : State) (c : Nat) : State :=
  let s := (List.range (s.team c).nwarp).foldl (fun (s : State) w => (s.liveLanes c w).foldl (fun s l => s.endLane c w l) s) s
  ((s.modTeam c fun t => { t with ended := true }).settle c).serveSems c

-- Escalation (R438)

/-- ECTL 1: the frozen warp goes on; lanes that a fault held are released where no handler runs. -/
def State.escResume (s : State) (c w : Nat) : State :=
  let x := s.warp c w
  if !x.frozen then s else (s.setWarp c w { x with frozen := false, estat := x.estat &&& 0x7FFFFFFFFFFFFFFF }).afterEnds c w

/-- ECTL 2: the frozen lanes end at once (R324). -/
def State.escEndFrozen (s : State) (c w : Nat) : State :=
  let x := s.warp c w
  if !x.frozen then s else
  let s := s.setWarp c w { x with frozen := false, estat := x.estat &&& 0x7FFFFFFFFFFFFFFF }
  (s.forLanes (s.liveLanes c w) fun l s => s.endLane c w l).afterEnds c w

/-- ECTL 3: every lane of the team ends. -/
def State.escEndTeam (s : State) (c w : Nat) : State :=
  let x := s.warp c w
  if !x.frozen then s else
  ((s.setWarp c w { x with frozen := false, estat := x.estat &&& 0x7FFFFFFFFFFFFFFF }).endTeam c).wake

/-- A store to ECTL of a warp slot; any other value is ignored. -/
def State.ectl (s : State) (c w v : Nat) : State :=
  if v = 1 then s.escResume c w else if v = 2 then s.escEndFrozen c w else if v = 3 then s.escEndTeam c w else s

end Sys2Proof.Machine
end

