-- ==== Sys2Proof/Machine/Fabric.lean ====
section
/-! DEFINITION. The fabric's base: capabilities (R423, R424), connections and their messages (R275, R278-R283), refusals, and
the remote-read cache (R292). -/

namespace Sys2Proof.Machine

/-- A capability entry (R423). -/
structure Cap where
  kind : Nat
  perm : Nat
  allow : Nat
  conn : Nat
  endp : Nat
  base : Nat
  size : Nat
  deriving DecidableEq, Repr

/-- Key of a node's capability table. -/
def capKey (ctx nid : Nat) : Nat := ctx * 65536 + nid

/-- The four dwords of entry m of a node's table. -/
def State.capWords (s : State) (ctx nid m : Nat) : List Word := ((s.caps.get [] (capKey ctx nid)).drop (4 * m)).take 4

/-- A valid entry, by the rules of R424. -/
def capOf (ws : List Word) : Option Cap :=
  match ws with
  | [a, b, c, d] =>
    let kind := Word.field a 62 60
    let perm := Word.field a 59 55
    let uses := if kind = 0 then 0b01110 else if kind = 1 then 1 else 16
    let allow := Word.field a 47 40
    if Word.bit a 63 ∧ kind < 3 ∧ perm &&& uses = perm ∧ Word.field a 54 48 = 0 ∧ Word.field a 39 32 = 0 ∧
        (if kind = 1 then 1 ≤ allow else allow = 0) ∧ Word.field b 63 52 = 0 ∧ Word.field c 63 52 = 0 ∧ d = 0 then
      some { kind := kind, perm := perm, allow := allow, conn := Word.field a 31 16, endp := Word.field a 15 0, base := Word.field b 51 0, size := Word.field c 51 0 }
    else none
  | _ => none

/-- A connection that the context may use: open, and its own (R285). -/
def State.connOpen (s : State) (n ctx : Nat) : Bool := s.connOwned n ctx

/-- The entry that a lane's word names, if it holds permission bit p, is of kind k and its connection is open (R285 step 1). -/
def State.capFor (s : State) (c m p k : Nat) : Option Cap :=
  let t := s.team c
  (capOf (s.capWords t.ctx t.nid m)).filter fun x => x.perm.testBit p && x.kind == k && s.connOpen x.conn t.ctx

def State.conn (s : State) (n : Nat) : Conn := s.conns.get {} n
def State.modConn (s : State) (n : Nat) (f : Conn → Conn) : State := { s with conns := s.conns.set n (f (s.conn n)) }

/-- The lowest-numbered open connection of a context to a package (R291). -/
def State.route (s : State) (ctx pkg : Nat) : Option Nat :=
  (List.find? (fun (x : Nat × Conn) => let k := x.2; k.opened && Word.field k.cctl 55 44 == ctx && Word.field k.cctl 43 32 == pkg) s.conns).map (·.1)

/-- A message can be taken: the connection is up and has numbers left (R273, R275). -/
def State.canSend (s : State) (n : Nat) : Bool :=
  let k := s.conn n
  k.up && !k.closing && decide (k.sent + 1 < 2 ^ 40)

/-- The port's report to the service OS (log entry 23). -/
def State.portReport (s : State) : State :=
  let (page, id) := Config.portMessage s.free
  { s.sendMsi page id with free := s.free + 1 }

/-- The die of an agent; the Burzon die and the ports are served by the leader's pair. -/
def State.dieOfAgent (s : State) (a : Nat) : Nat := if a < 0x200 then a / 64 else if a < 0x800 then dieOf (a - 0x200) else s.lead.toNat % 8

/-- A report to the service pair of a die (R225, R343): its page is the pair's; level and identity are the service OS's (log entry 23). -/
def State.pairReport (s : State) (d : Nat) : State :=
  let (page, id) := Config.portMessage s.free
  { s.sendMsi (4 * s.servedBy d + page % 2) id with free := s.free + 1 }

/-- Registers that wait for a message receive a fault for their first reader (R282, R283). -/
def State.answerFault (s : State) (m : Msg) (fault aux : Nat) (wit : Word) : State :=
  match m.dst with
  | some r =>
    let x : Reply := { who := m.who, team := m.team, regs := [(r, 0, { fault := fault, aux := aux }), (r + 1, wit, if fault = 0x14 then { fault := fault, aux := aux } else {})], load := true, id := m.id }
    { s with replies := s.replies.set s.seq x, seq := s.seq + 1 }
  | none => s

/-- What becomes of a message whose connection has failed (R282). -/
def State.lostMsg (s : State) (n : Nat) (m : Msg) : State := (s.futDone m.fut 0 0x14 n).answerFault m 0x14 n 0

/-- Bytes of payload that a packet carries at most (R273). -/
def packetBytes : Nat := 4096

/-- A packet of a message: connection, number and kind, remote address, length, offset, class (R26), type, fence, endpoint, sending lane
and core, then its part of the data and the poison of its granules (R211, R273). -/
def Msg.packet (n : Nat) (m : Msg) (k : Nat) : List Nat :=
  [2, n, m.seq, m.kind, m.rva, m.len, packetBytes * k, m.cls, m.ty.code.toNat, (if m.fen then 1 else 0), m.endp, m.who.lane, m.who.core] ++
    ((m.words.drop (packetBytes / 8 * k)).take (packetBytes / 8)).map BitVec.toNat ++
    ((m.bad.drop (packetBytes / 8 * k)).take (packetBytes / 8)).map fun b => if b then 1 else 0

/-- The packets in which a message goes out to the peer. -/
def Msg.out (n : Nat) (m : Msg) : List (List Nat) :=
  (List.range (max 1 ((m.words.length + packetBytes / 8 - 1) / (packetBytes / 8)))).map (m.packet n)

/-- Gives a message the next number of its connection (R278), and sends it: the state and the number. On a failed connection it
is lost at once. -/
def State.sendMsg (s : State) (n : Nat) (m : Msg) : State × Nat :=
  let k := s.conn n
  let q := k.sent + 1
  let m := { m with seq := q, sent := s.now }
  if k.failed then ((s.modConn n fun k => { k with sent := q }).lostMsg n m, q)
  else ({ s.modConn n fun k => { k with sent := q, out := k.out ++ [m] } with outbox := s.outbox ++ m.out n }, q)

/-- The number up to which no message of a connection is on its way. -/
def Conn.settled (k : Conn) : Nat := k.out.foldl (fun a m => min a (m.seq - 1)) k.sent

/-- DONEQ: the highest number for which LINKDONE holds (R275). -/
def Conn.doneQ (k : Conn) : Nat := match k.tcs.getLast? with | some (a, _) => a | none => 0

/-- A message is complete at the initiator: LINKDONE moves on, with its time (R233, R280). -/
def State.endMsg (s : State) (n q : Nat) : State :=
  s.modConn n fun k =>
    let k := { k with out := k.out.filter fun m => m.seq != q }
    if k.doneQ < k.settled then { k with tcs := k.tcs ++ [(k.settled, s.now)] } else k

/-- An error record in the context's fabric error queue, and the port's message (R283). -/
def State.errorRecord (s : State) (ctx : Nat) (ws : List Nat) : State :=
  { s with errq := s.errq.set ctx (s.errq.get [] ctx ++ [ws.map (BitVec.ofNat 64 ·)]) }.portReport

/-- Lines of the RRC, least recently used first (R292). -/
def rrcHits (ctx pkg rva : Nat) (x : RrcLine) : Bool := x.ctx == ctx && x.pkg == pkg && x.rva == rva / 1024 * 1024

/-- A hit: the line moves to the end of the replacement order. -/
def State.rrcTouch (s : State) (ctx pkg rva : Nat) : Option (RrcLine × State) :=
  (s.rrc.find? (rrcHits ctx pkg rva)).map fun x =>
    (x, { s with rrc := s.rrc.filter (fun y => !rrcHits ctx pkg rva y) ++ [x] })

/-- Fills a line: 256 MiB of 1 KiB lines. -/
def State.rrcFill (s : State) (x : RrcLine) : State :=
  let t := s.rrc.filter fun y => !rrcHits x.ctx x.pkg x.rva y
  { s with rrc := (if 2 ^ 18 ≤ t.length then t.drop 1 else t) ++ [x] }

end Sys2Proof.Machine
end

