-- ==== Sys2Proof/Machine/Agents.lean ====
section
/-! DEFINITION. Accesses: the place and checks of an address at issue (R192-R198, R212, R413), requests and what each does at
its agent (R17, R199, R222, R223), replies and their writeback (R78). -/

namespace Sys2Proof.Machine

/-- Space of an address (R63). -/
inductive Space
  | g
  | sp
  | gs
  deriving DecidableEq, Repr

/-- The space of opcode bits 1:0 (R79). -/
def spaceOf (n : Nat) : Space := if n = 1 then .sp else if n = 2 then .gs else .g

def State.ownKey (s : State) (c : Nat) : Nat := (s.team c).key

-- The Burzon range as lanes and chains reach it (R194, R270, R340, R343, R439)

/-- Package semaphore words, chain control blocks, re-execution ports and IMSIC pages, by offset in the Burzon range. -/
def psemOff (o : Nat) : Option (Nat × Nat) := if 0x100000 ≤ o ∧ o < 0x120000 then some ((o - 0x100000) / 32, o % 32) else none
def chainOff (o : Nat) : Option (Nat × Nat) := if 0x200000 ≤ o ∧ o < 0x204000 then some ((o - 0x200000) / 64, o % 64) else none
def rerunOff (o : Nat) : Option Nat := if 0x800000 ≤ o ∧ o < 0x808000 ∧ o % 8 = 0 then some ((o - 0x800000) / 8) else none
def escOff (o : Nat) : Option Nat := if 0x700000 ≤ o ∧ o < 0x700200 ∧ o % 64 = 0 then some ((o - 0x700000) / 64) else none
def imsicOff (o : Nat) : Option (Nat × Nat) := if 0x40000000 ≤ o ∧ o < 0x40020000 then some ((o - 0x40000000) / 4096, o % 4096) else none

/-- Dword j of a chain's control block (R340). -/
def Chain.dword (k : Chain) (j : Nat) : Word :=
  match j with
  | 0 => BitVec.ofNat 64 k.seg
  | 1 => BitVec.ofNat 64 k.tail
  | 2 => BitVec.ofNat 64 k.done
  | 3 => BitVec.ofNat 64 k.seqa
  | 4 => BitVec.ofNat 64 k.msia
  | 5 => k.msid
  | 6 => BitVec.ofNat 64 k.erra
  | _ => k.ctl

/-- A byte of the Burzon range, as a load reads it: what has no contents reads zero. -/
def State.burzonByte (s : State) (o : Nat) : Byte :=
  let b := fun (w : Word) => BitVec.ofNat 8 (getE w 8 (o % 8))
  match psemOff o, chainOff o with
  | some (j, p), _ => if p < 8 then b (BitVec.ofNat 64 (s.psems.get {} j).v) else if p < 16 then b (s.psems.get {} j).w else 0
  | _, some (k, p) => b ((s.chains.get {} k).dword (p / 8))
  | _, _ => match escOff (o / 8 * 8) with | some d => b (s.escid.get 0 d) | none => 0

/-- A load of a Burzon address is accepted (R263, R270, R340, R343); the rest of the range is the service OS's own. -/
def State.burzonLoad (s : State) (ctx o n : Nat) : Bool :=
  match psemOff o with
  | some (j, p) => (p == 0 || p == 8) && n == 8 && s.psemOk ctx j
  | none => (chainOff o).isSome || (imsicOff o).isSome || ((escOff (o / 8 * 8)).isSome)

/-- A store is accepted: V and increment port of a semaphore of the context, TAIL of a chain, the context's re-execution port
from a handler, IMSIC pages. -/
def State.burzonStore (s : State) (ctx o n : Nat) (handler : Bool) : Bool :=
  match psemOff o with
  | some (j, p) => (p == 0 || p == 16) && n == 8 && s.psemOk ctx j
  | none => match chainOff o with
    | some (_, p) => p == 8 && n == 8
    | none => match rerunOff o with
      | some x => x == ctx && n == 8 && handler
      | none => (imsicOff o).isSome || ((escOff o).isSome && n == 8)

/-- Words of a sync unit and of the queues that may be loaded or stored (R270, R355). -/
def syncLoad (o : Nat) : Bool := decide (o < 0x400)
def syncStore (o : Nat) : Bool := (decide (o < 0x400) && o % 16 == 0) || (decide (0x400 ≤ o) && decide (o < 0x600))
def queueLoad (o : Nat) : Bool := decide (o < 256) && (o % 64 == 0 || o % 64 == 8)

/-- The target rules of an access at a place, which come after translation and permission: 0, or the fault (R195, R255, R270,
R355). -/
def State.targetFault (s : State) (ctx : Nat) (handler : Bool) (acc : Acc) (n : Nat) (x : Loc) : Nat :=
  match acc, x with
  | .ld _, .sync _ o | .rawRead, .sync _ o => if syncLoad o then 0 else 0x0C
  | .st, .sync _ o | .rawWrite, .sync _ o => if syncStore o then 0 else 0x0C
  | .ld _, .queue _ o | .rawRead, .queue _ o => if queueLoad o then 0 else 0x0C
  | .ld _, .burzon o | .rawRead, .burzon o => if s.burzonLoad ctx o n then 0 else 0x0C
  | .st, .burzon o | .rawWrite, .burzon o => if s.burzonStore ctx o n handler then 0 else 0x0C
  | .touch, .burzon _ => 0
  | .atomic, .burzon _ | .tileAdd, .burzon _ => 0x0C
  | .touch, .peer .. | .touch, .host _ => 0x0C
  | .mwait _, .hbm _ | .mwait _, .sp .. => 0
  | .mwait _, _ => 0x0C
  | .map, .hbm _ => 0
  | .map, _ => 0x0C
  | _, _ => 0

/-- Place of an address of lane accesses of core c, or the cause of its fault (R192, R198, R212, R413). -/
def State.locate (s : State) (c : Nat) (user : Bool) (p : Space) (acc : Acc) (va size : Nat) : State × Except Nat (Loc × Word) :=
  let ctx := (s.team c).ctx
  if va % size ≠ 0 then (s, .error 0x0A) else
  match p with
  | .g =>
    match s.xlate (some c) ctx user acc va size with
    | (s, .ok (x, leaf)) =>
      let f := s.targetFault ctx (!user) acc size x
      if f = 0 then (s, .ok (x, leaf)) else (s.unlearn (some c) ctx va, .error f)
    | r => r
  | p => match s.spLoc c (p == .gs) va with
    | some x => (s, .ok (x, 0))
    | none => (s, .error 0x0C)

/-- A lane's mode and class (R26). -/
def State.isUser (s : State) (c w l : Nat) : Bool := !(s.lane c w l).handler
def State.laneClass (s : State) (c w l : Nat) : Nat := if (s.lane c w l).handler then 1 else (s.team c).cls

/-- Goes on with the place of a lane's access, or faults the lane (R212). -/
def State.at_ (s : State) (c w l : Nat) (p : Space) (acc : Acc) (va size : Nat) (k : Loc → Word → State → LaneOut × State) :
    LaneOut × State :=
  match s.locate c (s.isUser c w l) p acc va size with
  | (s, .error f) => (.fault f va 0, s)
  | (s, .ok (x, leaf)) => k x leaf s

/-- Goes on once a value is satisfied as a witness (R230-R235). -/
def State.onWit (s : State) (c w l : Nat) (x : Word) (k : State → LaneOut × State) : LaneOut × State :=
  match s.waitWit c w l x with
  | .bad => (.fault 0x10 0 x.toNat, s)
  | .failed n => (.fault 0x14 0 n, s)
  | .wait s => (.park .retry, s)
  | .go s => k s

-- Replies

/-- A reply sets out for its lane. -/
def State.answer (s : State) (who : LaneId) (team id : Nat) (regs : List (Nat × Word × Mark)) (load : Bool := false)
    (kind : Nat := 0) (join : Option (Nat × Nat × Nat) := none) : State :=
  { s with replies := s.replies.set s.seq { who := who, team := team, regs := regs, load := load, id := id, kind := kind, join := join }
           seq := s.seq + 1 }

/-- A loaded value in its registers, with the poison of each granule (R211, R214). -/
def loadRegs (d : Option Nat) (t : Ty) (bs : List Byte) (bad : Nat → Bool) : List (Nat × Word × Mark) :=
  match d with
  | none => []
  | some r =>
    if t = .b128 then
      [(r, BitVec.ofNat 64 (leNat (bs.take 8)), { bad := bad 0 }), (r + 1, BitVec.ofNat 64 (leNat (bs.drop 8)), { bad := bad 8 })]
    else [(r, placed t (leNat bs), { bad := bad 0 })]

/-- The witness of an access performed now at a place, with the scope of the instruction (R215, R254). -/
def State.witAt (s : State) (x : Loc) (sc : Scope) : Word :=
  match x with
  | .burzon _ => frontier 7 s.now
  | .host _ => frontier 8 s.now
  | _ => point x.agent sc.code.toNat s.now

/-- Places and lengths that a request touches. -/
def Req.spans (r : Req) : List (Loc × Nat) :=
  match r.op with
  | .load t => [(r.loc, t.bytes)]
  | .store data _ => [(r.loc, data.length)]
  | .atomic _ t .. => [(r.loc, t.bytes)]
  | .stp data q _ _ => [(r.loc, data.length), (q, data.length)]
  | .tile m rows _ => rows.map fun x => (x.loc, 4 * m.w)
  | .touch => [(r.loc, 1)]
  | .cwb _ => [(r.loc, 128)]
  | .unit 0 _ => [(r.loc, 16)]
  | .unit _ _ => [(r.loc, 64)]
  | _ => [(r.loc, 8)]

/-- A place as a class of places and an offset. -/
def Loc.pos : Loc → Nat × Nat
  | .hbm p => (0, p)
  | .pool c o => (1, c * 2 ^ 21 + o)
  | .sp c o => (2, c * 2 ^ 21 + o)
  | .sync c o => (3, c * 2 ^ 21 + o)
  | .queue c o => (4, c * 2 ^ 21 + o)
  | .control c o => (5, c * 2 ^ 21 + o)
  | .burzon o => (6, o)
  | .host a => (7, a)
  | .peer k a => (8, k * 2 ^ 52 + a)

/-- Two lists of spans share a byte. -/
def State.meet (s : State) (xs ys : List (Loc × Nat)) : Bool :=
  xs.any fun (x, n) => ys.any fun (y, m) =>
    let (k, a) := (s.place x).pos
    let (j, b) := (s.place y).pos
    k == j && decide (a < b + m) && decide (b < a + n)

/-- Bytes of a stored row (R167). -/
def rowBytes (f : Option FmtWord) (dbl : Bool) : Nat :=
  if dbl then 256 else match f with | some f => 4 * f.aty.width | none => 128

/-- Places and lengths that an operation of the matrix engine reads or writes. -/
def MxOp.spans (o : MxOp) : List (Loc × Nat) :=
  match o.k with
  | .mst _ rows _ m .. => rows.map fun x => (x, 4 * m.w)
  | .mld _ rows f dbl _ => rows.map fun x => (x, rowBytes f dbl)
  | _ => []

/-- An access of the lane to some of these bytes has issued, and its place in the agent's order is not taken yet (R222). -/
def State.laneBusy (s : State) (c w l : Nat) (x : Loc) (n : Nat) : Bool :=
  (s.reqs.any fun (_, q) => q.of c w l && q.team == s.ownKey c && s.meet q.spans [(x, n)]) ||
  (s.mx.get [] c).any fun o => o.slot == w && o.lanes.has l && s.meet o.spans [(x, n)]

-- Requests

/-- Sends a request of a lane, or of lanes. -/
def State.push (s : State) (c w l : Nat) (x : Loc) (leaf : Word) (op : ReqOp) (d : Option Nat) (own : Bool := false)
    (path : Option Nat := none) (join : Option Nat := none) (lanes : Mask := Mask.one l) (inst : Nat := 0) : State :=
  let r : Req := { who := ⟨c, w, l⟩, lanes := lanes, team := s.ownKey c, own := own, ord := s.seq, inst := inst, ctx := (s.team c).ctx
                   cls := s.laneClass c w l, loc := x, op := op, dst := d, path := path, leaf := leaf, join := join, since := s.now }
  { s with reqs := s.reqs.set s.seq r, seq := s.seq + 1 }

/-- The register that a lane's result goes to: a uniform one takes the first executing lane's alone (R56). -/
def dstOf (d : BitVec 8) (first : Bool) : Option Nat := (dstReg d).filter fun r => decide (r < 128) || first

/-- A request of one lane whose reply writes n registers from D on. -/
def State.request (s : State) (c w l : Nat) (first : Bool) (x : Loc) (leaf : Word) (op : ReqOp) (d : BitVec 8) (n : Nat)
    (own : Bool := false) (path : Option Nat := none) (inst : Nat := 0) : State :=
  let d := dstOf d first
  (s.expect c w l first d n s.seq).push c w l x leaf op d own path (inst := inst)

/-- A result that needs no agent: n registers wait for a reply that sets out at once (R78). -/
def State.soon (s : State) (c w l : Nat) (first : Bool) (regs : List (Nat × Word × Mark)) (load : Bool := false)
    (kind : Nat := 0) : State :=
  let id := s.seq
  let s := { s with seq := s.seq + 1 }
  let s := regs.foldl (fun s r => s.expect c w l first (some r.1) 1 id) s
  s.answer ⟨c, w, l⟩ (s.ownKey c) id regs load kind

/-- Bytes of host memory, or of contents that no chapter describes (log entry 22). -/
def State.outside (s : State) (n : Nat) : List Byte × State :=
  ((List.range n).map fun j => Config.outsideByte (s.free + j), { s with free := s.free + n })

/-- A connection's state for a lane that would use it: fault, wait, or the number (R275, R291). -/
def State.useConn (s : State) (n : Nat) (k : State → LaneOut × State) : LaneOut × State :=
  if (s.conn n).failed then (.fault 0x14 0 n, s) else if !s.canSend n then (.park .retry, s) else k s

/-- A lane's message takes the next number of its connection (R278); the lane has made a fabric write (R240). -/
def State.laneMsg (s : State) (c w l n : Nat) (m : Msg) : State × Nat :=
  let (s, q) := s.sendMsg n m
  (s.modLane c w l fun x => { x with fab := x.fab.set n q }, q)

/-- Contexts whose Palette keeps stage queues in the page of a physical address (R378). -/
def State.queueStore (s : State) (pa : Nat) : List Nat :=
  s.pal.filterMap fun (x, p) =>
    let bytes := p.count * 128
    if (List.range ((bytes + 65535) / 65536)).any fun i =>
        decide (i * 65536 + pa % 65536 < bytes) && (match s.walk x (p.qbase + i * 65536) with
          | some (leaf, level, _) => Word.field leaf 9 7 == 0 && leafPa leaf level (p.qbase + i * 65536) / 65536 == pa / 65536
          | none => false)
    then some x else none

-- The L1 data cache (R203, R204)

def l1Key (c line : Nat) : Nat := c * 2 ^ 40 + line

/-- 4-byte words of a line that some bytes touch, or cover whole (R203). -/
def l1Touch (pa n : Nat) : BitVec 32 := BitVec.ofNat 32 ((2 ^ ((pa % 128 + n + 3) / 4) - 1) / 2 ^ (pa % 128 / 4) * 2 ^ (pa % 128 / 4))
def l1Words (pa n : Nat) : BitVec 32 :=
  BitVec.ofNat 32 ((2 ^ ((pa % 128 + n) / 4) - 1) / 2 ^ ((pa % 128 + 3) / 4) * 2 ^ ((pa % 128 + 3) / 4))

/-- Puts a line into a core's L1 of 1,024 lines; which line leaves a full one is the part's own choice (R16, log entry 14). -/
def State.l1Put (s : State) (c line : Nat) (y : L1Line) : State :=
  let own := if (s.l1.find? (l1Key c line)).isSome then [] else (s.l1.filter fun (k, _) => k / 2 ^ 40 == c).map (·.1)
  if own.length < 1024 then { s with l1 := s.l1.set (l1Key c line) y }
  else { s with free := s.free + 1, l1 := (s.l1.erase (own.getD (Config.victim s.free % own.length) 0)).set (l1Key c line) y }

/-- No cache keeps a copy of the bytes at a place: DEC pages, registered granules, stage queues, and all but memory (R202, R203). -/
def State.uncached (s : State) (leaf : Word) (x : Loc) : Bool :=
  match x with
  | .hbm pa => Word.bit leaf 13 || (s.registered pa).isSome || !(s.queueStore pa).isEmpty
  | _ => true

/-- Bytes that a load of a lane finds in its core's L1, with their poison: the line is its context's, every word that it touches is valid,
and no access of the lane to these bytes is on its way (R203, R204, R409). -/
def State.l1Hit (s : State) (c w l : Nat) (leaf : Word) (x : Loc) (n : Nat) : Option (List Byte × (Nat → Bool)) :=
  match x with
  | .hbm pa =>
    ((s.l1.find? (l1Key c (pa / 128))).filter fun y => y.ctx == (s.team c).ctx && l1Touch pa n &&& ~~~y.valid == 0 &&
      !s.uncached leaf x && !s.laneBusy c w l x n).map fun y => ((y.bytes.drop (pa % 128)).take n, fun j => y.bad.getD ((pa % 128 + j) / 8) false)
  | _ => none

/-- Sends a load to its place (R214, R291, R292). `lva` is the address in the lane's own space. -/
def State.sendLoad (s : State) (c w l : Nat) (first : Bool) (x : Loc) (leaf : Word) (op : ReqOp) (d : BitVec 8) (t : Ty) (lva : Nat)
    (own : Bool := false) : LaneOut × State :=
  let ctx := (s.team c).ctx
  let kind := match op with | .fld => 3 | _ => 0
  match x with
  | .burzon o =>
    if s.laneBusy c w l x t.bytes then (.park .retry, s) else
    (.done, s.soon c w l first (loadRegs (dstOf d first) t ((List.range t.bytes).map fun j => s.burzonByte (o + j)) fun _ => false) true kind)
  | .host _ =>
    let (bs, s) := s.outside t.bytes
    (.done, s.soon c w l first (loadRegs (dstOf d first) t bs fun _ => false) true kind)
  | .peer pkg va =>
    match s.route ctx pkg with
    | none => (.fault 0x0C lva 0, s)
    | some n =>
      if (s.conn n).failed then (.fault 0x14 0 n, s) else if !(s.conn n).up then (.park .retry, s) else
      let fill := !Word.bit leaf 2
      match if fill then s.rrcTouch ctx pkg va else none with
      | some (line, s) =>
        (.done, s.soon c w l first (loadRegs (dstOf d first) t ((line.bytes.drop (va % 1024)).take t.bytes)
          fun j => line.bad.getD ((va + j) % 1024 / 8) false) true kind)
      | none =>
        let id := s.seq
        let s := s.expect c w l first (dstOf d first) t.regs id
        let f : RrcFetch := { conn := n, ctx := ctx, pkg := pkg, rva := va, page := lva / 65536, size := t.bytes, who := ⟨c, w, l⟩, team := s.ownKey c, dst := dstOf d first, ty := t, id := id, fill := fill, kind := kind, since := s.now }
        (.done, { s with rrcFetch := s.rrcFetch.set id f, seq := s.seq + 1 })
  | x => match s.l1Hit c w l leaf x t.bytes with
    | some (bs, bad) => (.done, s.soon c w l first (loadRegs (dstOf d first) t bs bad) true kind)
    | none => (.done, s.request c w l first x leaf op d t.regs own)

/-- A host access of more than 8 bytes is accesses of 8, ascending (R212). -/
def hostWrites (a : Nat) (data : List Byte) : List (List Nat) :=
  if data.length ≤ 8 then [0 :: a :: data.map BitVec.toNat]
  else [0 :: a :: (data.take 8).map BitVec.toNat, 0 :: (a + 8) :: (data.drop 8).map BitVec.toNat]

/-- Writes TAIL of a chain (R353): entries up to it wait for the witness, evaluated around a core. -/
def State.writeTail (s : State) (k tail : Nat) (wit : Word) (core : Nat) : State :=
  let x := s.chains.get {} k
  { s with chains := s.chains.set k { x with tail := tail, gates := x.gates ++ [(tail, wit, core)] } }

/-- A store that the Burzon die accepts at once (R215, R343, R439). -/
def State.burzonPut (s : State) (o : Nat) (data : List Byte) : State :=
  match chainOff o, rerunOff o, imsicOff o with
  | some (k, _), _, _ => s.writeTail k (leNat data) 0 0
  | _, some x, _ => { s with reexec := s.reexec ++ [(x, leNat data % 65536)] }
  | _, _, some (p, at_) =>
    let id := leNat data
    if data.length = 4 ∧ at_ = 0 ∧ 1 ≤ id ∧ id < 2048 then s.sendMsi p id else s
  | _, _, _ => match escOff o with
    | some d => { s with escid := s.escid.set d (BitVec.ofNat 64 (leNat data % 2048)) }
    | none => s

/-- A lane's D receives a witness made at issue. -/
def State.putWit (s : State) (c w l : Nat) (first : Bool) (d : BitVec 8) (x : Word) : State := s.put c w l first d x

/-- Sends a store to its place (R215, R291). -/
def State.sendStore (s : State) (c w l : Nat) (first : Bool) (x : Loc) (leaf : Word) (op : ReqOp) (data : List Byte) (d : BitVec 8)
    (sc : Scope) (lva : Nat) (own : Bool := false) : LaneOut × State :=
  let ctx := (s.team c).ctx
  match x with
  | .burzon o =>
    if (psemOff o).isSome then (.done, s.request c w l first x leaf op d 1)
    else
      let s := (s.burzonPut o data).noteStamp ⟨c, w, l⟩ burzonAgent s.now
      (.done, s.putWit c w l first d (frontier 7 s.now))
  | .host a =>
    let s := { s with outbox := s.outbox ++ hostWrites a data }.noteStamp ⟨c, w, l⟩ pcieAgent s.now
    (.done, s.putWit c w l first d (frontier 8 s.now))
  | .peer pkg va =>
    match s.route ctx pkg with
    | none => (.fault 0x0C lva 0, s)
    | some n => s.useConn n fun s =>
      let m : Msg := { seq := 0, kind := 0, who := ⟨c, w, l⟩, team := s.ownKey c, ctx := ctx, lva := lva, rva := va, len := data.length, dst := none, id := 0, fut := none, ty := .n8, sc := sc, endp := 65536, words := [BitVec.ofNat 64 (leNat (data.take 8)), BitVec.ofNat 64 (leNat (data.drop 8))], fen := false, sent := 0, cls := s.laneClass c w l }
      let (s, q) := s.laneMsg c w l n m
      (.done, s.putWit c w l first d (linkWit sc.code.toNat n q))
  | x => (.done, s.request c w l first x leaf op d 1 own)

/-- Atomics that the host and a peer perform (R255). -/
def hostAtom (op : Nat) (t : Ty) : Bool := (op == 0 && t.isI) || (op == 7 && (t.width == 32 || t.width == 64)) || (op == 8)
def peerAtom (op : Nat) (t : Ty) : Bool := (op == 0 && (t.isI || t == .f32)) || (op == 8 && t != .b128)

/-- Sends an atomic to its place (R251, R252, R254, R255). B and C are numbers of the operand's width. -/
def State.sendAtomic (s : State) (c w l : Nat) (first : Bool) (x : Loc) (leaf : Word) (op : Nat) (t : Ty) (b cc : Nat) (d : BitVec 8)
    (sc : Scope) (lva : Nat) (old : Bool) (own : Bool) (inst : Nat) : LaneOut × State :=
  let ctx := (s.team c).ctx
  let ask := s.request c w l first x leaf (.atomic op t b cc sc old) d (if old then t.regs + 1 else 1) own (some c) inst
  match x with
  | .host _ => if hostAtom op t then (.done, ask) else (.fault 0x0C lva 0, s.unlearn (some c) ctx lva)
  | .peer pkg _ =>
    -- an operation that no peer takes, then the permit (R449)
    if !peerAtom op t then (.fault 0x0C lva 0, s.unlearn (some c) ctx lva)
    else if !Word.bit leaf 10 then (.fault 0x0E lva 0, s.unlearn (some c) ctx lva) else
    match s.route ctx pkg with
    | none => (.fault 0x0C lva 0, s)
    | some k => if (s.conn k).failed then (.fault 0x14 0 k, s) else if !s.canSend k then (.park .retry, s) else (.done, ask)
  | _ => (.done, ask)

-- Performing a request

/-- Place of a request on its path: a forwarded copy follows by the order in which first halves were performed (R216, R249). -/
def Req.pathOrd (r : Req) : Nat := if r.path.any (decide <| 10000 ≤ ·) then r.inst else r.ord

/-- A request comes before another on its way: by path and agent, or as an access of one lane to one place (R216, R222, R249). -/
def State.before (s : State) (q r : Req) : Bool :=
  (q.path.isSome && q.path == r.path && decide (q.pathOrd < r.pathOrd) && (s.place q.loc).agent == (s.place r.loc).agent) ||
  (decide (q.ord < r.ord) && q.who.core == r.who.core && q.who.slot == r.who.slot && q.team == r.team && q.lanes &&& r.lanes != 0 &&
    s.meet q.spans r.spans)

/-- An operation that still waits in the engine comes before a request of its warp: a `mst` on the drain path, or an access of the lane to
the same place (R222, R249). -/
def State.behindTile (s : State) (r : Req) : Bool :=
  (s.mx.get [] r.who.core).any fun o => o.slot == r.who.slot && decide (o.id < r.ord) &&
    ((r.path == some r.who.core && (match o.k with | .mst .. => true | _ => false)) || (o.lanes &&& r.lanes != 0 && s.meet o.spans r.spans))

/-- The team whose scratchpad or pool a request names has gone from its core (R408, R419). -/
def State.gone (s : State) (r : Req) : Bool :=
  match r.loc with
  | .pool c _ | .sp c _ | .sync c _ | .queue c _ => if r.own then !s.hasTeam c r.team else !s.holds c r.ctx
  | _ => false

/-- Lines that an HA's slice of 1.5 MiB holds, and whether one can become dirty there (R18, log entry 82). -/
def sliceLines : Nat := 12288
def State.l2Room (s : State) (x : Loc) : Bool :=
  match x with
  | .hbm pa => s.dirty.get false (pa / 128) || decide (s.dirty.countP (fun (k, _) => haOf (k * 128) == haOf pa) < sliceLines)
  | _ => true

/-- What a request needs at its place is there: a unit's team on its core (R419), room in the slice (R18), a connection that can send
(R278). -/
def State.placeOpen (s : State) (r : Req) : Bool :=
  match s.place r.loc with
  | .sync c _ | .queue c _ => s.gone r || (match s.teams.find? c with | some t => t.ctx == r.ctx | none => false)
  | .peer pkg _ => match s.route r.ctx pkg with | some n => (s.conn n).failed || s.canSend n | none => true
  | x => !r.op.isWrite || s.l2Room x

/-- Request k can be performed now. -/
def State.canPerform (s : State) (r : Req) : Bool :=
  s.placeOpen r && !s.behindTile r && s.reqs.all fun (_, q) => !s.before q r

/-- The owner tag that a write leaves (R174). -/
def Req.tag (r : Req) : Option Nat := if Word.bit r.leaf 13 then some r.ctx else none

/-- Reads of control regions: a warp's escalation block (R438), else contents that no chapter describes. -/
def State.controlBytes (s : State) (c o n : Nat) : List Byte × State :=
  if 0x8000 ≤ o ∧ o < 0x8000 + 64 * 48 then
    let x := s.warp c ((o - 0x8000) / 64)
    let w := fun (k : Nat) => if k / 8 = 0 then x.estat else if k / 8 = 2 then x.erec else 0
    ((List.range n).map fun j => BitVec.ofNat 8 (getE (w ((o + j) % 64)) 8 ((o + j) % 8)), s)
  else s.outside n

/-- Reads at a place, at its agent. -/
def State.readAt (s : State) (x : Loc) (n : Nat) : List Byte × State :=
  match x with
  | .sync c o =>
    let q := s.sem (.core c (o / 16))
    (leBytes n (if o % 16 = 0 then q.v else q.w.toNat), s)
  | .queue c o =>
    let q := (s.team c).aq.get {} (o / 64)
    (leBytes n (if o % 64 = 0 then q.pushes else q.pops), s)
  | .control c o => s.controlBytes c o n
  | x => (s.bytes x n, s)

/-- The core whose own L1 a write updates. -/
def Req.l1Own (r : Req) : Option Nat := if r.who.lane < 32 then some r.who.core else none

/-- The core's L1 holds words of a line, as its HA has the line now (R203, R204). A copy that another agent's write has made stale is
replaced, so that no word of it comes back older than what the core has just been given. -/
def State.l1Fill (s : State) (r : Req) (x : Loc) (words : BitVec 32) : State :=
  match x, r.l1Own with
  | .hbm pa, some c =>
    if words = 0 ∨ s.uncached r.leaf x then s else
    let old := ((s.l1.find? (l1Key c (pa / 128))).filter fun y => y.ctx == r.ctx && !y.stale).map (·.valid)
    s.l1Put c (pa / 128) { ctx := r.ctx, valid := old.getD 0 ||| words, bytes := s.lineBytes (pa / 128), bad := s.lineBad (pa / 128) }
  | _, _ => s

/-- A core's access is performed at the HAs of some places: stale copies of their lines leave its L1 (R204). -/
def State.l1Catch (s : State) (r : Req) : State :=
  match r.l1Own with
  | some c =>
    let lines := r.spans.filterMap fun (x, _) => match x with | .hbm pa => some (pa / 128) | _ => none
    { s with l1 := s.l1.filter fun (k, y) => !(y.stale && k / 2 ^ 40 == c && lines.contains (k % 2 ^ 40)) }
  | none => s

/-- Writes at a place, at its agent: what a store to a sync unit or a control region does is its unit's (R270, R438). -/
def State.writeAt (s : State) (r : Req) (x : Loc) (data : List Byte) (sc : Scope) : State :=
  match x with
  | .sync c o =>
    if o < 0x400 then s.semSet (.core c (o / 16)) (leNat data)
    else s.semInc (.core c ((o - 0x400) / 8)) (leNat data) (s.witAt x sc)
  | .control c o => if 0x8000 ≤ o ∧ o < 0x8000 + 64 * 48 ∧ o % 64 = 8 then s.ectl c ((o - 0x8000) / 64) (leNat data) else s
  | .queue .. => s
  | x => (s.agentWrite x data r.tag r.l1Own).l1Fill r x (match x with | .hbm pa => if 4 ≤ data.length then l1Words pa data.length else 0 | _ => 0)

/-- Records a write of a request's lanes (R240), under the one time of all agents (R24, log entry 83). -/
def State.stampFor (s : State) (r : Req) (agent : Nat) : State :=
  s.forTeam r.who.core r.team fun s => r.lanes.lanes.foldl (fun s l => s.noteStamp ⟨r.who.core, r.who.slot, l⟩ agent s.now) s

/-- Sends a witness to a request's lanes: each lane of a joint request receives it. -/
def State.answerWit (s : State) (who : LaneId) (lanes : Mask) (team id : Nat) (d : Option Nat) (w : Word) : State :=
  match d with
  | none => s
  | some r => lanes.lanes.foldl (fun s l =>
      if r < 128 ∨ some l = lanes.lanes.head? then s.answer { who with lane := l } team id [(r, w, {})] else s) s

/-- A sample of a joint request has been performed at an agent, whose closed tick its handle waits for (R375). -/
def State.joinOpens (s : State) (j : Option Nat) (agent : Nat) : State :=
  match j with
  | none => s
  | some k => { s with joins := s.joins.map fun (i, x) => (i, if i = k then { x with shut := x.shut.map fun o => s.opensMore o [agent] } else x) }

/-- All parts of a joint request are done, and what it wrote has closed (R375, R376). -/
def State.joinOver (s : State) (j : Nat) (x : Join) : State :=
  let wit := s.mergeAll x.who.core x.wits
  match x.fut with
  | some f => { s with joins := s.joins.erase j }.futDone (some f) wit
  | none => { s with joins := s.joins.erase j }.answerWit x.who x.lanes x.team x.id x.dst wit

/-- Joint requests that have waited for their last writes to close (R375). -/
def State.closeJoins (s : State) : State :=
  s.joins.foldl (fun (s : State) (k, x) => match x.left, x.shut with
    | 0, some o => match s.shut o with
      | .ok => s.joinOver k { x with wits := [frontier 7 s.now] }
      | _ => s
    | _, _ => s) s

/-- One part of a joint request is done (R169, R216): with the last one, the merged witness sets out. -/
def State.joinWit (s : State) (j : Nat) (w : Word) : State :=
  match s.joins.find? j with
  | none => s
  | some x =>
    let x := { x with left := x.left - 1, wits := x.wits ++ [w] }
    if x.left = 0 ∧ (x.shut.getD {}).none then s.joinOver j x else { s with joins := s.joins.set j x }

/-- The witness of a request goes to its join, or to its lanes. -/
def State.giveWit (s : State) (k : Nat) (r : Req) (w : Word) : State :=
  match r.join with
  | some j => s.joinWit j w
  | none => s.answerWit r.who r.lanes r.team k r.dst w

/-- Registers that a request's reply writes. -/
def Req.results (r : Req) : Nat :=
  match r.op with
  | .load t => t.regs
  | .atomic _ t _ _ _ true => t.regs + 1
  | _ => 1

/-- A request whose place has gone does nothing there; the first reader of a register that it would have written takes the fault (R282,
R419, log entry 78). -/
def State.refuse (s : State) (k : Nat) (r : Req) (fault aux : Nat) : State :=
  match r.join, r.dst with
  | some j, _ => s.joinWit j 0
  | none, some d => r.lanes.lanes.foldl (fun s l =>
      s.answer { r.who with lane := l } r.team k ((List.range r.results).map fun j => (d + j, 0, { fault := fault, aux := aux })) r.op.isLoad) s
  | none, none => s

/-- One element of a tile that a row stores (R168): its new code from the old one. -/
def TileMode.elem (m : TileMode) (old x draw : Nat) : Nat :=
  let f := tyNum m.ty m.un m.inf
  match m.how with
  | 0 => if m.add then f32.round .rne false 0 (sumFV .rne [f32.val old, f32.val x]).x else x
  | 1 => (old + x) % 2 ^ 32
  | 2 => if m.add then f64.round .rne false 0 (sumFV .rne [f64.val old, f64.val x]).x else x
  | _ =>
    if !m.add then cvt (.flt f32) f m.rm m.sat draw x
    else match f with
      | .flt g => g.round m.rm m.sat draw (sumFV m.rm [g.val old, f32.val x]).x
      | .int sg w =>
        match sumFV m.rm [(let v := intVal sg w old; FV.fin (decide (v < 0)) v.natAbs 0), f32.val x] with
        | .nan => 0
        | .inf n => intCode w (if n then intMin sg w else intMax sg w)
        | .fin n a e => intCode w (clampInt sg w (roundInt m.rm draw n a 1 e))
      | _ => x

/-- A code of `w` bits in bytes. -/
def elemAt (w : Nat) (bs : List Byte) (n : Nat) : Nat := leNat bs / 2 ^ (w * n) % 2 ^ w

/-- One row at its place (R168, R169); a row whose old bytes are poisoned granules keeps their poison under `.add`. -/
def State.putTileRow (s : State) (r : Req) (m : TileMode) (row : TileRow) : State :=
  let x := s.place row.loc
  let n := 4 * m.w
  let old := s.bytes x n
  let bad := (List.range (n / 8)).map fun g => (m.add && s.bad (x.add (8 * g))) || row.bad.getD g false
  let es := (List.range 32).map fun i => m.elem (elemAt m.w old i) (row.vals.getD i 0) (row.draws.getD i 0)
  let s := s.agentWrite x (leBytes n (joinE m.w es)) r.tag r.l1Own
  ((List.range (n / 8)).foldl (fun (s : State) g => if bad.getD g false then s.setBad true (x.add (8 * g)) else s) s)

/-- The 16-byte update of a visible sample (R375): arguments are depth, instance and triangle. -/
def visible (z inst tri : Nat) (old : List Byte) : Option (List Byte) :=
  let oz := leNat (old.take 4)
  let otri := leNat ((old.drop 4).take 4)
  let oinst := leNat ((old.drop 8).take 4)
  let less := f32.val z |>.lt false (f32.val oz)
  let more := f32.val oz |>.lt false (f32.val z)
  let ids := decide (inst < oinst) || (inst == oinst && decide (tri < otri))
  if (f32.val oz).isNan || less || (!more && ids) then some (leBytes 16 (z + tri * 2 ^ 32 + inst * 2 ^ 64)) else none

/-- Stamps of bytes that a line's write-back compares: elements of a TOL page (R208). -/
def tolElems (et : Nat) (bs : List Byte) : List Nat :=
  let w := if et = 0 then 32 else if et = 3 then 8 else 16
  (List.range (1024 / w)).map (elemAt w bs)

/-- Distance of two elements (R208), or none where they never merge. -/
def tolDist (et a b : Nat) : Option Nat :=
  let f := if et = 0 then f32 else if et = 1 then f16 else bf16
  let ord := fun (c : Nat) => if c / 2 ^ (f.width - 1) = 1 then -((c % 2 ^ (f.width - 1) : Nat) : Int) else (c : Int)
  if 3 ≤ et then some (max a b - min a b)
  else match f.val a, f.val b with
    | .fin .., .fin .. => some (ord a - ord b).natAbs
    | _, _ => none

/-- Every element lies within T of a representative (R209). -/
def tolNear (et t : Nat) (a b : List Byte) : Bool :=
  ((tolElems et a).zip (tolElems et b)).all fun (x, y) => match tolDist et x y with | some d => decide (d ≤ t) | none => false

/-- Representatives of the line's tolerance that its HA holds within reach (R209). -/
def State.repsNear (s : State) (tolf line : Nat) : List Rep :=
  s.reps.filter fun r => r.ha == haOf (line * 128) && r.et == tolf / 32 && r.t == tolf % 32 && tolNear r.et r.t (s.lineBytes line) r.bytes

/-- Writes a dirty line back (R205, R209): a line of a TOL page takes a representative's values, with the poison of its granules
(R211), or becomes one. -/
def State.writeBack (s : State) (line : Nat) (tolf : Option Nat) (rep : Option Rep) : State :=
  let x := Loc.hbm (line * 128)
  let s := { s with dirty := s.dirty.erase line }
  match tolf, rep with
  | some _, some r =>
    let t := s.agentWrite x r.bytes (s.tags.find? line) none
    { (List.range 16).foldl (fun (t : State) g => if r.bad.getD g false then t.setBad true (x.add (8 * g)) else t) t with dirty := s.dirty }
  | some f, none =>
    { s with reps := s.reps ++ [{ ha := haOf (line * 128), et := f / 32, t := f % 32, bytes := s.lineBytes line, bad := s.lineBad line }] }
  | none, _ => s

/-- The tolerance field of a leaf with TOL set. -/
def tolOf (leaf : Word) : Option Nat := if Word.bit leaf 12 then some (Word.field leaf 23 16) else none

/-- A write-back that an instruction asks for: it merges with some representative within reach, or with none (log entry 24). -/
def State.writeBackNow (s : State) (line : Nat) (leaf : Word) : State :=
  if !s.dirty.get false line then s else
  let near := match tolOf leaf with | some f => s.repsNear f line | none => []
  let pick := Config.mergePick s.free % (near.length + 1)
  { s with free := s.free + 1 }.writeBack line (tolOf leaf) near[pick]?

/-- Copies a registered granule to memory: bytes with their poison, each line at its HA (R200, R218). -/
def State.granuleOut (s : State) (c : Nat) (m : MapEnt) : State :=
  (List.range 512).foldl (fun (s : State) g =>
    let x := Loc.sp c (m.gr * 4096 + 8 * g)
    s.agentWrite (.hbm (m.pa + 8 * g)) (s.bytes x 8) none none (s.bad x)) s

/-- Copies memory into a granule (R221). -/
def State.granuleIn (s : State) (c : Nat) (m : MapEnt) : State :=
  (List.range 512).foldl (fun (s : State) g =>
    let x := Loc.hbm (m.pa + 8 * g)
    s.agentWrite (.sp c (m.gr * 4096 + 8 * g)) (s.bytes x 8) none none (s.bad x)) s

/-- Points at the HAs that home a granule's blocks, merged (R218). -/
def State.granuleWit (s : State) (c pa : Nat) (sc : Scope) : Word :=
  s.mergeAll c ((List.range 4).map fun b => point (haOf (pa + 1024 * b)) sc.code.toNat s.now)

def State.setMap (s : State) (c e : Nat) (m : Option MapEnt) : State :=
  s.modTeam c fun t => { t with map := match m with | some m => t.map.set e m | none => t.map.erase e }

/-- `cwb` at its place (R218). -/
def State.performCwb (s : State) (k : Nat) (r : Req) (sc : Scope) : State :=
  match r.loc with
  | .hbm pa =>
    match s.registered pa with
    | some (c, e, m) =>
      let s := if m.dirty then (s.granuleOut c m).setMap c e (some { m with dirty := false }) else s
      ((List.range 4).foldl (fun s b => s.stampFor r (haOf (m.pa + 1024 * b))) s).giveWit k r (s.granuleWit r.who.core m.pa sc)
    | none => ((s.writeBackNow (pa / 128) r.leaf).stampFor r (haOf pa)).giveWit k r (s.witAt r.loc sc)
  | x => (s.stampFor r x.agent).giveWit k r (s.witAt x sc)

/-- An atomic of the host's leaves by the PCIe ordering point: the old value comes from outside (R254, R255, log entry 22). -/
def State.hostAtomic (s : State) (k : Nat) (r : Req) (a op : Nat) (t : Ty) (b c : Nat) (old : Bool) : State :=
  let s := { s with outbox := s.outbox ++ [[1, a, op, t.bytes, b, c]] }.stampFor r pcieAgent
  let (bs, s) := s.outside t.bytes
  let wit := frontier 8 s.now
  match r.dst with
  | some d => if old then s.answer r.who r.team k (loadRegs (some d) t bs (fun _ => false) ++ [(d + t.regs, wit, ({} : Mark))]) true else s.giveWit k r wit
  | none => s

/-- An atomic to a peer leaves as a message of its connection (R254, R278): the reply comes with its acknowledgement, or, for `atomr`, the
link witness at once. On a connection that has failed since, the first reader of its result takes the link failure (R282). -/
def State.peerAtomic (s : State) (k : Nat) (r : Req) (pkg va op : Nat) (t : Ty) (b c : Nat) (sc : Scope) (old : Bool) : State :=
  match s.route r.ctx pkg with
  | none => s.refuse k r 0x0C 0
  | some n =>
    if (s.conn n).failed then s.refuse k r 0x14 n else
    let m : Msg := { seq := 0, kind := 2, who := r.who, team := r.team, ctx := r.ctx, lva := va, rva := va, len := op, dst := if old then r.dst else none, id := k, fut := none, ty := t, sc := sc, endp := 65536, words := [BitVec.ofNat 64 b, BitVec.ofNat 64 c], fen := false, sent := 0, cls := r.cls }
    let (s, q) := s.sendMsg n m
    let s := s.forTeam r.who.core r.team fun s => s.modLane r.who.core r.who.slot r.who.lane fun x => { x with fab := x.fab.set n q }
    if old then s else s.giveWit k r (linkWit sc.code.toNat n q)

/-- An atomic at its agent, indivisibly (R251); one on a poisoned granule is refused and counted (R257). -/
def State.performAtomic (s : State) (k : Nat) (r : Req) (x : Loc) (op : Nat) (t : Ty) (b c : Nat) (sc : Scope) (old : Bool) : State :=
  let n := t.bytes
  let bs := s.bytes x n
  let bad := s.badIn x n
  let wit := s.witAt x sc
  let s := if bad then s.count (0x10000 + x.agent) 1 else match atomNew op t t.width (leNat bs) b c with
    | some v => s.agentWrite x (leBytes n v) r.tag r.l1Own
    | none => s
  let s := s.stampFor r x.agent
  match r.dst with
  | none => s.giveWit k r wit
  | some d =>
    if old then s.answer r.who r.team k (loadRegs (some d) t bs (fun _ => bad) ++ [(d + t.regs, wit, {})]) true
    else s.giveWit k r wit

/-- `atomd` at the HA, with the step that it has adopted (R182, R190). -/
def State.performAtomd (s : State) (k : Nat) (r : Req) (x : Loc) (new : CtxSt → Word → Nat → Word) (sides : List Word) (sc : Scope) : State :=
  let y := s.ctxs.get {} r.ctx
  let g := y.stepAt x.agent
  let old : Word := BitVec.ofNat 64 (leNat (s.bytes x 8))
  let regs := match r.dst with | some d => [(d, old, {}), (d + 1, s.witAt x sc, {})] | none => []
  if s.bad x then s.answer r.who r.team k regs true (join := r.join.map fun j => (j, 0x11, 0))
  else
    let s := (old :: sides).foldl (fun s w => s.stale r.ctx w g) s
    let s := (s.agentWrite x (leBytes 8 (new y old (g % 2 ^ 24)).toNat) r.tag r.l1Own).stampFor r x.agent
    s.answer r.who r.team k regs true (join := r.join.map fun j => (j, 0, 0))

/-- Translates for a lane that waits, in its own mode: the place or a fault. -/
def State.laneXlate (s : State) (r : Req) (acc : Acc) (va size : Nat) : State × Except Nat (Loc × Word) :=
  let (s, x) := s.xlate (some r.who.core) r.ctx (r.cls != 1) acc va size
  match x with
  | .ok (y, leaf) =>
    let f := s.targetFault r.ctx (r.cls == 1) acc size y
    if f = 0 then (s, .ok (y, leaf)) else (s.unlearn (some r.who.core) r.ctx va, .error f)
  | e => (s, e)

/-- Stage queues whose storage software has written are no longer kept (R378). -/
def State.breakQueues (s : State) (xs : List Loc) : State :=
  if s.pal.isEmpty then s else
  xs.foldl (fun (s : State) x => match x with
    | .hbm pa => (s.queueStore pa).foldl (fun s y => { s with pal := s.pal.set y { s.pal.get {} y with broken := true } }) s
    | _ => s) s

/-- An engine's write at a place; a write to a peer is a message, whose connection and number it answers (R278, R291). -/
def State.engineWrite (s : State) (who : LaneId) (team ctx : Nat) (x : Loc) (leaf : Word) (sc : Scope) (data : List Byte)
    (bad : Bool) (cls : Nat := 0) : State × Option (Nat × Nat) :=
  let tag := if Word.bit leaf 13 then some ctx else none
  match x with
  | .host a => ({ s with outbox := s.outbox ++ hostWrites a data }, none)
  | .peer pkg va =>
    match s.route ctx pkg with
    | none => (s, none)
    | some n =>
      let m : Msg := { seq := 0, kind := 0, who := who, team := team, ctx := ctx, lva := va, rva := va, len := data.length, dst := none, id := 0, fut := none, ty := .n8, sc := sc, endp := 65536, words := [BitVec.ofNat 64 (leNat (data.take 8)), BitVec.ofNat 64 (leNat (data.drop 8))], fen := false, sent := 0, bad := [bad], cls := cls }
      let (s, q) := s.sendMsg n m
      (s, some (n, q))
  | .burzon o =>
    match psemOff o with
    | some (j, p) => (if p = 16 then s.semInc (.pkg j) (leNat data) (frontier 7 s.now) else s.semSet (.pkg j) (leNat data), none)
    | none => (s.burzonPut o data, none)
  | .sync c o =>
    (if o < 0x400 then s.semSet (.core c (o / 16)) (leNat data)
      else s.semInc (.core c ((o - 0x400) / 8)) (leNat data) (s.witAt x sc), none)
  | .queue .. | .control .. => (s, none)
  | .hbm _ => ((s.breakQueues [x]).agentWrite (s.place x) data tag none bad, none)
  | x => (s.onTeam (x.agent - 0x200) ctx none fun s => s.agentWrite x data tag none bad, none)

/-- `amp` at the descriptor's HA (R383): arguments are for each lane of M its number and the two words of its record. The count is
taken; the lanes within it store their records, and one whose store fails faults (log entry 25). -/
def State.performAmp (s : State) (k : Nat) (r : Req) (x : Loc) (args : List Nat) : State :=
  let dw := fun (j : Nat) => leNat (s.bytes (x.add (8 * j)) 8)
  let (pcap, scap) := (dw 1 % 2 ^ 32, dw 1 / 2 ^ 32)
  let (pbase, sbase, first) := (dw 0, dw 2, dw 3)
  let lanes := r.lanes.lanes
  let n := min lanes.length (pcap + scap - first)
  let s := s.agentWrite (x.add 24) (leBytes 8 (first + n)) r.tag r.l1Own
  let s := if n < lanes.length then s.agentWrite (x.add 32) (leBytes 8 1) r.tag r.l1Own else s
  let go := fun (acc : State × List (Nat × Nat × Nat × Nat)) (j : Nat) =>
    let (s, out) := acc
    let l := lanes.getD j 0
    if n ≤ j then (s, out ++ [(l, 2 ^ 63 + n * 2 ^ 48, 0, 0)])
    else
      let i := first + j
      let va := if i < pcap then pbase + 16 * i else sbase + 16 * (i - pcap)
      match s.laneXlate r .st va 16 with
      | (s, .error f) => (s, out ++ [(l, 0, f, va)])
      | (s, .ok (y, leaf)) =>
        let rec_ := leBytes 16 (args.getD (3 * j + 1) 0 + 2 ^ 64 * args.getD (3 * j + 2) 0)
        let s := match y with
          | .hbm _ => (s.breakQueues [y]).agentWrite (s.place y) rec_ none r.l1Own
          | y => (s.engineWrite { r.who with lane := l } r.team r.ctx y leaf .pk rec_ false r.cls).1
        (s, out ++ [(l, n * 2 ^ 48 + (if i < pcap then 0 else 2 ^ 32) + i % 2 ^ 32, 0, 0)])
  let (s, out) := (List.range lanes.length).foldl go (s, [])
  let wit := frontier 7 s.now
  out.foldl (fun s (l, v, f, va) =>
    let regs := match r.dst with | some d => [(d, BitVec.ofNat 64 v, ({} : Mark)), (d + 1, wit, {})] | none => []
    s.answer { r.who with lane := l } r.team k regs false (join := r.join.map fun j => (j, f, va))) s

/-- Bytes that a load reads: those of a stage queue's storage carry no meaning (R378, log entry 12). -/
def State.readMem (s : State) (x : Loc) (n : Nat) : List Byte × State :=
  match x with
  | .hbm pa =>
    if !s.pal.isEmpty && !(s.queueStore pa).isEmpty then
      ((List.range n).map fun j => Config.queueByte (s.free + j), { s with free := s.free + n })
    else s.readAt x n
  | x => s.readAt x n

/-- What a request does at its agent, with the stamp of now (R17, R222, R223). -/
def State.performOp (s : State) (k : Nat) (r : Req) : State :=
  let x := s.place r.loc
  match r.op with
  | .load t =>
    let bad := fun j => s.badIn (x.add j) (min t.bytes 8)
    let (bs, s) := s.readMem x t.bytes
    (s.l1Fill r x 0xFFFFFFFF).answer r.who r.team k (loadRegs r.dst t bs bad) true
  | .store data sc =>
    let wit := s.witAt x sc
    ((s.writeAt r x data sc).stampFor r x.agent).giveWit k r wit
  | .atomic op t b c sc old => match x with
    | .host a => s.hostAtomic k r a op t b c old
    | .peer pkg va => s.peerAtomic k r pkg va op t b c sc old
    | x => s.performAtomic k r x op t b c sc old
  | .stp data q sc leaf =>
    let wit := s.witAt x sc
    let y := s.place q
    let s := (s.writeAt r x data sc).stampFor r x.agent
    if y = x then s.giveWit k r wit
    else if y.agent = x.agent then (s.writeAt { r with leaf := leaf } y data sc).giveWit k r wit
    else
      let j : Join := { who := r.who, lanes := r.lanes, team := r.team, id := k, dst := r.dst, left := 1, wits := [wit] }
      let r' := { r with loc := q, op := .store data sc, path := some (10000 + haOf (match r.loc with | .hbm p => p | _ => 0)), leaf := leaf, join := some s.seq, inst := s.seq }
      { s with joins := s.joins.set s.seq j, reqs := s.reqs.set (s.seq + 1) r', seq := s.seq + 2 }
  | .tile m rows sc =>
    let s := rows.foldl (fun s row => s.putTileRow r m row) s
    (s.stampFor r x.agent).giveWit k r (s.witAt x sc)
  | .touch => s.giveWit k r (point x.agent 7 s.now)
  | .lddw t =>
    let w : Word := BitVec.ofNat 64 (leNat (s.bytes x 8))
    -- the core decays the word on its way back, where it counts a stale one; `nil` takes no result (R47, R178)
    s.answer r.who r.team k [(r.dst.getD 192, w, { bad := s.bad x })] true (kind := if t = .f32 then 1 else 2)
  | .stdw w sc =>
    let g := (s.ctxs.get {} r.ctx).stepAt x.agent
    ((s.agentWrite x (leBytes 8 (dw (dwF w) g (dwV w)).toNat) r.tag r.l1Own).stampFor r x.agent).giveWit k r (s.witAt x sc)
  | .addDw b sc => s.performAtomd k r x (fun y old g => y.addDw old g b) [] sc
  | .mrgDw b sc => s.performAtomd k r x (fun y old g => y.mrgDw old b g) [b] sc
  | .fld =>
    match r.dst with
    | some d => s.answer r.who r.team k [(d, BitVec.ofNat 64 (leNat (s.bytes x 8)), { bad := s.bad x })] true (kind := 3)
    | none => s
  | .unit 0 args =>
    let s := match visible (args.getD 0 0) (args.getD 1 0) (args.getD 2 0) (s.bytes x 16) with
      | some bs => s.agentWrite x bs r.tag r.l1Own
      | none => s
    (s.joinOpens r.join x.agent).giveWit k r (frontier 7 s.now)
  | .unit _ args => s.performAmp k r x args
  | .cwb sc => s.performCwb k r sc

/-- Performs request k where its place's team stands, if that is still there, and wakes what waits (R195, R408, R419): a place of a
registered granule is the registering team's, which is on its core. -/
def State.perform (s : State) (k : Nat) (r : Req) : State :=
  let s := { s with reqs := s.reqs.erase k }
  if s.gone r then (s.refuse k r 0x0C 0).wake else
  let s := if r.op.isWrite then s.breakQueues (r.spans.map (·.1)) else s
  let s := s.l1Catch r
  (match r.loc with
  | .pool c _ | .sp c _ => s.onTeam c r.ctx (if r.own then some (r.team % 65536) else none) fun s => s.performOp k r
  | _ => s.performOp k r).wake

/-- An event of an agent: it performs a request that has reached it. -/
def State.performAt (s : State) (k : Nat) (mine : Req → Bool) : State :=
  match s.reqs.find? k with
  | some r => if mine r && s.canPerform r then s.perform k r else s
  | none => s

/-- A home agent performs a request in its one order (R17). -/
def execHaRequestPerform (k : Nat) (s : State) : Out := .next (s.performAt k fun r => decide ((s.place r.loc).agent < 0x200))

/-- A store to a sync unit, which is a step of its own (R270). -/
def Req.semStore (r : Req) : Bool :=
  match r.loc with
  | .sync .. => r.op.isWrite
  | _ => false

/-- A scratchpad or pool port performs a request (R197, R199), or the drain path sends an atomic to the host or a peer (R249). -/
def execScratchpadPortPerform (k : Nat) (s : State) : Out :=
  .next (s.performAt k fun r => let a := (s.place r.loc).agent; decide (0x200 ≤ a) && a != burzonAgent && !r.semStore)

/-- A semaphore word of the Burzon die is stored to (R270). -/
def State.psemPerform (s : State) (k : Nat) (port : Bool) : State :=
  match s.reqs.find? k with
  | some r =>
    match r.loc, r.op with
    | .burzon o, .store data _ =>
      match psemOff o with
      | some (j, p) =>
        if (p == 16) == port && s.canPerform r then
          let wit := frontier 7 s.now
          let s := { s with reqs := s.reqs.erase k }
          let s := if port then s.semInc (.pkg j) (leNat data) wit else s.semSet (.pkg j) (leNat data)
          ((s.stampFor r burzonAgent).giveWit k r wit).wake
        else s
      | none => s
    | _, _ => s
  | none => s

/-- A sync unit's semaphore word is stored to through its window (R270). -/
def State.semPerform (s : State) (k : Nat) (port : Bool) : State :=
  match s.reqs.find? k with
  | some r =>
    match r.loc with
    | .sync _ o => if decide (0x400 ≤ o) == port && r.op.isWrite && s.canPerform r then s.perform k r else s
    | _ => s.psemPerform k port
  | none => s

/-- A store to a semaphore's V word acts as `semset` (R270). -/
def execSemVStore (k : Nat) (s : State) : Out := .next (s.semPerform k false)

/-- A store to a semaphore's increment port acts as `seminc` (R270). -/
def execSemIncrementPort (k : Nat) (s : State) : Out := .next (s.semPerform k true)

-- Writeback

/-- A raw word as `ldd` returns it, by a core's adopted step (R180, R185). -/
def State.decayed (s : State) (c ctx : Nat) (full : Bool) (w : Word) : Word × State :=
  let x := s.ctxs.get {} ctx
  let g := x.stepAt (0x200 + c)
  let v := x.dval w g
  (if full then dw (dwF w) g v else BitVec.ofNat 64 v, s.stale ctx w g)

/-- A value that `fld` loaded: pending again where it is this lane's own handle (R360). -/
def State.handleBack (s : State) (who : LaneId) (w : Word) : Mark :=
  let f := s.fullRef (handleRef w)
  if w.toNat / 2 ^ 60 = 0xE ∧ Word.field w 47 42 = who.slot ∧ Word.field w 41 37 = who.lane ∧ f.core = who.core ∧ (s.futFind f).isSome then
    { fut := some f }
  else {}

/-- Writes one register of a reply, if it still waits for it and its lane is live (R78, R324). A decayed read that was stale counts
wherever its value goes (R178). -/
def State.landReg (s : State) (r : Reply) (x : Nat × Word × Mark) : State :=
  let (c, v, l) := (r.who.core, r.who.slot, r.who.lane)
  let (d, w, m) := x
  let live := (s.lane c v l).live
  if 256 ≤ d then
    if (s.lane c v l).ppend.find? (d - 256) ≠ some r.id then s
    else if live then (s.modLane c v l fun y => { y with ppend := y.ppend.erase (d - 256) }).putReg c v l d w
    else s.modLane c v l fun y => { y with ppend := y.ppend.erase (d - 256) }
  else
    let (w, s) := if (r.kind = 1 ∨ r.kind = 2) ∧ !m.bad then s.decayed c (s.team c).ctx (r.kind == 2) w else (w, s)
    if (s.mark c v l d).pend ≠ r.id + 1 then s
    else if !live then s.setMark c v l d { s.mark c v l d with pend := 0 }
    else if r.kind = 3 ∧ !m.bad ∧ m.fault = 0 then s.putReg c v l d w (s.handleBack r.who w)
    else s.putReg c v l d w m

/-- A register waits no longer for a reply that brings a fault: it keeps its value (R190, R383). -/
def State.unpend (s : State) (r : Reply) (d : Nat) : State :=
  let m := s.mark r.who.core r.who.slot r.who.lane d
  if m.pend = r.id + 1 then s.setMark r.who.core r.who.slot r.who.lane d { m with pend := 0 } else s

/-- The last reply of an instance whose lanes stay at their word (R190, R383): done lanes go on, and the others trap. Faults of lanes
that have ended are dropped and counted (R324). -/
def State.joinLand (s : State) (j : Nat) (who : LaneId) (fault addr : Nat) : State :=
  match s.joins.find? j with
  | none => s
  | some x =>
    let x := { x with left := x.left - 1, faults := if fault = 0 then x.faults else x.faults ++ [(who.lane, fault, addr)] }
    if x.left ≠ 0 then { s with joins := s.joins.set j x }
    else
      let s := { s with joins := s.joins.erase j }
      let (c, w) := (x.who.core, x.who.slot)
      let here := x.lanes.lanes.filter fun l => (s.lane c w l).live && (s.lane c w l).park == .replies j
      let fs := x.faults.filter fun f => here.contains f.1
      let s := (List.range (x.faults.length - fs.length)).foldl (fun s _ => s.dropFault c) s
      let ok := here.filter fun l => !fs.any fun f => f.1 == l
      let s := s.forLanes ok fun l s => s.modLane c w l (·.resume)
      if fs.isEmpty then s
      else
        let s := s.forLanes (fs.map (·.1)) fun l s => s.modLane c w l fun y => { y with park := .none, since := 0 }
        let s := { s with cur := { s.cur with core := c, slot := w, word := x.word, lbp := x.lbp } }
        let fs := (List.range 32).filterMap fun l => fs.find? fun f => f.1 == l
        s.takeTrap c w (Mask.ofLanes here) (Mask.ofLanes ok) fs 0 0

/-- A reply lands, in live state or in a saved image (R78, R337). -/
def State.writeback (s : State) (k : Nat) (r : Reply) : State :=
  let s := { s with replies := s.replies.erase k }
  (s.forTeam r.who.core r.team fun s =>
    let failed := match r.join with | some (_, f, _) => f != 0 | none => false
    let s := r.regs.foldl (fun s x => if failed then s.unpend r x.1 else s.landReg r x) s
    match r.join with
    | some (j, f, a) => s.joinLand j r.who f a
    | none => s).wake

/-- A variable-latency result reaches its registers (R78). -/
def execRegisterWriteback (core k : Nat) (s : State) : Out :=
  match s.replies.find? k with
  | some r => .next (if r.who.core = core then s.writeback k r else s)
  | none => .next s

end Sys2Proof.Machine
end

