-- ==== Sys2Proof/Machine/Memory.lean ====
section
/-! DEFINITION. Group 6: loads, stores, the transposed store, cache maintenance, the scratchpad map and the load fence
(R212-R221). -/

namespace Sys2Proof.Machine

/-- The address of a memory-class operand: A and the offset in units of the access (R63, R214). -/
def State.memAddr (s : State) (c w l : Nat) (f : Mem) (size : Nat) : Word :=
  s.op64 c w l f.a + BitVec.ofInt 64 (f.imm.toInt * size)

/-- The data of a store: the low bytes of B, or of B and B+1 (R215). -/
def State.storeData (s : State) (c w l : Nat) (t : Ty) (b : BitVec 8) : List Byte :=
  if t = .b128 then leBytes 8 (s.op64 c w l b).toNat ++ leBytes 8 (s.opndAt c w l b 1).toNat
  else leBytes t.bytes ((s.opnd c w l t b).toNat % 2 ^ t.width)

/-- A load, after its witness where it has one (R214). -/
def loadBody (f : Mem) (p : Space) (wit : Bool) (s0 : State) (c w l : Nat) (first : Bool) (s : State) : LaneOut × State :=
  let go := fun (s : State) =>
    let a := (s0.memAddr c w l f f.ty.bytes).toNat
    s.at_ c w l p (.ld f.ty.bytes) a f.ty.bytes fun x leaf s =>
      s.sendLoad c w l first x leaf (.load f.ty) f.d f.ty a (p != .g)
  if wit then s.onWit c w l (s0.op64 c w l f.b) go else go s

/-- A store (R215). -/
def storeBody (f : Mem) (p : Space) (s0 : State) (c w l : Nat) (first : Bool) (s : State) : LaneOut × State :=
  let a := (s0.memAddr c w l f f.ty.bytes).toNat
  let data := s0.storeData c w l f.ty f.b
  s.at_ c w l p .st a f.ty.bytes fun x leaf s =>
    s.sendStore c w l first x leaf (.store data f.sc) data f.d f.sc a (p != .g)

def execLdG (f : Mem) (s : State) : Out := s.perLane (.ldG f) (loadBody f .g false)
def execLdSp (f : Mem) (s : State) : Out := s.perLane (.ldSp f) (loadBody f .sp false)
def execLdGs (f : Mem) (s : State) : Out := s.perLane (.ldGs f) (loadBody f .gs false)
def execLdwG (f : Mem) (s : State) : Out := s.perLane (.ldwG f) (loadBody f .g true)
def execLdwSp (f : Mem) (s : State) : Out := s.perLane (.ldwSp f) (loadBody f .sp true)
def execLdwGs (f : Mem) (s : State) : Out := s.perLane (.ldwGs f) (loadBody f .gs true)
def execStG (f : Mem) (s : State) : Out := s.perLane (.stG f) (storeBody f .g)
def execStSp (f : Mem) (s : State) : Out := s.perLane (.stSp f) (storeBody f .sp)
def execStGs (f : Mem) (s : State) : Out := s.perLane (.stGs f) (storeBody f .gs)

/-- A place that `stp` may write: memory, a register pool or a scratchpad, whose agents give points (R216). -/
def Loc.plain : Loc → Bool
  | .hbm _ | .pool .. | .sp .. => true
  | _ => false

/-- `stp` (R216). -/
def stpBody (f : Mem) (s0 : State) (c w l : Nat) (first : Bool) (s : State) : LaneOut × State :=
  let size := f.ty.bytes
  let reg := fun (j : Nat) => (s0.opndAt c w l f.a j).toNat
  let (ldp, ldt) := (reg 2 % 2 ^ 32, reg 2 / 2 ^ 32)
  let ij := (s0.opndAt c w l f.b 1).toNat
  let (i, j) := (ij % 2 ^ 32, ij / 2 ^ 32)
  let p := reg 0 + (i * ldp + j) * size
  let q := reg 1 + (j * ldt + i) * size
  let data := s0.storeData c w l f.ty f.b
  s.at_ c w l .g .stp p size fun x leaf s =>
    if !x.plain then (.fault 0x0C p 0, s) else
    s.at_ c w l .g .stp q size fun y leaf' s =>
      if !y.plain then (.fault 0x0C q 0, s)
      else (.done, s.request c w l first x leaf (.stp data y f.sc leaf') f.d 1)

def execStp (f : Mem) (s : State) : Out :=
  s.perLane (.stp f) (stpBody f) (pre := fun s ms =>
    let (c, w, l) := (s.cur.core, s.cur.slot, ms.headD 0)
    let reg := fun (j : Nat) => (s.opndAt c w l f.a j).toNat
    if ms.isEmpty ∨ (reg 0 < 2 ^ 52 ∧ reg 1 < 2 ^ 52 ∧ reg 2 % 2 ^ 32 ≠ 0 ∧ reg 2 / 2 ^ 32 ≠ 0) then none
    else some (0x05, fun _ => 0))

/-- `pfl` brings a line nearer, or does nothing (R217). -/
def execPfl (f : Mem) (s : State) : Out :=
  s.perLane (.pfl f) fun s0 c w l _ s =>
    match s.xlate (some c) (s.team c).ctx (s.isUser c w l) .cache (s0.memAddr c w l f f.ty.bytes).toNat 1 with
    | (s, .ok (.hbm pa, leaf)) =>
      (.done, if f.sc = .tm ∧ !s.uncached leaf (.hbm pa) then
        s.l1Put c (pa / 128) { ctx := (s.team c).ctx, valid := 0xFFFFFFFF, bytes := s.lineBytes (pa / 128), bad := s.lineBad (pa / 128) } else s)
    | (s, _) => (.done, s)

/-- Drops a line from a core's L1. -/
def State.l1Drop (s : State) (c line : Nat) : State := { s with l1 := s.l1.erase (l1Key c line) }

/-- `cinv` (R217). -/
def execCinv (f : Mem) (s : State) : Out :=
  s.perLane (.cinv f) fun s0 c w l _ s =>
    s.at_ c w l .g .cache (s0.memAddr c w l f 8).toNat 8 fun x leaf s =>
      match x with
      | .hbm pa =>
        let s := s.l1Drop c (pa / 128)
        (.done, if f.sc = .di then s.writeBackNow (pa / 128) leaf else s)
      | _ => (.done, s)

/-- `cwb` (R218): what is never cached has no write-back, and gives the null witness. -/
def execCwb (f : Mem) (s : State) : Out :=
  s.perLane (.cwb f) fun s0 c w l first s =>
    s.at_ c w l .g .cache (s0.memAddr c w l f 8).toNat 8 fun x leaf s =>
      match x with
      | .hbm pa => (.done, s.request c w l first (.hbm (pa / 128 * 128)) leaf (.cwb f.sc) f.d 1)
      | .burzon _ | .host _ | .peer .. => (.done, s.put c w l first f.d 0)
      | x => (.done, s.request c w l first x leaf (.cwb f.sc) f.d 1)

/-- The line of memory that holds the word at an address of a context, by its tables. -/
def State.lineOf (s : State) (ctx va : Nat) : Option Nat :=
  match s.walk ctx va with
  | some (leaf, level, _) => if Word.field leaf 9 7 = 0 then some (leafPa leaf level va / 128) else none
  | none => none

/-- A window of words from `base` on holds words of a line. -/
def State.windowHas (s : State) (core base line : Nat) : Bool :=
  [0, 128, 256, 376].any fun o => s.lineOf (s.team core).ctx (base + o) == some line

/-- The word at a physical address as a core's fetch sees it: from its instruction cache, or from memory (R315, R318). -/
def State.wordAt (s : State) (c pa : Nat) : Word :=
  let cached := (s.ic.find? (c * 2 ^ 40 + pa / 128)).filter fun x => x.ctx == (s.team c).ctx
  match cached with
  | some x => BitVec.ofNat 64 (leNat ((x.bytes.drop (pa % 128)).take 8))
  | none => BitVec.ofNat 64 (leNat (s.bytes (s.place (.hbm pa)) 8))

/-- The words of a cached line at which a warp's lanes stand, for a choice that names it some cycles ahead (R318). -/
def State.standWords (s : State) (core line : Nat) (choice : Option (Option Nat)) (left : Nat) : List (Nat × Word × Word × Nat) :=
  match choice with
  | some (some w) => ((List.range 32).filterMap fun l =>
      let x := s.lane core w l
      if x.live && x.park == .none && s.lineOf (s.team core).ctx x.pc.toNat == some line then
        some (w, x.pc, s.wordAt core (line * 128 + x.pc.toNat % 128), left) else none).eraseDups
  | _ => []

/-- Keeps for a core's fixed choices the words that a dropped line held for them (R318). -/
def State.keepWords (s : State) (core line : Nat) (x : SubSt) : SubSt :=
  if (s.ic.find? (core * 2 ^ 40 + line)).isNone then x else
  { x with kept := x.kept ++ s.standWords core line x.c1 1 ++ s.standWords core line x.c2 2 }

/-- Drops a line from the instruction caches, loop buffers and fills of the cores of a scope, but for the words of choices already
fixed (R219, R318). -/
def State.icDrop (s : State) (c sc line : Nat) : State :=
  let inside := fun (k : Nat) => inScope sc c (0x200 + k)
  { s with
    subs := s.subs.map fun (k, x) => (k, if inside (k / 4) then s.keepWords (k / 4) line x else x)
    ic := s.ic.filter fun (k, _) => !(k % 2 ^ 40 == line && inside (k / 2 ^ 40))
    lb := s.lb.filter fun (k, x) => !(inside (k / 128) && s.windowHas (k / 128) x.base line)
    fills := s.fills.filter fun x => !(inside x.core && s.windowHas x.core x.base line) }

/-- `icinv` (R219). -/
def execIcinv (f : Mem) (s : State) : Out :=
  s.perLane (.icinv f) fun s0 c w l first s =>
    s.at_ c w l .g .cache (s0.memAddr c w l f 8).toNat 8 fun x _ s =>
      let sc := f.sc.code.toNat
      let s := match x with | .hbm pa => s.icDrop c sc (pa / 128) | _ => s
      (.done, s.put c w l first f.d (frontier sc s.now))

/-- `lfen` (R220, R243). -/
def execLfen (f : Alu) (s : State) : Out :=
  s.perLane (.lfen f) fun _ c w l _ s => if s.loadsBack c w l then (.done, s) else (.park .retry, s)

-- The scratchpad map

/-- The descriptor of `spmap`: entry, granule and FILL, or none where it is an illegal operand (R221). -/
def mapDesc (x : Word) : Option (Nat × Nat × Bool) :=
  if Word.field x 63 17 = 0 ∧ Word.field x 15 14 = 0 ∧ !Word.bit x 7 ∧ Word.field x 6 0 < 96 then
    some (Word.field x 13 8, Word.field x 6 0, Word.bit x 16)
  else none

/-- Registers a granule (R199, R200): its superblocks are expanded, and cached copies of its lines dropped. -/
def State.mapGranule (s : State) (c e : Nat) (m : MapEnt) (fill : Bool) : State :=
  let s := if fill then s.granuleIn c m else s
  let s := { s with
    comp := s.comp.filter fun (k, _) => k / 8 != m.pa / 4096
    l1 := s.l1.filter fun (k, _) => k % 2 ^ 40 / 32 != m.pa / 4096 }
  s.setMap c e (some m)

/-- Deregisters a granule, writing it back first where asked (R201). -/
def State.unmapGranule (s : State) (c e : Nat) (m : MapEnt) (back : Bool) : State :=
  (if back && m.dirty then s.granuleOut c m else s).setMap c e none

/-- Writes a frontier of scope SC to D in every lane of M. -/
def State.putAllWit (s : State) (c w : Nat) (ms : List Nat) (d : BitVec 8) (x : Word) : State :=
  (ms.foldl (fun (acc : State × Bool) l => (acc.1.put c w l acc.2 d x, false)) (s, true)).1

def execSpmapMap (f : Eng) (s : State) : Out :=
  s.perWarp (.spmapMap f) (fun _ _ _ _ => []) fun s0 c w ms s =>
    let l := ms.headD 0
    match mapDesc (s0.op64 c w l f.b) with
    | none => (.fault 0x05 fun _ => 0, s)
    | some (e, gr, fill) =>
      let t := s.team c
      let va := (s0.op64 c w l f.a).toNat
      if (t.map.find? e).isSome ∨ t.map.any (fun (_, m) => m.gr == gr) then (.fault 0x05 fun _ => 0, s)
      else match s.locate c (s.isUser c w l) .g .map va 4096 with
        | (s, .error k) => (.fault k fun _ => va, s)
        | (s, .ok (.hbm pa, _)) =>
          if (s.registered pa).isSome then (.fault 0x0F fun _ => va, s)
          else
            let s := s.mapGranule c e { gr := gr, va := va, pa := pa, dirty := !fill } fill
            (.done, s.putAllWit c w ms f.d (frontier f.sc.code.toNat s.now))
        | (s, .ok _) => (.fault 0x0C fun _ => va, s)

/-- The other operations of `spmap`, on a valid entry (R221). -/
def State.spmapOp (s : State) (i : Instr) (f : Eng) (op : State → Nat → Nat → MapEnt → State) : Out :=
  s.perWarp i (fun _ _ _ _ => []) fun s0 c w ms s =>
    match mapDesc (s0.op64 c w (ms.headD 0) f.b) with
    | none => (.fault 0x05 fun _ => 0, s)
    | some (e, _, _) =>
      match (s.team c).map.find? e with
      | none => (.fault 0x05 fun _ => 0, s)
      | some m =>
        let s := (op s c e m).wake
        (.done, s.putAllWit c w ms f.d (frontier f.sc.code.toNat s.now))

def execSpmapUnmap (f : Eng) (s : State) : Out := s.spmapOp (.spmapUnmap f) f fun s c e m => s.unmapGranule c e m true

def execSpmapFlush (f : Eng) (s : State) : Out :=
  s.spmapOp (.spmapFlush f) f fun s c e m => (if m.dirty then s.granuleOut c m else s).setMap c e (some { m with dirty := false })

def execSpmapInval (f : Eng) (s : State) : Out := s.spmapOp (.spmapInval f) f fun s c e m => s.unmapGranule c e m false

/-- Unmaps every entry of a core's team, as by `.unmap` (R201). -/
def State.unmapAll (s : State) (c : Nat) : State :=
  (s.team c).map.foldl (fun s (e, m) => s.unmapGranule c e m true) s

end Sys2Proof.Machine
end

