-- ==== Sys2Proof/Machine/Atomics.lean ====
section
/-! DEFINITION. Group 8: atomics, the monitor wait, and the semaphore instructions (R248-R270). -/

namespace Sys2Proof.Machine

/-- Instances of a core that stand in its drain queue; it holds 64 (R249). -/
def State.drainFull (s : State) (c : Nat) : Bool :=
  let insts := (s.reqs.filterMap fun (_, r) => if r.path = some c ∧ r.inst ≠ 0 then some r.inst else none).eraseDups
  decide (64 ≤ insts.length)

/-- A word that stalls before it issues while the drain queue is full (R249). -/
def State.drainGate (s : State) (i : Instr) (k : Unit → Out) : Out :=
  if s.drainFull s.cur.core then
    .next (s.forLanes (s.issuing i) fun l u => u.modLane s.cur.core s.cur.slot l fun x => { x with park := .retry })
  else k ()

/-- An operand of an atomic as a number of the element's width (R250). -/
def State.atomOperand (s : State) (c w l : Nat) (t : Ty) (x : BitVec 8) : Nat := leNat (s.storeData c w l t x)

/-- One lane of an atomic (R251, R252, R256). -/
def atomBody (f : Eng) (p : Space) (old : Bool) (s0 : State) (c w l : Nat) (first : Bool) (s : State) : LaneOut × State :=
  let a := (s0.op64 c w l f.a).toNat
  s.at_ c w l p .atomic a f.ty.bytes fun x leaf s =>
    s.sendAtomic c w l first x leaf f.mod.toNat f.ty (s0.atomOperand c w l f.ty f.b)
      (if f.mod = 8 then s0.atomOperand c w l f.ty f.c else 0) f.d f.sc a old (p != .g) (s0.seq + 1)

def execAtomG (f : Eng) (s : State) : Out := s.drainGate (.atomG f) fun _ => s.perLane (.atomG f) (atomBody f .g true)
def execAtomSp (f : Eng) (s : State) : Out := s.drainGate (.atomSp f) fun _ => s.perLane (.atomSp f) (atomBody f .sp true)
def execAtomGs (f : Eng) (s : State) : Out := s.drainGate (.atomGs f) fun _ => s.perLane (.atomGs f) (atomBody f .gs true)
def execAtomr (f : Eng) (s : State) : Out := s.drainGate (.atomr f) fun _ => s.perLane (.atomr f) (atomBody f .g false)

-- Monitors

/-- A window's place whose core holds no team of the context (R419). -/
def State.away (s : State) (ctx : Nat) (x : Loc) : Bool :=
  match x with
  | .pool c _ | .sp c _ | .sync c _ | .queue c _ => !s.holds c ctx
  | _ => false

/-- Bytes of a place and their poison: a granule's where it is registered, and a window's in the saved image where the team of the
context is saved; a window whose team has gone gives zeros (R199, R408, R419). -/
def State.valueAt (s : State) (ctx : Nat) (x : Loc) (n : Nat) : List Byte × Bool :=
  let y := s.place x
  let here := (s.bytes y n, s.badIn y n)
  match x with
  | .sp c _ | .pool c _ =>
    if (match s.teams.find? c with | some t => t.ctx == ctx | none => false) then here
    else match s.saved.find? fun z => z.core == c && z.team.ctx == ctx with
      | some z => let t := (s.setImage c z.img).setTeam c z.team; (t.bytes x n, t.badIn x n)
      | none => (List.replicate n 0, false)
  | _ => here

/-- An agent has a monitor entry for a warp's word: its own, or a free one of its 1,024 (R260). -/
def State.monRoom (s : State) (who : LaneId) (x : Loc) : Bool :=
  let at_ := s.mons.filter fun (_, m) => !m.polled && (s.place m.loc).agent == (s.place x).agent
  let words := (at_.map fun (_, m) => (m.who.core, m.who.slot, m.loc)).eraseDups
  words.contains (who.core, who.slot, x) || decide (words.length < 1024)

/-- A monitor wait's result (R259). -/
def State.monResult (s : State) (c w l : Nat) (first : Bool) (d : BitVec 8) (v wit : Word) (bad : Bool) : State :=
  (s.put c w l first d v { bad := bad }).put c w l first d wit {} 1

/-- `mwait` (R258-R260). -/
def mwaitBody (f : Eng) (s0 : State) (c w l : Nat) (first : Bool) (s : State) : LaneOut × State :=
  let n := f.ty.bytes
  let b := (s0.opnd c w l f.ty f.b).toNat % 2 ^ f.ty.width
  let t := min (s0.op64 c w l f.c).toNat (2 ^ 40)
  let a := (s0.op64 c w l f.a).toNat
  s.at_ c w l .g (.mwait n) a n fun x _ s =>
    if s.laneBusy c w l x n then (.park .retry, s) else
    let y := s.place x
    let (bs, bad) := s.valueAt (s.team c).ctx x n
    let v := leNat bs
    let s := s.l1Fresh c
    if waitCond (f.mod.toNat % 4) f.ty v b then
      (.done, s.monResult c w l first f.d (placed f.ty v) (point y.agent 7 s.now) bad)
    else if t = 0 then (.done, s.monResult c w l first f.d (placed f.ty v) 0 bad)
    else
      let who : LaneId := ⟨c, w, l⟩
      let polled := !s.monRoom who x
      let s := if polled then s.count 0x0A25 1 else s
      let m : Mon := { who := who, team := s.ownKey c, ctx := (s.team c).ctx, loc := x, ty := f.ty, cond := f.mod.toNat % 4, b := b, deadline := s.now + t, dst := dstOf f.d first, polled := polled, lastPoll := s.now, value := v, bad := bad, done := none }
      (.park (.monitor s.seq), { s with mons := s.mons.set s.seq m, seq := s.seq + 1 })

def execMwait (f : Eng) (s : State) : Out := s.perLane (.mwait f) (mwaitBody f)

/-- A monitor's deadline passes (R259). -/
def execMonitorDeadline (k : Nat) (s : State) : Out :=
  match s.mons.find? k with
  | some m =>
    if m.done.isNone ∧ m.deadline ≤ s.now then .next ((s.requeueFor k m.who).finishMon k m (placed m.ty m.value) 0 m.bad) else .next s
  | none => .next s

/-- A core re-reads the word of a monitor that it keeps, every microsecond; the monitor moves to the agent, which tests the word, once
an entry is free (R260). -/
def execMonitorPoll (k : Nat) (s : State) : Out :=
  match s.mons.find? k with
  | some m =>
    if !m.polled ∨ m.done.isSome ∨ (s.now < m.lastPoll + 1000 ∧ !s.monRoom m.who m.loc) then .next s else
    let y := s.place m.loc
    let (bs, bad) := s.valueAt m.ctx m.loc m.ty.bytes
    let v := leNat bs
    if waitCond m.cond m.ty v m.b then .next ((s.requeueFor k m.who).finishMon k m (placed m.ty v) (point y.agent 7 s.now) bad)
    else .next { s with mons := s.mons.set k { m with value := v, bad := bad, lastPoll := s.now, polled := !s.monRoom m.who m.loc } }
  | none => .next s

-- Semaphore instructions

/-- The semaphore that a word names, or the cause of its refusal: an index with bits 63:12 set, or another context's (R263,
R265). -/
def State.semSel (s : State) (c w l : Nat) (f : Eng) : Except Nat SemId :=
  let ctx := (s.team c).ctx
  let pkg := fun (j : Nat) => if s.psemOk ctx j then Except.ok (SemId.pkg j) else .error 0x0C
  match f.semKind with
  | 0 => .ok (.core c f.c.toNat)
  | 1 => pkg f.c.toNat
  | _ =>
    let a := (s.op64 c w l f.a).toNat
    if 4096 ≤ a then .error 0x05 else pkg a

/-- A connection on which `wfen` waits has failed (R282). -/
def State.fabFailed (s : State) (c w l sc : Nat) : Option Nat :=
  if sc < 9 then none
  else (List.find? (fun (x : Nat × Nat) => (s.linkDone x.1 x.2).isNone && s.linkFailed x.1) (s.lane c w l).fab).map (·.1)

/-- Goes on with the witness that `wfen` would return in the lane (R240). -/
def State.onFence (s : State) (c w l sc : Nat) (k : Word → State → LaneOut × State) : LaneOut × State :=
  if !s.stamped c w l then (.park .retry, s)
  else match s.fenceWit c w l sc with
    | some f => k f s
    | none => match s.fabFailed c w l sc with
      | some n => (.fault 0x14 0 n, s)
      | none => (.park .retry, s)

/-- The lanes of M of a word at issue. -/
def State.lanesOfM (s : State) (i : Instr) : List Nat := (s.issuing i).filter (s.inM i s.cur.core s.cur.slot)

/-- `seminc`: each lane's own fence, once all lanes have theirs, in ascending lane order (R266). -/
def semincBody (f : Eng) (s0 : State) (c w l : Nat) (first : Bool) (s : State) : LaneOut × State :=
  match s0.semSel c w l f with
  | .error k => (.fault k 0 0, s)
  | .ok x =>
    let sc := f.sc.code.toNat
    let late := (s0.lanesOfM (.seminc f)).any fun m =>
      !s0.stamped c w m || ((s0.fenceWit c w m sc).isNone && (s0.fabFailed c w m sc).isNone)
    if late then (.park .retry, s)
    else s.onFence c w l sc fun g s =>
      let s := s.semInc x (s0.op64 c w l f.b).toNat g
      (.done, s.put c w l first f.d (s.semWit x f.sc))

def execSeminc (f : Eng) (s : State) : Out :=
  s.perLane (.seminc f) (semincBody f) (pre := fun s ms =>
    let (c, w) := (s.cur.core, s.cur.slot)
    let bad := ms.any fun l => decide (2 ^ 32 < (s.op64 c w l f.b).toNat) ||
      (match s.semSel c w l f with | .error 0x05 => true | _ => false)
    if bad then some (0x05, fun _ => 0) else none)

/-- A semaphore's warp operation on the selected semaphore. -/
def State.semWarp (s : State) (i : Instr) (f : Eng) (body : SemId → State → Nat → Nat → List Nat → State → WarpOut × State) : Out :=
  s.perWarp i (fun s c w l => [s.op64 c w l f.a, s.op64 c w l f.b]) fun s0 c w ms s =>
    match s0.semSel c w (ms.headD 0) f with
    | .error k => (.fault k fun _ => 0, s)
    | .ok x => body x s0 c w ms s

/-- `semw` (R267). -/
def State.semWait (s : State) (i : Instr) (f : Eng) (take : Bool) : Out :=
  s.semWarp i f fun x s0 c w ms s =>
    let b := (s0.op64 c w (ms.headD 0) f.b).toNat
    let s := s.forLanes ms fun l s => s.modLane c w l (LaneOut.after (.park .sem) i.stall)
    (.own, (s.semJoin x { who := .lanes c w (s.ownKey c) (Mask.ofLanes ms) (dstReg f.d), thr := b, take := take, since := s.now }).wake)

def execSemwGe (f : Eng) (s : State) : Out := s.semWait (.semwGe f) f false
def execSemwTake (f : Eng) (s : State) : Out := s.semWait (.semwTake f) f true

/-- `semrd` (R268). -/
def execSemrd (f : Eng) (s : State) : Out :=
  s.semWarp (.semrd f) f fun x _ c w ms s =>
    let q := s.sem x
    (.done, (ms.foldl (fun (acc : State × Bool) l =>
      ((acc.1.put c w l acc.2 f.d (BitVec.ofNat 64 q.v)).put c w l acc.2 f.d q.w {} 1, false)) (s, true)).1)

/-- `semset` (R268). -/
def execSemset (f : Eng) (s : State) : Out :=
  s.semWarp (.semset f) f fun x s0 c w ms s =>
    let s := (s.semSet x (s0.op64 c w (ms.headD 0) f.b).toNat).wake
    (.done, s.putAllWit c w ms f.d (s.semWit x f.sc))

end Sys2Proof.Machine
end

