-- ==== Sys2Proof/Machine/Order.lean ====
section
/-! DEFINITION. Group 7: merging, testing and waiting for witnesses, fences, scopes and `wloc` (R236-R243). -/

namespace Sys2Proof.Machine

/-- A value read as a witness, less its satisfaction: a foreign handle becomes the frontier at which its work was found
complete (R234, R357); none where the work goes on. -/
def State.asWitness (s : State) (w : Word) : Option Word :=
  if Word.field w 63 60 = 0xE then (if s.handleDone w then some (frontier 7 s.now) else none) else some w

/-- A failed connection among the links of some witnesses (R282). -/
def State.lostLink (s : State) (ws : List Word) : Option Nat :=
  (ws.find? fun w => Word.field w 63 60 == 3 && (s.linkDone (Word.field w 55 40) (Word.field w 39 0)).isNone &&
    s.linkFailed (Word.field w 55 40)).map fun w => Word.field w 55 40

/-- Forms a witness from others that are checked first; it waits while a link of theirs is not done (R230, R237, R241). -/
def State.formWit (s : State) (c w l : Nat) (first : Bool) (d : BitVec 8) (ws : List Word) (f : List Word → Option Word) :
    LaneOut × State :=
  match ws.find? fun x => !s.witOk (s.team c).ctx x with
  | some x => (.fault 0x10 0 x.toNat, s)
  | none =>
    let vs := ws.map s.asWitness
    if vs.contains none then (.park .retry, s)
    else match f (vs.filterMap id) with
      | some x => (.done, s.put c w l first d x)
      | none => match s.lostLink ws with
        | some n => (.fault 0x14 0 n, s)
        | none => (.park .retry, s)

/-- `wmrg` (R237). -/
def execWmrg (f : Alu) (s : State) : Out :=
  s.perLane (.wmrg f) fun s0 c w l first s =>
    s.formWit c w l first f.d [s0.opnd c w l .wt f.a, s0.opnd c w l .wt f.b] fun vs => s.merge c (vs.getD 0 0) (vs.getD 1 0)

/-- `wtst` (R238). -/
def execWtst (f : Alu) (s : State) : Out :=
  s.perLane (.wtst f) fun s0 c w l _ s =>
    let x := s0.opnd c w l .wt f.a
    if !s.witOk (s.team c).ctx x then (.fault 0x10 0 x.toNat, s)
    else
      let k := Word.field x 63 60
      let yes := if k = 0xE then s.handleDone x else s.satisfied x c
      let s := if yes then s.countExpiry x else s
      (.done, s.putPred c w l 0 f.d.toNat yes)

/-- `wwait` (R239). -/
def execWwait (f : Alu) (s : State) : Out :=
  s.perLane (.wwait f) fun s0 c w l _ s => s.onWit c w l (s0.opnd c w l .wt f.a) fun s => (.done, s)

/-- `wfen` (R240). -/
def execWfen (f : Eng) (s : State) : Out :=
  s.perLane (.wfen f) fun _ c w l first s =>
    s.onFence c w l f.sc.code.toNat fun x s => (.done, s.put c w l first f.d x)

/-- `wscp` (R241). -/
def execWscp (f : Eng) (s : State) : Out :=
  s.perLane (.wscp f) fun s0 c w l first s =>
    s.formWit c w l first f.d [s0.opnd c w l .wt f.a] fun vs => s.widen f.sc.code.toNat (vs.getD 0 0)

/-- `wloc` (R242). -/
def execWloc (f : Alu) (s : State) : Out :=
  s.perLane (.wloc f) fun s0 c w l first s =>
    if !s.loadsBack c w l then (.park .retry, s)
    else s.at_ c w l .g .touch (s0.op64 c w l f.a).toNat 1 fun x leaf s =>
      match x with
      | .burzon _ => (.done, s.put c w l first f.d (frontier 7 s.now))
      | x => (.done, s.request c w l first x leaf .touch f.d 1)

end Sys2Proof.Machine
end

