-- ==== Sys2Proof/Machine/DecayedWords.lean ====
section
/-! DEFINITION. Group 9: decayed words (R179-R191). -/

namespace Sys2Proof.Machine

/-- `ldd` (R180). -/
def execLdd (f : Mem) (s : State) : Out :=
  s.perLane (.ldd f) fun s0 c w l first s =>
    s.onWit c w l (s0.opnd c w l .wt f.b) fun s =>
      let a := (s0.memAddr c w l f 8).toNat
      s.at_ c w l .g (.decayed true false) a 8 fun x leaf s => s.sendLoad c w l first x leaf (.lddw f.ty) f.d f.ty a

/-- `std` (R181). -/
def execStd (f : Mem) (s : State) : Out :=
  s.perLane (.std f) fun s0 c w l first s =>
    let a := (s0.memAddr c w l f 8).toNat
    let v := s0.opnd c w l f.ty f.b
    s.at_ c w l .g (.decayed false true) a 8 fun x leaf s =>
      let data := leBytes 8 v.toNat
      s.sendStore c w l first x leaf (if f.ty = .dw then .stdw v f.sc else .store data f.sc) data f.d f.sc a

/-- The lanes of an `atomd` or `amp` stay at their word until the replies of all of them are back (R190, R383): those that were
sent are in join j. -/
def State.holdLanes (s : State) (c w j n : Nat) (ls : List Nat) (word : Word) (lbp : Bool) : State :=
  if ls.isEmpty then s else
  let x : Join := { who := ⟨c, w, ls.headD 0⟩, lanes := Mask.ofLanes ls, team := s.ownKey c, id := j, dst := none, left := n, wits := [], hold := true, word := word, lbp := lbp }
  { s with joins := s.joins.set j x }

/-- One lane of `atomd` (R182). -/
def atomdBody (f : Eng) (op : Word → ReqOp) (s0 : State) (c w l : Nat) (first : Bool) (s : State) : LaneOut × State :=
  let a := (s0.op64 c w l f.a).toNat
  -- the word is read and written: both need their permissions
  s.at_ c w l .g (.decayed true true) a 8 fun x leaf s =>
    let d := dstOf f.d first
    let j := s0.seq
    let s := s.expect c w l first d 2 s.seq
    (.park (.replies j), s.push c w l x leaf (op (s0.opnd c w l f.ty f.b)) d false (some c) (some j) (inst := s0.seq + 1))

/-- After an `atomd` or `amp` has issued: its join holds the lanes that were sent. -/
def State.joined (t : State) (s : State) : State :=
  let (c, w) := (s.cur.core, s.cur.slot)
  let ls := s.cur.lanes.lanes.filter fun l => (t.lane c w l).park == .replies s.seq
  t.holdLanes c w s.seq ls.length ls s.cur.word s.cur.lbp

/-- The number that names an instance's join is taken before its lanes issue. -/
def State.takeSeq (s : State) : State := { s with seq := s.seq + 1 }

def execAtomdAdd (f : Eng) (s : State) : Out :=
  s.drainGate (.atomdAdd f) fun _ =>
    Out.andThen (s.perLane (.atomdAdd f) fun s0 c w l first t =>
      atomdBody f (fun b => .addDw (getE b 32 0) f.sc) s0 c w l first (if t.seq = s0.seq then t.takeSeq else t)) fun t => t.joined s

def execAtomdMrg (f : Eng) (s : State) : Out :=
  s.drainGate (.atomdMrg f) fun _ =>
    Out.andThen (s.perLane (.atomdMrg f) fun s0 c w l first t =>
      atomdBody f (fun b => .mrgDw b f.sc) s0 c w l first (if t.seq = s0.seq then t.takeSeq else t)) fun t => t.joined s

/-- `dcvt` (R183): a poisoned source gives a poisoned D (R190). -/
def execDcvt (f : Alu) (s : State) : Out :=
  s.perLane (.dcvt f) (fun s0 c w l first s =>
    let a := s0.opnd c w l .dw f.a
    let b := s0.op64 c w l f.b
    let src := s0.sourceFault c w l ((Use.src .dw 1).regs f.a ++ (Use.src .n64 1).regs f.b)
    let ctx := (s.team c).ctx
    let x := s.ctxs.get {} ctx
    let v := x.dval a b.toNat
    let r := if f.ty = .dw then dw (dwF a) b.toNat v else BitVec.ofNat 64 v
    match src with
    | some (k, aux) => if k = 0x11 then (.done, s.put c w l first f.d r { bad := true }) else (.fault k 0 aux, s)
    | none => (.done, (s.stale ctx a b.toNat).put c w l first f.d r))
    (except := (Use.src .dw 1).regs f.a ++ (Use.src .n64 1).regs f.b)

/-- The lanes of a completed `stepadv` go on with a frontier of this moment (R184). -/
def State.stepDone (s : State) (r : StepReq) : State :=
  s.forTeam r.who.core r.team fun s =>
    let (c, w) := (r.who.core, r.who.slot)
    let ls := r.lanes.lanes.filter fun l => (s.lane c w l).live && (s.lane c w l).park == .step
    let s := match r.dst with
      | some d => (ls.foldl (fun (a : State × Bool) l => (a.1.result c w l a.2 0 d (frontier 7 s.now), false)) (s, true)).1
      | none => s
    s.forLanes ls fun l s => s.modLane c w l (·.resume)

/-- All HAs have swept (R184). -/
def State.sweptAll (s : State) (ctx : Nat) (r : StepReq) : State :=
  s.modCtx ctx fun x => { x with next := some (x.stepGoal r.n), swept := [] }

/-- All agents have adopted the step: the `stepadv` completes, and the next one begins (R184). -/
def State.adoptedAll (s : State) (ctx g : Nat) (r : StepReq) (rest : List StepReq) : State :=
  ((s.modCtx ctx fun x => { x with step := g, next := none, adopted := [], advs := rest }).stepDone r).stepBegin ctx

/-- What an agent does next for the `stepadv` under way of a context: an HA sweeps, or the agent adopts the step (R184-R186). -/
def State.stepPart (s : State) (ctx agent : Nat) : State :=
  let x := s.ctxs.get {} ctx
  match x.advs, x.next with
  | [], _ => s
  | r :: _, none =>
    if 0x200 ≤ agent ∨ x.swept.get false agent then s else
    let s := (s.sweepAt ctx agent).modCtx ctx fun x => { x with swept := x.swept.set agent true }
    if (s.ctxs.get {} ctx).swept.length < 0x200 then s else s.sweptAll ctx r
  | r :: rest, some g =>
    if 0x800 ≤ agent then s else
    let s := s.modCtx ctx fun x => { x with adopted := x.adopted.set agent true }
    if (s.ctxs.get {} ctx).adopted.length < 0x800 then s else s.adoptedAll ctx g r rest

/-- The same for every agent. -/
def State.stepParts (s : State) (ctx : Nat) : State :=
  let x := s.ctxs.get {} ctx
  match x.advs, x.next with
  | [], _ => s
  | r :: _, none =>
    ((List.range 0x200).foldl (fun s a => if x.swept.get false a then s else s.sweepAt ctx a) s).sweptAll ctx r
  | r :: rest, some g => s.adoptedAll ctx g r rest

/-- `stepadv` (R184): it joins its context's queue, and its warp waits until every agent has adopted the step. -/
def execStepadv (f : Eng) (s : State) : Out :=
  s.perWarp (.stepadv f) (fun _ _ _ _ => []) fun s0 c w ms s =>
    let n := (s0.op64 c w (ms.headD 0) f.a).toNat
    if n = 0 ∨ 2 ^ 20 < n then (.fault 0x05 fun _ => 0, s)
    else
      (.park .step, s.stepAsk (s.team c).ctx { who := ⟨c, w, ms.headD 0⟩, lanes := Mask.ofLanes ms, team := s.ownKey c, n := n, dst := dstReg f.d })

/-- `steprd` (R183). -/
def execSteprd (f : Alu) (s : State) : Out :=
  s.perLane (.steprd f) fun _ c w l first s => (.done, s.put c w l first f.d (BitVec.ofNat 64 ((s.ctxOf c).stepAt (0x200 + c))))

end Sys2Proof.Machine
end

