-- ==== Sys2Proof/Machine/MatrixOps.lean ====
section
/-! DEFINITION. Group 10 beyond signing: tile moves, `vxm`, the boundary, and what the engine does when it starts an operation
(R154-R170). -/

namespace Sys2Proof.Machine

-- Issue

/-- The format word of `mld` or `mst`: none for raw words, an error where it is an illegal operand (R167). -/
def State.tileFormat (s : State) (c w l : Nat) (e : BitVec 8) : Except Nat (Option FmtWord) :=
  if e = nilByte then .ok none
  else match fmtWord (s.op64 c w l e) with
    | some f => .ok (some f)
    | none => .error 0x05

/-- The space of IMM5 bits 1:0 (R167). -/
def mxSpace (f : Mx) : Space := spaceOf (f.imm5.toNat % 4)

/-- Places of consecutive rows, or the first fault with its address. -/
def State.rowPlaces (s : State) (c : Nat) (user : Bool) (p : Space) (acc : Acc) (a stride n : Nat) :
    List Nat → State × Except (Nat × Nat) (List (Loc × Word))
  | [] => (s, .ok [])
  | m :: rest =>
    let va := (a + m * stride) % 2 ^ 64
    match s.locate c user p acc va n with
    | (s, .error k) => (s, .error (k, va))
    | (s, .ok x) =>
      match s.rowPlaces c user p acc a stride n rest with
      | (s, .ok xs) => (s, .ok (x :: xs))
      | r => r

/-- How an engine's read of a place stands at issue (R291). -/
def State.peerReady (s : State) (ctx : Nat) (x : Loc) : Ready :=
  match x with
  | .peer pkg _ => match s.route ctx pkg with
    | none => .fault 0x0C 0
    | some n => if (s.conn n).failed then .fault 0x14 n else if (s.conn n).up then .ok else .wait
  | _ => .ok

/-- The first place of a list that is not ready. -/
def State.peersReady (s : State) (ctx : Nat) : List Loc → Ready
  | [] => .ok
  | x :: t => match s.peerReady ctx x with
    | .ok => s.peersReady ctx t
    | r => r

/-- Asks a peer for a line of operation `id`, or takes it from the RRC (R291, R292): its bytes, if they are here. -/
def State.fetchLine (s : State) (c w id idx : Nat) (x : Loc) (leaf : Word) (lva n : Nat) : Option (List Byte × List Bool × Nat) × State :=
  let ctx := (s.team c).ctx
  match x with
  | .peer pkg va =>
    let fill := !Word.bit leaf 2
    match if fill then s.rrcTouch ctx pkg va else none with
    | some (line, s) => (some ((line.bytes.drop (va % 1024)).take n, (line.bad.drop (va % 1024 / 8)).take (n / 8), 0), s)
    | none => match s.route ctx pkg with
      | some k =>
        let f : RrcFetch := { conn := k, ctx := ctx, pkg := pkg, rva := va, page := lva / 65536, size := n, who := ⟨c, w, 32 + idx⟩, team := s.ownKey c, dst := none, ty := .n8, id := id, fill := fill }
        (none, { s with rrcFetch := s.rrcFetch.set s.seq f, seq := s.seq + 1 })
      | none => (none, s)
  | _ => (none, s)

/-- Asks for the lines that lie at peers: their numbers, places, leaves and addresses. -/
def State.fetchLines (s : State) (c w id n : Nat) : List (Nat × Loc × Word × Nat) → Tab (List Byte × List Bool × Nat) × State
  | [] => ([], s)
  | (i, x, leaf, va) :: t =>
    let (g, s) := s.fetchLine c w id i x leaf va n
    let (gs, s) := s.fetchLines c w id n t
    (match g with | some y => gs.set i y | none => gs, s)

/-- The operands of `mld` and `mst` that must agree: address, stride, and the format word (R107, R160). -/
def rowsKey (f : Mx) (s : State) (c w l : Nat) : List Word :=
  [s.op64 c w l f.a, s.op64 c w l f.b, (s.op64 c w l f.e).setWidth 32 |>.setWidth 64]

def execMzero (f : Mx) (s : State) : Out :=
  s.mxWarp (.mzero f) (fun _ _ _ _ => []) fun c w ms s =>
    (.done, s.mxPush c w (Mask.ofLanes ms) (.mzero f.d.toNat))

/-- Rows of `mld` and `mst`: stride and alignment, then every row's place (R167). -/
def State.tileRows (s : State) (c w : Nat) (f : Mx) (l n : Nat) (acc : Acc) : State × Except (Nat × Nat) (List (Loc × Word) × Nat × Nat) :=
  let a := (s.op64 c w l f.a).toNat
  let stride := if f.b = nilByte then n else (s.op64 c w l f.b).toNat
  if stride < n ∨ a % n ≠ 0 ∨ stride % n ≠ 0 then (s, .error (0x0A, a))
  else match s.rowPlaces c (s.isUser c w l) (mxSpace f) acc a stride n (List.range 32) with
    | (s, .ok xs) => (s, .ok (xs, a, stride))
    | (s, .error e) => (s, .error e)

/-- `mld` (R167); row m under sr draws from lane m's generator (log entry 92). -/
def execMld (f : Mx) (s : State) : Out :=
  s.mxWarp (.mld f) (rowsKey f) fun c w ms s =>
    let l := ms.headD 0
    match s.tileFormat c w l f.e with
    | .error k => (.fault k fun _ => 0, s)
    | .ok fw =>
      if f.dbl ∧ f.d.toNat % 2 = 1 then (.fault 0x05 fun _ => 0, s) else
      let n := rowBytes fw f.dbl
      match s.tileRows c w f l n (.ld n) with
      | (s, .error (k, va)) => (.fault k fun _ => va, s)
      | (s, .ok (xs, a, stride)) =>
        match s.peersReady (s.team c).ctx (xs.map (·.1)) with
        | .wait => (.park .retry, s)
        | .fault k _ => (.fault k fun _ => a, s)
        | .ok =>
          let id := s.seq
          let s := { s with seq := s.seq + 1 }
          let (ds, s) := if fw.any fun x => x.drm == .sr then s.takeAll c w 32 (List.range 32) else ([], s)
          let rows := (List.range 32).map fun m => let (x, leaf) := xs.getD m (.hbm 0, 0); (m, x, leaf, (a + m * stride) % 2 ^ 64)
          let (got, s) := s.fetchLines c w id n rows
          let o : MxOp := { slot := w, lanes := Mask.ofLanes ms, ctx := (s.team c).ctx, cls := (s.team c).cls, id := id, k := .mld f.d.toNat (xs.map (·.1)) fw f.dbl (ds.map (·.2)), got := got }
          (.done, { s with mx := s.mx.set c (s.mx.get [] c ++ [o]) })

/-- How `mst` stores its elements (R168). -/
def mxTileMode (f : Mx) (fw : Option FmtWord) : TileMode :=
  let add := f.imm5.getLsbD 2
  match fw with
  | some x => { w := x.aty.width, add := add, how := 3, ty := x.aty, un := x.au, inf := x.ie, rm := x.drm, sat := x.ovf }
  | none =>
    let how := if f.imm5.getLsbD 3 then 1 else if f.dbl then 2 else 0
    { w := if f.dbl then 64 else 32, add := add, how := how, ty := .f32, un := false, inf := false, rm := .rne, sat := false }

/-- `mst` (R167-R169): rows go to memory, register pools and scratchpads, whose agents give the witnesses. -/
def execMst (f : Mx) (s : State) : Out :=
  s.mxWarp (.mst f) (rowsKey f) fun c w ms s =>
    let l := ms.headD 0
    match s.tileFormat c w l f.e with
    | .error k => (.fault k fun _ => 0, s)
    | .ok fw =>
      if f.dbl ∧ f.acc.toNat % 2 = 1 then (.fault 0x05 fun _ => 0, s) else
      let n := rowBytes fw f.dbl
      match s.tileRows c w f l n (if f.imm5.getLsbD 2 then .tileAdd else .st) with
      | (s, .error (k, va)) => (.fault k fun _ => va, s)
      | (s, .ok (xs, a, _)) =>
        if !xs.all fun x => x.1.plain then (.fault 0x0C fun _ => a, s) else
        let m := mxTileMode f fw
        let (ds, s) := if m.rm = .sr then s.takeAll c w 32 (List.range 32) else ([], s)
        let id := s.seq
        let s := (ms.foldl (fun (acc : State × Bool) l => (acc.1.expect c w l acc.2 (dstOf f.d acc.2) 1 id, false)) (s, true)).1
        (.done, s.mxPush c w (Mask.ofLanes ms) (.mst f.acc.toNat (xs.map (·.1)) (xs.map (·.2)) m fw f.dbl (ds.map (·.2)) (f.imm5.toNat % 4) (dstReg f.d)))

/-- `mrd` (R166). -/
def execMrd (f : Mx) (s : State) : Out :=
  s.mxWarp (.mrd f) (fun _ _ _ _ => []) fun c w ms s =>
    if f.dbl ∧ f.acc.toNat % 2 = 1 then (.fault 0x05 fun _ => 0, s)
    else
      let s := ms.foldl (fun s l => s.expect c w l true (dstReg f.d) (if f.dbl then 32 else 16) s.seq) s
      (.done, s.mxPush c w (Mask.ofLanes ms) (.mrd f.acc.toNat f.d.toNat f.dbl))

/-- `mwr` (R166). -/
def execMwr (f : Mx) (s : State) : Out :=
  s.mxWarp (.mwr f) (fun _ _ _ _ => []) fun c w ms s =>
    if f.dbl ∧ f.d.toNat % 2 = 1 then (.fault 0x05 fun _ => 0, s)
    else
      let rows := ms.map fun l => (l, (List.range (if f.dbl then 32 else 16)).map fun j => s.opndAt c w l f.a j)
      (.done, s.mxPush c w (Mask.ofLanes ms) (.mwr f.d.toNat rows f.dbl))

/-- A warp has a register that waits for a write (R78, R170). -/
def State.warpPending (s : State) (c w : Nat) : Bool :=
  let lo := s.poolKey c w 0 0
  let hi := s.poolKey c (w + 1) 0 0
  (s.marks.any fun (k, m) => decide (lo ≤ k) && decide (k < hi) && (m.pend != 0 || m.fut.isSome)) ||
  (s.umarks.any fun (k, m) => k / 64 == warpKey c w && (m.pend != 0 || m.fut.isSome)) ||
  (List.range 32).any fun l => !(s.lane c w l).ppend.isEmpty

/-- `mvbnd` (R170). -/
def execMvbnd (f : Mx) (s : State) : Out :=
  s.perWarp (.mvbnd f) (fun s c w l => [s.op64 c w l f.a]) fun s0 c w ms s =>
    if (s.mx.get [] c).any (fun (o : MxOp) => o.slot == w) || s.warpPending c w then (.park .retry, s)
    else
      let v := (s0.op64 c w (ms.headD 0) f.a).toNat
      if min 128 (s.share c) < v then (.fault 0x05 fun _ => 0, s)
      else (.done, s.modWarp c w fun x => { x with bnd := v })

-- vxm

/-- The format word of a lane's `vxm`, where the engine accepts it (R146, R158, R164). -/
def State.vxmFmt (s : State) (c w l : Nat) (f : Mx) : Option FmtWord :=
  (fmtWord (s.op64 c w l f.e)).filter fun x => x.combo && x.act != 1 && !(x.scaleA && decide (8 < f.imm5.toNat / 4 + x.nb))

/-- Places of a `vxm`'s weights and scales: 32 lines, and the line of scales where B is scaled (R164, R165). -/
def State.vxmPlaces (s : State) (c : Nat) (user : Bool) (p : Nat) (scaled : Bool) : State × Except (Nat × Nat) (List (Loc × Word)) :=
  if p % 128 ≠ 0 then (s, .error (0x0A, p))
  else s.rowPlaces c user .g (.ld 128) p 128 128 (List.range (if scaled then 33 else 32))

/-- One lane of `vxm` at issue (R164, R165): its place in the operation, with the lines that come from a peer. -/
def vxmBody (f : Mx) (id : Nat) (s0 : State) (c w l : Nat) (_ : Bool) (s : State) : LaneOut × State :=
  match s0.vxmFmt c w l f with
  | none => (.fault 0x05 0 0, s)
  | some fw =>
    let p := (s0.op64 c w l f.b).toNat
    let (s, places) : State × Except (Nat × Nat) (List (Loc × Word)) := if p = 0 then (s, .ok []) else s.vxmPlaces c (s.isUser c w l) p fw.scaleB
    match places with
    | .error (k, va) => (.fault k va 0, s)
    | .ok xs =>
      match s.peersReady (s.team c).ctx (xs.map (·.1)) with
      | .wait => (.park .retry, s)
      | .fault k aux => (.fault k p aux, s)
      | .ok =>
        let lines := (List.range xs.length).map fun i => let (x, leaf) := xs.getD i (.hbm 0, 0); (64 * l + i, x, leaf, p + 128 * i)
        let (got, s) := s.fetchLines c w id 128 lines
        let reg := fun (r : Nat) => s0.rd c w l r
        let (fut, s) := s.takeFut c false
        let v : VxmLane := { lane := l, f := fw, block := if p = 0 then none else some (xs.map (·.1)), x := (List.range 16).map fun j => reg (f.a.toNat + j), scale := if fw.scm != 0 then reg (f.a.toNat + 16) else 0, ys := (List.range 16).map fun j => reg (f.d.toNat + 1 + j), fut := fut }
        let s := s.putHandle c w l true f.d fut ⟨c, w, l⟩
        let s := s.expect c w l true (some (f.d.toNat + 1)) 16 id
        let s := s.modLane c w l fun y => { y with ppend := if f.k.toNat % 8 = 7 then y.ppend else y.ppend.set (f.k.toNat % 8) id }
        let mx := s.mx.get [] c
        let mx := mx.map fun (o : MxOp) => if o.id = id then
          { o with lanes := o.lanes ||| Mask.one l, got := mergeTab o.got got, k := match o.k with | .vxm d q ao z ls => .vxm d q ao z (ls ++ [v]) | k => k }
          else o
        (.done, { s with mx := s.mx.set c mx })

/-- `vxm` (R164, R165): its lanes that pass form one operation of the engine's queue. -/
def execVxm (f : Mx) (s : State) : Out :=
  let (c, w) := (s.cur.core, s.cur.slot)
  let ms := s.lanesOfM (.vxm f)
  let stall := fun (s : State) => Host.Outcome.next (s.forLanes (s.issuing (.vxm f)) fun l s => s.modLane c w l fun x => { x with park := .retry })
  if (s.check (.vxm f) (s.issuing (.vxm f))).isNone ∧ !ms.isEmpty ∧ (!s.mxRoom c ∨ !s.futRoom c ms.length false) then stall s
  else
    let id := s.seq
    let o : MxOp := { slot := w, lanes := 0, ctx := (s.team c).ctx, cls := (s.team c).cls, id := id, k := .vxm f.d.toNat f.k.toNat (f.imm5.toNat / 4) f.z [] }
    let open_ := fun (t : State) => { t with mx := t.mx.set c (t.mx.get [] c ++ [o]), seq := t.seq + 1 }
    let close := fun (t : State) => { t with mx := t.mx.set c ((t.mx.get [] c).filter fun o => !(o.id == id && o.lanes == 0)) }
    Out.andThen (s.perLane (.vxm f) (fun s0 c w l first t =>
      vxmBody f id s0 c w l first (if (t.mx.get [] c).any (fun (o : MxOp) => o.id == id) then t else open_ t))
      (pre := fun s ms =>
        if ms.any fun l => match fmtWord (s.op64 c w l f.e) with | some x => x.scm == 0 && f.imm5 != 0 | none => false then some (0x01, fun _ => 0)
        else if ms.any fun l => (s.vxmFmt c w l f).isNone then some (0x05, fun _ => 0)
        else none)) close

-- The engine

/-- A line that an operation reads: bytes, poison by granule, and the fault of a refused fetch. -/
def State.mxLine (s : State) (o : MxOp) (i : Nat) (x : Loc) (n : Nat) : (List Byte × List Bool × Nat) × State :=
  match o.got.find? i, x with
  | some g, _ => (g, s)
  | none, .host _ => let (bs, s) := s.outside n; ((bs, [], 0), s)
  | none, .burzon p => (((List.range n).map fun j => s.burzonByte (p + j), [], 0), s)
  | none, .control .. => let (bs, s) := s.readAt x n; ((bs, [], 0), s)
  | none, x =>
    let (bs, _) := s.valueAt o.ctx x n
    ((bs, (List.range (n / 8)).map fun g => (s.valueAt o.ctx (x.add (8 * g)) 8).2, if s.away o.ctx x then 0x0C else 0), s)

/-- Lines one after another. -/
def State.mxLines (s : State) (o : MxOp) (n : Nat) : List (Nat × Loc) → List (List Byte × List Bool × Nat) × State
  | [] => ([], s)
  | (i, x) :: t =>
    let (g, s) := s.mxLine o i x n
    let (gs, s) := s.mxLines o n t
    (g :: gs, s)

/-- A row of stored elements as tile words (R167): raw, or each element converted to f32 as the format word says (R107). -/
def loadedRow (f : Option FmtWord) (dbl : Bool) (draws : List Nat) (bs : List Byte) : List Word :=
  match f, dbl with
  | none, true => (List.range 32).map fun j => BitVec.ofNat 64 (elemAt 64 bs j)
  | none, false => (List.range 16).map fun j => BitVec.ofNat 64 (elemAt 64 bs j)
  | some f, _ =>
    let es := (List.range 32).map fun n => cvt f.a (.flt f32) f.drm f.ovf (draws.getD n 0) (elemAt f.aty.width bs n)
    packRow 32 16 es

/-- The granule behind word j of a loaded row. -/
def rowGranule (f : Option FmtWord) (j : Nat) : Nat :=
  match f with
  | some f => 2 * j * f.aty.width / 64
  | none => j

/-- `mld` in the engine (R167): poison comes with its elements, and a refused row leaves its refusal in the words. -/
def State.mxLoad (s : State) (c : Nat) (o : MxOp) (t : Nat) (rows : List Loc) (f : Option FmtWord) (dbl : Bool) (draws : List (List Nat)) : State :=
  let (gs, s) := s.mxLines o (rowBytes f dbl) ((List.range 32).map fun m => (m, rows.getD m (.hbm 0)))
  (gs.foldl (fun (acc : State × Nat) (bs, bad, fault) =>
    let (s, m) := acc
    let ws := loadedRow f dbl (draws.getD m []) bs
    let q0 := (if dbl then 32 else 16) * m
    let s := (ws.foldl (fun (a : State × Nat) v => (a.1.setTileWord c o.slot t (q0 + a.2) v (bad.getD (rowGranule f a.2) false), a.2 + 1)) (s, 0)).1
    let s := if fault = 0 then s else
      { s with marks := (List.range ws.length).foldl (fun t' j => t'.set (s.tileKey c o.slot t (q0 + j)) { fault := fault }) s.marks }
    (s, m + 1)) (s, 0)).1

/-- A row of a tile on its way to memory (R168). -/
def State.storedRow (s : State) (c : Nat) (o : MxOp) (t m : Nat) (x : Loc) (f : Option FmtWord) (dbl : Bool) (draws : List (List Nat)) : TileRow :=
  let q0 := (if dbl then 32 else 16) * m
  let bad := fun (j : Nat) => (s.marks.get {} (s.tileKey c o.slot t (q0 + j))).bad
  let gs := rowBytes f dbl / 8
  { loc := x, vals := (List.range 32).map fun n => s.tileElem c o.slot t dbl m n, draws := draws.getD m []
    bad := (List.range gs).map fun g => (List.range (if dbl then 32 else 16)).any fun j => rowGranule f j == g && bad j }

/-- `mst` in the engine (R169): a request for each row at its HA, or one for the whole tile at a scratchpad port. -/
def State.mxStore (s : State) (c : Nat) (o : MxOp) (t : Nat) (rows : List Loc) (leaves : List Word) (m : TileMode) (f : Option FmtWord)
    (dbl : Bool) (draws : List (List Nat)) (space : Nat) (d : Option Nat) : State :=
  let who : LaneId := ⟨c, o.slot, o.lanes.lanes.headD 0⟩
  let out := (List.range 32).map fun i => s.storedRow c o t i (rows.getD i (.hbm 0)) f dbl draws
  let req := fun (x : Loc) (leaf : Word) (rs : List TileRow) (sc : Scope) (join : Option Nat) =>
    ({ who := who, lanes := o.lanes, team := s.ownKey c, own := space != 0, ord := o.id, inst := 0, since := s.now, ctx := o.ctx, cls := o.cls, loc := x, op := .tile m rs sc, dst := d, path := some c, leaf := leaf, join := join } : Req)
  if space = 0 then
    let j := o.id
    let s := { s with joins := s.joins.set j { who := who, lanes := o.lanes, team := s.ownKey c, id := o.id, dst := d, left := 32, wits := [] } }
    (out.foldl (fun (acc : State × Nat) r =>
      ({ acc.1 with reqs := acc.1.reqs.set acc.1.seq (req r.loc (leaves.getD acc.2 0) [r] .pk (some j)), seq := acc.1.seq + 1 }, acc.2 + 1)) (s, 0)).1
  else
    let j := o.id
    let s := { s with joins := s.joins.set j { who := who, lanes := o.lanes, team := s.ownKey c, id := o.id, dst := d, left := 1, wits := [] } }
    { s with reqs := s.reqs.set s.seq (req (rows.getD 0 (.hbm 0)) 0 out (if space = 1 then .tm else .di) (some j)), seq := s.seq + 1 }

/-- A result of the engine for a lane (R78): dropped where the lane has ended. -/
def State.mxResult (s : State) (c : Nat) (o : MxOp) (l r : Nat) (v : Word) (m : Mark) : State :=
  s.landReg { who := ⟨c, o.slot, l⟩, team := s.ownKey c, regs := [], load := false, id := o.id } (r, v, m)

/-- `mrd` in the engine (R166). -/
def State.mxRead (s : State) (c : Nat) (o : MxOp) (t d : Nat) (dbl : Bool) : State :=
  let n := if dbl then 32 else 16
  s.forLanes o.lanes.lanes fun l s => (List.range n).foldl (fun s j =>
    let key := s.tileKey c o.slot t (n * l + j)
    s.mxResult c o l (d + j) (s.pool.get 0 key) { s.marks.get {} key with pend := 0, fut := none }) s

/-- One result of `vxm` (R164): f32 sums, or i32 under ACT 2. -/
def vxmElem (f : FmtWord) (x col : List Word) (codes : Nat → List Nat) (y : Nat) : Nat :=
  (List.range ((f.rowLen + 31) / 32)).foldl (fun y g =>
    let n := min 32 (f.rowLen - 32 * g)
    if f.act = 2 then accumInt f y (groupInt f x col (32 * g) n)
    else f32.round .rne f.ovf 0 (sumFV .rne [f32.val y, groupVal f (groupSum f x col (32 * g) n) (codes g)]).x) y

/-- One lane of `vxm` in the engine (R164, R165). -/
def State.mxVxm (s : State) (c : Nat) (o : MxOp) (d p ao : Nat) (z : Bool) (v : VxmLane) : State :=
  let l := v.lane
  let unpend := fun (s : State) =>
    let s := (List.range 16).foldl (fun s j => if (s.mark c o.slot l (d + 1 + j)).pend = o.id + 1 then s.setMark c o.slot l (d + 1 + j) {} else s) s
    s.modLane c o.slot l fun y => if y.ppend.find? (p % 8) = some o.id then { y with ppend := y.ppend.erase (p % 8) } else y
  let give := fun (s : State) (ys : List Nat) (b : Bool) =>
    let ws := packRow 32 16 ys
    let s := (List.range 16).foldl (fun s j => s.mxResult c o l (d + 1 + j) (ws.getD j 0) {}) s
    (s.mxResult c o l (predId (p % 8)) (if b then 1 else 0) {}).futDone (some v.fut) 0
  match v.block with
  | none => give s (List.replicate 32 0) false
  | some xs =>
    let (gs, s) := s.mxLines o 128 ((List.range xs.length).map fun i => (64 * l + i, xs.getD i (.hbm 0)))
    let need := fun (i : Nat) => if i < 32 then 16 else 4 * v.f.nb
    let bad := (List.range gs.length).any fun i => match gs[i]? with | some (_, b, _) => (b.take (need i)).contains true | none => false
    let refused := (gs.find? fun g => g.2.2 != 0).map (·.2.2)
    let fault := match refused with | some k => k | none => if bad then 0x11 else 0
    if fault ≠ 0 then
      let live := (s.lane c o.slot l).live
      ((unpend (if live then s else s.dropFault c)).futDone (some v.fut) 0 fault 0)
    else
      let col := fun (n : Nat) => match gs[n]? with | some (bs, _, _) => (List.range 16).map fun j => BitVec.ofNat 64 (elemAt 64 bs j) | none => []
      let sb := fun (i : Nat) => match gs[32]? with | some (bs, _, _) => elemAt 8 bs i | none => 0
      let ys := (List.range 32).map fun n =>
        let codes := fun (g : Nat) => (if v.f.scaleA then [getE v.scale 8 (ao + g / 2)] else []) ++ (if v.f.scaleB then [sb (v.f.nb * n + g / 2)] else [])
        vxmElem v.f v.x (col n) codes (if z then 0 else getE (v.ys.getD (n / 2) 0) 32 (n % 2))
      give s ys true

/-- What the engine does when it starts an operation: all of it, in one step (log entry 20). -/
def State.mxPerform (s : State) (c : Nat) (o : MxOp) : State :=
  let w := o.slot
  match o.k with
  | .mma d cc f kx nx off rows scale ao mode z =>
    let low := (rows.map (·.1)).headD 0
    let bo := if f.scaleA then ao + f.nb else ao
    s.product c w f kx nx off rows (scaleCodes f scale low ao bo (2 ≤ mode) (mode % 2 == 1)) d cc z
  | .mmaa d a n f kx nx off members ds scale bo mode z =>
    let low := members.headD 0
    let rows := members.map fun m =>
      let draw := (ds.find? fun x => x.1 == m).map (·.2)
      let es := (List.range (32 * n)).map fun k => cvt (.flt f32) f.a f.drm f.ovf ((draw.getD []).getD k 0) (s.tileElem c w (a + k / 32) false m (k % 32))
      (m, packRow f.aty.width 16 (es ++ List.replicate (f.rowLen - 32 * n) 0))
    s.product c w f kx nx off rows (scaleCodes f scale low 0 bo false (mode == 1)) d d z
  | .vxm d p ao z ls => ls.foldl (fun s v => s.mxVxm c o d p ao z v) s
  | .mzero t => (List.range 512).foldl (fun s q => s.setTileWord c w t q 0) s
  | .mld t rows f dbl draws => s.mxLoad c o t rows f dbl draws
  | .mst t rows leaves m f dbl draws space d => s.mxStore c o t rows leaves m f dbl draws space d
  | .mrd t d dbl => s.mxRead c o t d dbl
  | .mwr t rows dbl => rows.foldl (fun s (m, ws) => s.setTileRow c w t dbl m ws) s

/-- An operation reads memory that its lanes have written: earlier writes of theirs come first (R155, R222). -/
def State.mxReady (s : State) (c : Nat) (o : MxOp) : Bool :=
  let reads := match o.k with | .mma .. | .mmaa .. | .vxm .. | .mld .. => true | _ => false
  !(reads && s.reqs.any fun (_, r) => r.op.isWrite && decide (r.ord < o.id) && r.who.core == c && r.who.slot == o.slot && r.lanes &&& o.lanes != 0) &&
  s.rrcFetch.all fun (_, f) => !(f.id == o.id && decide (32 ≤ f.who.lane) && f.who.core == c)

/-- The matrix engine starts the oldest operation of its queue (R154); signed operations may then enter the queue. Its reads are its lanes'
own: no stale copy stays in the core's L1 beside them (R204). -/
def execMatrixEngineOpStart (core : Nat) (s : State) : Out :=
  match s.mx.get [] core with
  | [] => .next s
  | o :: rest =>
    if s.mxReady core o then
      .next ((({ s.l1Fresh core with mx := s.mx.set core rest }.mxPerform core o).settleSigns core).wake)
    else .next s

end Sys2Proof.Machine
end

