-- ==== Sys2Proof/Machine/Copies.lean ====
section
/-! DEFINITION. What engines read and write for the instructions and chains that use them (R173, R211, R419), and the copy
queues: `cpy`, `cpyw`, `cpyg`, `qfen` (R344-R350, R354). -/

namespace Sys2Proof.Machine

-- An engine's accesses

/-- Place of an engine's access in a context, in the mode of what issued it (R413, R419). -/
def State.enginePlace (s : State) (core : Option Nat) (ctx : Nat) (user : Bool) (acc : Acc) (va n : Nat) :
    State × Except Nat (Loc × Word) :=
  match s.xlate core ctx user acc va n with
  | (s, .ok (x, leaf)) =>
    let f := s.targetFault ctx (!user) acc n x
    if f = 0 then (s, .ok (x, leaf)) else (s.unlearn core ctx va, .error f)
  | r => r

/-- An engine's access can be made now: a unit's words wait for its team (R419). -/
def State.engineOpen (s : State) (ctx : Nat) (x : Loc) : Bool :=
  match x with
  | .sync c _ | .queue c _ => (match s.teams.find? c with | some t => t.ctx == ctx | none => false)
  | _ => true

/-- Bytes that an engine reads at a place, and whether they are poisoned (R211). Bytes of the host, and of a peer that the RRC
does not hold, come from outside (log entry 22). -/
def State.engineRead (s : State) (ctx : Nat) (x : Loc) (leaf : Word) (n : Nat) : List Byte × Bool × State :=
  match x with
  | .host _ => let (bs, s) := s.outside n; (bs, false, s)
  | .peer pkg va =>
    match if Word.bit leaf 2 then none else s.rrcTouch ctx pkg va with
    | some (line, s) => ((line.bytes.drop (va % 1024)).take n, line.bad.getD (va % 1024 / 8) false, s)
    | none => let (bs, s) := s.outside n; (bs, false, s)
  | .burzon o => ((List.range n).map fun j => s.burzonByte (o + j), false, s)
  | .sync .. | .queue .. | .control .. => let (bs, s) := s.readAt x n; (bs, false, s)
  | x => let (bs, bad) := s.valueAt ctx x n; (bs, bad, s)

/-- The witness of an engine's writes at some agents (R350): a point where there is one agent, else a frontier. -/
def State.agentsWit (s : State) (c sc : Nat) (agents : List Nat) : Word :=
  match agents with
  | [] => 0
  | a :: t => if t.all (· == a) && decide (a < 0x800) then point a (max sc 1) s.now
    else frontier (agents.foldl (fun m a => max m (ext a c)) sc) s.now

-- Granules

/-- The naturally aligned granule of up to 8 bytes at an address, with n bytes left (R350). -/
def granuleSize (a n : Nat) : Nat :=
  if a % 8 = 0 ∧ 8 ≤ n then 8 else if a % 4 = 0 ∧ 4 ≤ n then 4 else if a % 2 = 0 ∧ 2 ≤ n then 2 else 1

/-- The granules of a range: offset and length. -/
def granules : Nat → Nat → Nat → Nat → List (Nat × Nat)
  | 0, _, _, _ => []
  | k + 1, a, o, n =>
    if n = 0 then [] else
    let g := granuleSize a n
    (o, g) :: granules k (a + g) (o + g) (n - g)

/-- Where g bytes of a source from offset o lie: one aligned access, or bytes. -/
def srcPieces (src : Nat → Nat) (o g : Nat) : List (Nat × Nat) :=
  if src o % g = 0 ∧ (List.range g).all (fun i => src (o + i) == src o + i) then [(src o, g)]
  else (List.range g).map fun i => (src (o + i), 1)

/-- Places of a list of accesses, or the first fault with its address. -/
def State.placeAll (s : State) (core : Option Nat) (ctx : Nat) (user : Bool) (acc : Acc) :
    List (Nat × Nat) → State × Except (Nat × Nat) (List (Loc × Word × Nat))
  | [] => (s, .ok [])
  | (a, n) :: t =>
    match s.enginePlace core ctx user acc a n with
    | (s, .error k) => (s, .error (k, a))
    | (s, .ok (x, leaf)) =>
      match s.placeAll core ctx user acc t with
      | (s, .ok xs) => (s, .ok ((x, leaf, n) :: xs))
      | r => r

/-- The moves of a copy to `dst`, granule by granule, or the first fault; `ok` is a rule on destinations (R349). -/
def State.movesFrom (s : State) (core : Option Nat) (ctx : Nat) (user : Bool) (ok : Loc → Bool) (dst : Nat) (src : Nat → Nat) :
    List (Nat × Nat) → State × Except (Nat × Nat) (List CopyMove)
  | [] => (s, .ok [])
  | (o, g) :: t =>
    match s.placeAll core ctx user .rawRead (srcPieces src o g) with
    | (s, .error e) => (s, .error e)
    | (s, .ok xs) =>
      match s.enginePlace core ctx user .rawWrite (dst + o) g with
      | (s, .error k) => (s, .error (k, dst + o))
      | (s, .ok (y, leaf)) =>
        if !ok y then (s, .error (0x0C, dst + o)) else
        match s.movesFrom core ctx user ok dst src t with
        | (s, .ok ms) => (s, .ok ({ dst := y, leaf := leaf, n := g, src := xs } :: ms))
        | r => r

/-- Every place of a list of moves. -/
def placesOf (ms : List CopyMove) : List Loc := ms.flatMap fun m => m.dst :: m.src.map (·.1)

/-- Bytes of a move's sources, one after another. -/
def State.readPieces (s : State) (ctx : Nat) : List (Loc × Word × Nat) → List Byte × Bool × State
  | [] => ([], false, s)
  | (x, leaf, n) :: t =>
    let (bs, b, s) := s.engineRead ctx x leaf n
    let (cs, b', s) := s.readPieces ctx t
    (bs ++ cs, b || b', s)

/-- Makes moves, one after another (R350): the messages that went to peers. -/
def State.makeMoves (s : State) (who : LaneId) (team ctx cls : Nat) (sc : Scope) : List CopyMove → State × List (Nat × Nat)
  | [] => (s, [])
  | m :: t =>
    let (bs, bad, s) := s.readPieces ctx m.src
    let (s, q) := s.engineWrite who team ctx m.dst m.leaf sc bs bad cls
    let (s, qs) := s.makeMoves who team ctx cls sc t
    (s, q.toList ++ qs)

/-- Agents that moves write at. -/
def State.moveAgents (s : State) (ms : List CopyMove) : List Nat :=
  (ms.filter fun m => match m.dst with | .peer .. => false | _ => true).map fun m => (s.place m.dst).agent

/-- Completion witness of writes that have closed: at the tick of the last close (R350), with the frontier that covers writes at peers. -/
def State.shutWit (s : State) (c sc : Nat) (o : Opened) : Word :=
  let w := s.agentsWit c sc o.agents
  if o.links.isEmpty then w else (s.merge c w (frontier 7 s.now)).getD w

-- The copy queues of a core

def cqKey (c q : Nat) : Nat := c * 4 + q
def State.copyQueue (s : State) (c q : Nat) : List CopyJob := s.cq.get [] (cqKey c q)
def State.setCopyQueue (s : State) (c q : Nat) (js : List CopyJob) : State := { s with cq := s.cq.set (cqKey c q) js }

/-- One lane of a copy (R349, R350): `kind` is 0 for `cpy`, 1 for `cpyw`, 2 for `cpyg`. -/
def copyBody (f : Eng) (kind : Nat) (s0 : State) (c w l : Nat) (first : Bool) (s : State) : LaneOut × State :=
  let dst := (s0.op64 c w l f.a).toNat
  let b := (s0.op64 c w l f.b).toNat
  let x := s0.op64 c w l f.c
  let (ctx, user) := ((s.team c).ctx, s.isUser c w l)
  let size := f.ty.bytes
  let len := if kind = 0 then x.toNat else if kind = 1 then Word.field x 31 0 else x.toNat * size
  if len = 0 then (.done, s.put c w l first f.d 0)
  else
    -- cpyg's table is read at issue, after the lane's own earlier writes there (R222)
    let (s, table) : State × Except (Nat × Nat) (List (Loc × Word × Nat)) :=
      if kind ≠ 2 then (s, .ok [])
      else if dst % size ≠ 0 then (s, .error (0x0A, dst))
      else if b % 8 ≠ 0 then (s, .error (0x0A, b))
      else s.placeAll (some c) ctx user .rawRead ((List.range x.toNat).map fun j => (b + 8 * j, 8))
    match table with
    | .error (k, a) => (.fault k a 0, s)
    | .ok ts =>
      if ts.any fun t => s.laneBusy c w l t.1 8 then (.park .retry, s) else
      let (bs, _, s) := s.readPieces ctx ts
      let entry := fun (j : Nat) => leNat ((bs.drop (8 * j)).take 8)
      match (List.range ts.length).find? fun j => entry j % size != 0 with
      | some j => (.fault 0x0A (entry j) 0, s)
      | none =>
        let src := fun (o : Nat) => if kind = 2 then entry (o / size) + o % size else b + o
        let ok := fun (y : Loc) => match y with | .pool .. | .sp .. => true | _ => kind != 1
        match s.movesFrom (some c) ctx user ok dst src (granules len dst 0 len) with
        | (s, .error (k, a)) => (.fault k a 0, s)
        | (s, .ok ms) =>
          match s.peersReady ctx (placesOf ms) with
          | .wait => (.park .retry, s)
          | .fault k aux => (.fault k dst aux, s)
          | .ok =>
            if !s.futRoom c 1 true then (.park .retry, s) else
            let who : LaneId := ⟨c, w, l⟩
            let (fut, s) := s.takeFut c true
            let sem := match ms with
              | m :: _ => if kind = 1 ∧ Word.bit x 38 then some (m.dst.agent - 0x200, Word.field x 37 32) else none
              | [] => none
            let j : CopyJob := { who := who, team := s.ownKey c, ctx := ctx, cls := s.laneClass c w l, moves := ms, sem := sem, sc := f.sc, fut := some fut }
            let q := f.mod.toNat % 4
            (.done, (s.putHandle c w l first f.d fut who).setCopyQueue c q (s.copyQueue c q ++ [j]))

/-- A length, count or semaphore field that no copy may have stops all lanes (R349, R350). -/
def copyPre (f : Eng) (bad : Word → Bool) : PreCheck := fun s ms =>
  if ms.any fun l => bad (s.op64 s.cur.core s.cur.slot l f.c) then some (0x05, fun _ => 0) else none

def execCpy (f : Eng) (s : State) : Out :=
  s.perLane (.cpy f) (copyBody f 0) (pre := copyPre f fun x => decide (2 ^ 30 < x.toNat))

def execCpyw (f : Eng) (s : State) : Out :=
  s.perLane (.cpyw f) (copyBody f 1) (pre := copyPre f fun x => Word.field x 63 39 != 0 || decide (2 ^ 30 < Word.field x 31 0))

def execCpyg (f : Eng) (s : State) : Out :=
  s.perLane (.cpyg f) (copyBody f 2) (pre := copyPre f fun x => decide (2 ^ 20 < x.toNat))

/-- Gives one handle to every lane of M, in the name of the lowest (R346). -/
def State.putHandleAll (s : State) (c w : Nat) (ms : List Nat) (d : BitVec 8) (fut : FutRef) : State :=
  (ms.foldl (fun (acc : State × Bool) l => (acc.1.putHandle c w l acc.2 d fut ⟨c, w, ms.headD 0⟩, false)) (s, true)).1

/-- `qfen` (R245, R354): an entry in each of its queues; the Mill's is a place that the others wait for. -/
def execQfen (f : Eng) (s : State) : Out :=
  s.perWarp (.qfen f) (fun s c w l => [s.op64 c w l f.a]) fun s0 c w ms s =>
    let l := ms.headD 0
    let m := (s0.op64 c w l f.a).toNat
    if m = 0 ∨ 32 ≤ m then (.fault 0x05 fun _ => 0, s)
    else if !s.futRoom c 1 false ∨ (16 ≤ m ∧ 16 ≤ (s.team c).mill.length) then (.park .retry, s)
    else
      let (fut, s) := s.takeFut c false
      let id := s.seq
      let s := { s with seq := s.seq + 1 }.putHandleAll c w ms f.d fut
      let j : CopyJob := { who := ⟨c, w, l⟩, team := s.ownKey c, ctx := (s.team c).ctx, cls := s.laneClass c w l, moves := [], sem := none, sc := f.sc, fut := some fut, fence := some (m, id) }
      let s := (List.range 4).foldl (fun s q => if m.testBit q then s.setCopyQueue c q (s.copyQueue c q ++ [j]) else s) s
      let mill : MillJob := { desc := [BitVec.ofNat 64 f.sc.code.toNat], fut := if m = 16 then some fut else none, user := s.isUser c w l, fence := some id }
      (.done, if m.testBit 4 then s.modTeam c fun t => { t with mill := t.mill ++ [mill] } else s)

-- What the copy interface does

/-- Entries of a queue that a fence covers have completed with a witness. -/
def State.coverCopies (s : State) (c q : Nat) (wit : Word) : State :=
  s.setCopyQueue c q ((s.copyQueue c q).map fun x => if x.fence.isSome then { x with wit := (s.merge c x.wit wit).getD x.wit } else x)

/-- The Mill's queue once its oldest place has gone with a witness, which the fences behind it cover. -/
def State.millRest (s : State) (c : Nat) (wit : Word) : List MillJob :=
  ((s.team c).mill.drop 1).map fun x => if x.fence.isSome then { x with wit := (s.merge c x.wit wit).getD x.wit } else x

/-- An entry is over: where it has completed its semaphore rises, and its handle is ready to resolve (R244, R269). -/
def State.copyDone (s : State) (c q : Nat) (j : CopyJob) (wit : Word) (fault aux : Nat) : State :=
  let s := (s.setCopyQueue c q ((s.copyQueue c q).drop 1)).coverCopies c q wit
  let s := match j.sem with
    | some (d, n) => if fault ≠ 0 ∨ !s.holds d j.ctx then s else s.onTeam d j.ctx none fun s => s.semInc (.core d n) 1 wit
    | none => s
  (s.futDone j.fut wit fault aux).wake

/-- The oldest place of the core's Mill queue is a fence's (R348, R354). -/
def State.millAtFence (s : State) (c id : Nat) : Bool :=
  match (s.team c).mill with
  | m :: _ => m.fence == some id && (s.team c).millHalt == 0
  | [] => false

/-- A fence that stands first in all its queues is complete: they go on, with the witness of all that it covered (R354). -/
def State.fenceStart (s : State) (c : Nat) (j : CopyJob) (m id : Nat) : State :=
  let qs := (List.range 4).filter m.testBit
  let first := fun (q : Nat) => match s.copyQueue c q with | x :: _ => x.fence == some (m, id) | [] => false
  if !(qs.all first) ∨ (m.testBit 4 ∧ !s.millAtFence c id) then s
  else
    let parts := qs.filterMap fun q => (s.copyQueue c q).head?.map (·.wit)
    let mill := if m.testBit 4 then (match (s.team c).mill with | x :: _ => [x.wit] | [] => []) else []
    let wit := s.mergeAll c (parts ++ mill)
    let wit := (s.widen j.sc.code.toNat wit).getD wit
    let s := qs.foldl (fun s q => (s.setCopyQueue c q ((s.copyQueue c q).drop 1)).coverCopies c q wit) s
    let s := if m.testBit 4 then s.modTeam c fun t => { t with mill := s.millRest c wit } else s
    (s.futDone j.fut wit).wake

/-- The oldest entry of a copy queue starts, or completes once the writes of its moves have closed (R244, R347, R350). One whose window
is no longer the context's ends with the access fault for its handle's reader (R419, log entry 78). -/
def State.copyStart (s : State) (c q : Nat) : State :=
  match s.copyQueue c q with
  | [] => s
  | j :: rest =>
    match j.fence with
    | some (m, id) => s.fenceStart c j m id
    | none =>
      match j.shut with
      | some o =>
        match s.shut o with
        | .ok => s.copyDone c q j (s.shutWit c j.sc.code.toNat o) 0 0
        | .wait => s
        | .fault k aux => s.copyDone c q j 0 k aux
      | none =>
        if (placesOf j.moves).any (s.away j.ctx) then s.copyDone c q j 0 0x0C 0
        else if !((placesOf j.moves).all (s.engineOpen j.ctx)) then s
        else
          let s := s.futStart j.fut
          let agents := s.moveAgents j.moves
          let (s, links) := s.makeMoves { j.who with lane := 32 } j.team j.ctx j.cls j.sc j.moves
          s.setCopyQueue c q ({ j with shut := some (s.opens agents links) } :: rest)

end Sys2Proof.Machine
end

