-- ==== Sys2Proof/Machine/Mill.lean ====
section
/-! DEFINITION. Architected queues (R355) and the Mill: its chains, its stream and its status (R348, R351, R352, R356). -/

namespace Sys2Proof.Machine

-- Architected queues

def State.aqueue (s : State) (c k : Nat) : AQueue := (s.team c).aq.get {} k
def State.setAqueue (s : State) (c k : Nat) (q : AQueue) : State := s.modTeam c fun t => { t with aq := t.aq.set k q }

/-- Appends an entry. -/
def AQueue.push (q : AQueue) (e : List Word × List Bool) : AQueue :=
  { q with ents := q.ents ++ [e], pushes := (q.pushes + 1) % 2 ^ 64 }

/-- Waiting lanes of a queue go on (R355): each receives its 8 bytes of a popped entry. -/
def State.aqServed (s : State) (c : Nat) (x : AqWait) (e : List Word × List Bool) : State :=
  let here := x.lanes.lanes.filter fun l => (s.lane c x.slot l).park == .queue
  s.forLanes here fun l s =>
    let s := if x.push.isSome then s else s.put c x.slot l true x.dst (e.1.getD l 0) { bad := e.2.getD l false }
    s.modLane c x.slot l (·.resume)

/-- Serves the waiters of a queue in arrival order, as far as the queue allows. -/
def State.aqServe (s : State) (c k : Nat) : Nat → State
  | 0 => s
  | n + 1 =>
    let q := s.aqueue c k
    let setWait := fun (s : State) (t : List AqWait) => s.modTeam c fun y => { y with aqWait := y.aqWait.set k t }
    match (s.team c).aqWait.get [] k with
    | [] => s
    | x :: rest =>
      match x.push, q.ents with
      | some e, _ =>
        if 16 ≤ q.ents.length then s
        else State.aqServe ((setWait (s.setAqueue c k (q.push e)) rest).aqServed c x e) c k n
      | none, [] => s
      | none, e :: es =>
        State.aqServe ((setWait (s.setAqueue c k { q with ents := es, pops := (q.pops + 1) % 2 ^ 64 }) rest).aqServed c x e) c k n

/-- A push or pop joins the queue's waiters, and is served if it can be: a push that has room goes ahead of waiting pops, and a pop that
finds an entry ahead of waiting pushes (R355). -/
def State.aqJoin (s : State) (c k : Nat) (x : AqWait) : State :=
  let ws := (s.team c).aqWait.get [] k
  let n := (s.aqueue c k).ents.length
  let ws := if if x.push.isSome then n < 16 else 0 < n then x :: ws else ws ++ [x]
  (s.modTeam c fun t => { t with aqWait := t.aqWait.set k ws }).aqServe c k (ws.length + 1)

/-- Lanes of M wait at a queue (R355). -/
def State.aqWarp (s : State) (i : Instr) (k : Nat) (push : State → Nat → Nat → List Nat → Option (List Word × List Bool)) (d : BitVec 8) : Out :=
  s.perWarp i (fun _ _ _ _ => []) fun s0 c w ms s =>
    let s := s.forLanes ms fun l s => s.modLane c w l fun x => { LaneOut.after (.park .queue) i.stall x with since := s.now }
    (.own, (s.aqJoin c k { slot := w, lanes := Mask.ofLanes ms, push := push s0 c w ms, dst := d, since := s.now }).wake)

def execQpush (f : Eng) (s : State) : Out :=
  s.aqWarp (.qpush f) f.c.toNat (fun s0 c w ms =>
    some ((List.range 32).map fun l => if ms.contains l then s0.op64 c w l f.a else 0, List.replicate 32 false)) nilByte

def execQpop (f : Eng) (s : State) : Out := s.aqWarp (.qpop f) f.c.toNat (fun _ _ _ _ => none) f.d

-- Chain descriptors

/-- A Mill chain (R351). -/
structure MillDesc where
  src : Nat
  qd : Bool
  dst : Nat
  scl : Nat
  count : Nat
  sty : Ty
  dty : Ty
  rm : Rm
  sat : Bool
  un : Bool
  inf : Bool
  ops : List (Nat × Nat)
  cst : List Nat
  deriving DecidableEq, Repr

/-- Types of a stream's elements (R351). -/
def millTy (t : Ty) : Bool := (t.isF && t != .f64) || t.isB8 || t.is4 || t == .i8 || t == .n8

/-- The descriptor's eight dwords, or none where it is malformed (R351, R352). -/
def millDesc (ws : List Word) : Option MillDesc :=
  let d := fun (j : Nat) => ws.getD j 0
  match Ty.ofCode (Word.field (d 3) 36 32), Ty.ofCode (Word.field (d 3) 44 40), Rm.ofCode (Word.field (d 3) 54 52) with
  | some sty, some dty, some rm =>
    let n := Word.field (d 3) 50 48 + 1
    let ops := (List.range n).map fun j => (Word.field (d 4) (8 * j + 3) (8 * j), Word.field (d 4) (8 * j + 7) (8 * j + 4))
    let qd := Word.bit (d 1) 63
    let (src, dst, scl, count) := (Word.field (d 0) 51 0, Word.field (d 1) 51 0, Word.field (d 2) 51 0, Word.field (d 3) 31 0)
    let bytes := fun (t : Ty) => max 1 t.bytes
    let zeros := Word.field (d 0) 63 52 == 0 && Word.field (d 1) 62 52 == 0 && Word.field (d 2) 63 52 == 0 && Word.field (d 3) 63 58 == 0 &&
      !Word.bit (d 3) 51 && Word.field (d 3) 47 45 == 0 && Word.field (d 3) 39 37 == 0 && (d 4).toNat / 2 ^ (8 * n) == 0
    let opOk := fun (x : Nat × Nat) => decide (x.1 ≤ 5) && (x.1 == 0) == (sty == .dw) && decide (x.2 ≤ if 3 ≤ x.1 then 4 else 5)
    let scales := ops.any fun x => x.1 == 2
    if zeros && (millTy sty || sty == .dw) && millTy dty && ops.all opOk && (scl != 0) == scales && decide (1 ≤ count) && decide (count ≤ 2 ^ 30) &&
        src % bytes sty == 0 && (if qd then decide (dst < 4) else dst % bytes dty == 0) then
      some { src := src, qd := qd, dst := dst, scl := scl, count := count, sty := sty, dty := dty, rm := rm, sat := Word.bit (d 3) 55, un := Word.bit (d 3) 56
             inf := Word.bit (d 3) 57, ops := ops, cst := (List.range 6).map fun k => getE (d (5 + k / 2)) 32 (k % 2) }
    else none
  | _, _, _ => none

/-- A descriptor of n bytes that a lane reads as one load at issue: its dwords, none while it must wait, or a fault with its
address (R293, R351, R372). -/
def State.descAt (s : State) (c w l a n : Nat) : State × Except (Nat × Nat) (Option (List Word)) :=
  match s.locate c (s.isUser c w l) .g (.ld n) a n with
  | (s, .error k) => (s, .error (k, a))
  | (s, .ok (x, leaf)) =>
    if s.laneBusy c w l x n then (s, .ok none) else
    match s.peerReady (s.team c).ctx x with
    | .wait => (s, .ok none)
    | .fault k _ => (s, .error (k, a))
    | .ok =>
      let (bs, _, s) := s.engineRead (s.team c).ctx x leaf n
      (s, .ok (some ((List.range (n / 8)).map fun j => BitVec.ofNat 64 (leNat ((bs.drop (8 * j)).take 8)))))

/-- `chn` (R348, R351). -/
def execChn (f : Eng) (s : State) : Out :=
  s.perWarp (.chn f) (fun s c w l => [s.op64 c w l f.a]) fun s0 c w ms s =>
    let l := ms.headD 0
    if 16 ≤ (s.team c).mill.length ∨ !s.futRoom c 1 false then (.park .retry, s) else
    let a := (s0.op64 c w l f.a).toNat
    match s.descAt c w l a 64 with
    | (s, .error (k, a)) => (.fault k fun _ => a, s)
    | (s, .ok none) => (.park .retry, s)
    | (s, .ok (some ws)) =>
      if (millDesc ws).isNone then (.fault 0x05 fun _ => 0, s)
      else
        let (fut, s) := s.takeFut c false
        let s := s.putHandleAll c w ms f.d fut
        (.done, s.modTeam c fun t => { t with mill := t.mill ++ [{ desc := ws, fut := some fut, user := s.isUser c w l }] })

-- The stream

/-- One element through the operations (R352); `scale` is its x8 scale. -/
def MillDesc.value (d : MillDesc) (scale x : Nat) : Nat :=
  let c := fun (k : Nat) => d.cst.getD k 0
  d.ops.foldl (fun x (op, k) =>
    match op with
    | 1 => mul32 x (c k)
    | 2 => f32.round .rne false 0 (if scale = 0xFF then .nan else (f32.val x).scale ((scale : Int) - 127))
    | 3 => f32.round .rne false 0 (sumFV .rne [(f32.val x).mul (f32.val (c k)), f32.val (c (k + 1))]).x
    | 4 => f32.minmax false (f32.minmax true x (c k)) (c (k + 1))
    | 5 => if (f32.val x).isNan ∨ (f32.val (c k)).isNan ∨ (f32.val x).lt false (f32.val (c k)) then c (k + 1) else x
    | _ => x) x

/-- An element's place in memory: its byte, and its number among elements of that byte. -/
def elemPlace (base : Nat) (t : Ty) (j : Nat) : Nat × Nat := if t.width = 4 then (base + j / 2, j % 2) else (base + j * t.bytes, 0)

/-- The Mill at work on a chain. -/
structure MillRun where
  s : State
  /-- Results of the entry that is being filled, and whether each is poisoned. -/
  out : List (Nat × Bool)
  wrote : List Nat
  links : List (Nat × Nat)
  fault : Nat

/-- Reads one element of n bytes. -/
def State.millRead (s : State) (c : Nat) (user : Bool) (a n : Nat) : State × Except Nat (List Byte × Bool) :=
  let ctx := (s.team c).ctx
  match s.enginePlace (some c) ctx user .rawRead a n with
  | (s, .error k) => (s, .error k)
  | (s, .ok (x, leaf)) => let (bs, bad, s) := s.engineRead ctx x leaf n; (s, .ok (bs, bad))

/-- One element of a stream: unpack, operations, conversion (R352). -/
def MillDesc.elem (d : MillDesc) (c : Nat) (user : Bool) (r : MillRun) (j : Nat) : MillRun :=
  if r.fault ≠ 0 then r else
  let (a, h) := elemPlace d.src d.sty j
  let halt := fun (s : State) (k : Nat) => { r with s := s, fault := if k = 0x0B then 5 else 6 }
  match r.s.millRead c user a (max 1 d.sty.bytes) with
  | (s, .error k) => halt s k
  | (s, .ok (bs, bad)) =>
    let (s, scl) : State × Except Nat (List Byte × Bool) := if d.scl = 0 then (s, .ok ([0], false)) else s.millRead c user (d.scl + j / 64) 1
    match scl with
    | .error k => halt s k
    | .ok (sb, sbad) =>
      let t := s.team c
      let code := if d.sty.width = 4 then elemAt 4 bs h else leNat bs
      let (x, s) := if d.sty = .dw then
          let y := s.ctxOf c
          let w : Word := BitVec.ofNat 64 code
          let g := y.stepAt (0x200 + c)
          (y.dval w g, s.stale t.ctx w g)
        else (cvt (tyNum d.sty d.un d.inf) (.flt f32) .rne false 0 code, s)
      let gen := if d.rm = .sr then srStep t.millGen else t.millGen
      let y := cvt (.flt f32) (tyNum d.dty d.un d.inf) d.rm d.sat (if d.rm = .sr then srDraw gen else 0) (d.value (leNat sb) x)
      let s := if d.rm = .sr then s.modTeam c fun t => { t with millGen := gen } else s
      let bad := bad || sbad
      if d.qd then { r with s := s, out := r.out ++ [(y, bad)] }
      else
        let (b, h) := elemPlace d.dst d.dty j
        let n := max 1 d.dty.bytes
        match s.enginePlace (some c) t.ctx user .rawWrite b n with
        | (s, .error k) => halt s k
        | (s, .ok (p, leaf)) =>
          let (old, _, s) := if d.dty.width = 4 then s.engineRead t.ctx p leaf 1 else ([], false, s)
          let data := if d.dty.width = 4 then [BitVec.ofNat 8 (leNat old - elemAt 4 old h * 16 ^ h + y * 16 ^ h)] else leBytes n y
          let (s, q) := s.engineWrite ⟨c, 47, 32⟩ t.key t.ctx p leaf .no data bad t.cls
          { r with s := s, wrote := if q.isSome || r.wrote.contains (s.place p).agent then r.wrote else r.wrote ++ [(s.place p).agent], links := r.links ++ q.toList }

/-- 256 bytes of results as an entry of a queue, padded with zeros (R352). -/
def packEntry (w : Nat) (out : List (Nat × Bool)) : List Word × List Bool :=
  let n := 64 / w
  ((List.range 32).map fun l => (List.range n).foldl (fun x e => setE x w e (out.getD (n * l + e) (0, false)).1) 0,
   (List.range 32).map fun l => (List.range n).any fun e => (out.getD (n * l + e) (0, false)).2)

/-- Runs a chain whose results go to a queue, entry by entry while the queue has room: the elements done, and the halt. -/
def State.millQueue (s : State) (c : Nat) (d : MillDesc) (user : Bool) : Nat → Nat → State × Nat × Nat
  | 0, pos => (s, pos, 0)
  | k + 1, pos =>
    let n := min (2048 / d.dty.width) (d.count - pos)
    if n = 0 ∨ 16 ≤ (s.aqueue c d.dst).ents.length then (s, pos, 0)
    else
      let r := (List.range n).foldl (fun r j => d.elem c user r (pos + j)) { s := s, out := [], wrote := [], links := [], fault := 0 }
      if r.fault ≠ 0 then (r.s, pos, r.fault)
      else
        let s := r.s.setAqueue c d.dst ((r.s.aqueue c d.dst).push (packEntry d.dty.width r.out))
        State.millQueue (s.aqServe c d.dst 64) c d user k (pos + n)

/-- A chain is complete or halted: it leaves the queue, and its handle is ready (R352, R356). -/
def State.millEnd (s : State) (c : Nat) (j : MillJob) (wit : Word) (fault aux halt : Nat) : State :=
  let s := s.modTeam c fun t =>
    { t with
      mill := s.millRest c wit
      millDone := if halt = 0 then t.millDone + 1 else t.millDone, millHalt := halt }
  (s.futDone j.fut wit fault aux).wake

/-- The Mill starts its oldest chain, or goes on with it once its queue has room; a chain whose results are written ends once they have
closed (R348, R352). -/
def State.millStart (s : State) (c : Nat) : State :=
  let t := s.team c
  match t.mill with
  | [] => s
  | j :: _ =>
    if t.millHalt ≠ 0 then s else
    match j.fence with
    | some _ =>
      -- a fence of the Mill alone; one that other queues share is theirs (R354)
      if j.fut.isNone then s
      else
        let wit := (s.widen (j.desc.headD 0).toNat j.wit).getD j.wit
        ((s.setTeam c { t with mill := s.millRest c wit }).futDone j.fut wit).wake
    | none =>
      match millDesc j.desc, j.shut with
      | none, _ => s
      | some _, some o =>
        match s.shut o with
        | .ok => s.millEnd c j (s.shutWit c 3 o) 0 0 0
        | .wait => s
        | .fault k aux => s.millEnd c j 0 k aux 0
      | some d, none =>
          let s := if j.begun then s else s.modTeam c fun t => { t with millGen := t.millSeed.getD t.millGen, millSeed := none }
          let s := s.futStart j.fut
          if d.qd then
            let (s, pos, fault) := s.millQueue c d j.user (d.count + 1) j.pos
            if fault ≠ 0 then s.millEnd c j 0 0x15 0 fault
            else if pos = d.count then s.millEnd c j 0 0 0 0
            else s.modTeam c fun t => { t with mill := { j with pos := pos, begun := true } :: t.mill.drop 1 }
          else
            let r := (List.range d.count).foldl (d.elem c j.user) { s := s, out := [], wrote := [], links := [], fault := 0 }
            if r.fault ≠ 0 then r.s.millEnd c j 0 0x15 0 r.fault
            else r.s.modTeam c fun t => { t with mill := { j with shut := some (r.s.opens r.wrote r.links), begun := true } :: t.mill.drop 1 }

def execMillChainStart (core : Nat) (s : State) : Out := .next (s.millStart core)

/-- `mill.rd` (R356). -/
def execMillRd (f : Eng) (s : State) : Out :=
  s.perWarp (.millRd f) (fun _ _ _ _ => []) fun _ c w ms s =>
    let t := s.team c
    let v := t.mill.countP (·.fence.isNone) % 2 ^ 16 * 2 ^ 32 + t.millDone % 2 ^ 16 * 2 ^ 16 + t.millHalt * 256 + (if t.millHalt = 0 then 0 else 1)
    (.done, s.putAllWit c w ms f.d (BitVec.ofNat 64 v))

/-- `mill.clr` (R356): a halted chain has left the queue already, and its handle is resolved. -/
def execMillClr (f : Eng) (s : State) : Out :=
  s.perWarp (.millClr f) (fun _ _ _ _ => []) fun _ c _ _ s => (.done, (s.modTeam c fun t => { t with millHalt := 0 }).wake)

end Sys2Proof.Machine
end

