-- ==== Sys2Proof/Machine/Futures.lean ====
section
/-! DEFINITION. Group 11 on handles and TAIL: `fwait`, `ftst`, `fcan`, `fmov`, `fst`, `fld`, `qtail` (R353, R357-R360), and
FUTURE_RESOLVE (R345). -/

namespace Sys2Proof.Machine

/-- The register that A names holds a pending handle. -/
def State.pendingOn (s : State) (c w l : Nat) (a : BitVec 8) : Option FutRef :=
  match dstReg a with
  | some r => (s.mark c w l r).fut
  | none => none

/-- `fwait` (R357): a pending A has blocked the lane until its witness came; a foreign handle waits here. -/
def execFwait (f : Eng) (s : State) : Out :=
  s.perLane (.fwait f) fun s0 c w l first s =>
    let x := s0.opnd c w l .wt f.a
    if !s.witOk (s.team c).ctx x then (.fault 0x10 0 x.toNat, s)
    else match s.asWitness x with
      | some y => (.done, s.put c w l first f.d y)
      | none => (.park .retry, s)

/-- `ftst` (R358). -/
def execFtst (f : Eng) (s : State) : Out :=
  s.perLane (.ftst f) fun s0 c w l _ s =>
    let x := s0.opnd c w l .wt f.a
    let ready := (s0.pendingOn c w l f.a).isNone && (Word.field x 63 60 != 0xE || s.handleDone x)
    (.done, s.putPred c w l 0 f.d.toNat ready)

/-- Takes the lane of a handle out of a `vxm` that waits in the engine's queue: its registers wait no longer (R359). -/
def State.vxmDrop (s : State) (c : Nat) (x : FutRef) (o : MxOp) : State × Option MxOp :=
  match o.k with
  | .vxm d p ao z ls =>
    match List.find? (fun (v : VxmLane) => v.fut == x) ls with
    | none => (s, some o)
    | some v =>
      let l := v.lane
      let s := (List.range 16).foldl (fun (s : State) j => if (s.mark c o.slot l (d + 1 + j)).pend = o.id + 1 then s.setMark c o.slot l (d + 1 + j) {} else s) s
      let s := s.modLane c o.slot l fun y => { y with ppend := if y.ppend.find? (p % 8) = some o.id then y.ppend.erase (p % 8) else y.ppend }
      let ls := ls.filter fun (v : VxmLane) => v.lane != l
      (s, if ls.isEmpty then none else some { o with lanes := o.lanes &&& ~~~(Mask.one l), k := .vxm d p ao z ls })
  | _ => (s, some o)

/-- Takes work that has not started out of the queue where it waits (R359). -/
def State.unqueue (s : State) (x : FutRef) : State :=
  let c := x.core
  let copies : Tab (List CopyJob) := s.cq.map fun (k, js) => (k, js.filter fun (j : CopyJob) => j.fut != some x)
  let iu : Tab (List IuJob) := s.iu.map fun (k, js) => (k, js.filterMap fun (j : IuJob) =>
    let ls := j.lanes.filter fun (y : IuLane) => y.fut != x
    if ls.isEmpty then none else some { j with lanes := ls })
  let s := { s with cq := copies, iu := iu }
  -- a fence leaves the Mill's queue with its other places
  let fences := (List.range 4).flatMap fun q => (s.copyQueue c q).filterMap (·.fence)
  let s := s.modTeam c fun t => { t with
    mill := t.mill.filter fun j => j.fut != some x && (match j.fence with | some id => j.fut.isSome || fences.any (fun y => y.2 == id) | none => true) }
  let (s, os) := (s.mx.get [] c).foldl (fun (acc : State × List MxOp) o => let (s, o) := acc.1.vxmDrop c x o; (s, acc.2 ++ o.toList)) (s, [])
  { s with mx := s.mx.set c os }

/-- `fcan` (R359). -/
def execFcan (f : Eng) (s : State) : Out :=
  s.perLane (.fcan f) fun _ c w l _ s =>
    match s.pendingOn c w l f.a with
    | none => (.done, s.putPred c w l 0 f.d.toNat false)
    | some x =>
      match s.futFind x with
      | some e =>
        if e.started ∨ e.result.isSome then (.done, s.putPred c w l 0 f.d.toNat false)
        else (.done, (((s.unqueue x).resolve x 0 0 0).wake).putPred c w l 0 f.d.toNat true)
      | none => (.done, s.putPred c w l 0 f.d.toNat false)

/-- `fmov` (R360). -/
def execFmov (f : Eng) (s : State) : Out :=
  s.perLane (.fmov f) fun s0 c w l first s =>
    (.done, s.put c w l first f.d (s0.opnd c w l .wt f.a) { fut := s0.pendingOn c w l f.a })

/-- `fst` (R360). -/
def execFst (f : Eng) (s : State) : Out :=
  s.perLane (.fst f) fun s0 c w l first s =>
    let a := (s0.op64 c w l f.a).toNat
    let data := s0.storeData c w l .wt f.b
    s.at_ c w l .g .st a 8 fun x leaf s => s.sendStore c w l first x leaf (.store data f.sc) data f.d f.sc a

/-- `fld` (R360). -/
def execFld (f : Eng) (s : State) : Out :=
  s.perLane (.fld f) fun s0 c w l first s =>
    let a := (s0.op64 c w l f.a).toNat
    s.at_ c w l .g (.ld 8) a 8 fun x leaf s => s.sendLoad c w l first x leaf .fld f.d .wt a

/-- `qtail` (R353). -/
def execQtail (f : Eng) (s : State) : Out :=
  s.perWarp (.qtail f) (fun s c w l => [s.op64 c w l f.a, s.op64 c w l f.b]) fun s0 c w ms s =>
    let l := ms.headD 0
    let (k, b) := ((s0.op64 c w l f.a).toNat, (s0.op64 c w l f.b).toNat)
    let x := s.chains.get {} k
    if 256 ≤ k ∨ Word.field x.ctl 11 0 ≠ (s.team c).ctx then (.fault 0x0C fun _ => 0, s)
    else if !s.stamped c w l then (.park .retry, s)
    else match s.fenceWit c w l f.sc.code.toNat with
      | none => match s.fabFailed c w l f.sc.code.toNat with
        | some n => (.fault 0x14 (fun _ => 0) n, s)
        | none => (.park .retry, s)
      | some wit =>
        if b < x.tail ∨ x.tail + 2 ^ 20 < b then (.fault 0x05 fun _ => 0, s)
        else (.done, (s.writeTail k b wit c).putAllWit c w ms f.d (frontier 7 s.now))

/-- Complete work resolves its handle (R345). -/
def execFutureResolve (core ent : Nat) (s : State) : Out :=
  let e := s.futEnt core ent
  match e.busy, e.result with
  | true, some (w, fault, aux) => .next (s.resolve { core := core, ent := ent, gen := e.gen } w fault aux).wake
  | _, _ =>
    -- the work of a saved team, by its entry (R337)
    match s.saved.findSome? fun x => if x.core = core then
        (x.img.fut.find? (futKey core ent)).bind fun y => if y.busy then y.result.map fun r => (y.gen, r) else none else none with
    | some (gen, w, fault, aux) => .next (s.resolve { core := core, ent := ent, gen := gen } w fault aux).wake
    | none => .next s

end Sys2Proof.Machine
end

