-- ==== Sys2Proof/Machine/Palette.lean ====
section
/-! DEFINITION. Palette: slots, the receive reserve and stage queues (R378-R381, R401), with `psget`, `psput`, `psq`, `psdq`. -/

namespace Sys2Proof.Machine

def State.palette (s : State) (ctx : Nat) : PalCtx := s.pal.get {} ctx
def State.modPal (s : State) (ctx : Nat) (f : PalCtx → PalCtx) : State := { s with pal := s.pal.set ctx (f (s.palette ctx)) }

/-- Free slots outside the reserve (R379). -/
def PalCtx.freeSlots (p : PalCtx) : List Nat := (List.range p.count).filter fun i => !p.used.contains i && !p.reserve.contains i

/-- Some free slot; which one is not repeatable (R379, log entry 10). -/
def State.palPick (s : State) (ctx : Nat) : Option (Nat × State) :=
  match (s.palette ctx).freeSlots with
  | [] => none
  | x :: t => some ((x :: t).getD (Config.palettePick s.free % (t.length + 1)) x, { s with free := s.free + 1 })

/-- Allocates a free slot. -/
def State.palTake (s : State) (ctx : Nat) : Option (Nat × State) :=
  (s.palPick ctx).map fun (x, s) => (x, s.modPal ctx fun p => { p with used := x :: p.used })

/-- Tells a sender that units of its allowance are free again (R288, R401). -/
def State.unitBack (s : State) (x : Nat × Nat) : State := { s with outbox := s.outbox ++ [[4, x.1, x.2]] }

/-- Withheld units go back, oldest first, until as many are left as the reserve is short of slots (R289, R401). -/
def State.palSettle (s : State) (ctx : Nat) : State :=
  let p := s.palette ctx
  let n := p.held.length - (p.resv - p.reserve.length)
  (p.held.take n).foldl State.unitBack (s.modPal ctx fun p => { p with held := p.held.drop n })

/-- Refills the reserve from free slots (R289). -/
def State.palRefill (s : State) (ctx : Nat) : Nat → State
  | 0 => s
  | k + 1 =>
    if (s.palette ctx).resv ≤ (s.palette ctx).reserve.length then s else
    match s.palPick ctx with
    | none => s
    | some (x, s) => State.palRefill (s.modPal ctx fun p => { p with reserve := p.reserve ++ [x] }) ctx k

/-- A waiting lane receives its index and goes on, or waits on for a witness (R379, R380). -/
def State.palServed (s : State) (x : PalWait) (v wit : Word) : State :=
  let (c, w, l) := (x.who.core, x.who.slot, x.who.lane)
  (s.requeueTeam c x.team).forTeam c x.team fun s =>
    if (s.lane c w l).park = .queue then (s.modLane c w l fun y => { y with park := .slotGot wit x.dst v }).semFinish c w l else s

/-- Gives free slots to waiting lanes, in the order in which they came. -/
def State.palServe (s : State) (ctx : Nat) : Nat → State
  | 0 => s
  | k + 1 =>
    match (s.palette ctx).getWait with
    | [] => s
    | x :: rest =>
      match s.palTake ctx with
      | none => s
      | some (i, s) => State.palServe ((s.modPal ctx fun p => { p with getWait := rest }).palServed x (BitVec.ofNat 64 i) 0) ctx k

/-- Frees a slot: the reserve first, then the free list (R379). -/
def State.palFree (s : State) (ctx i : Nat) : State :=
  let p := s.palette ctx
  let p := { p with used := p.used.erase i }
  if p.reserve.length < p.resv then (s.modPal ctx fun _ => { p with reserve := p.reserve ++ [i] }).palSettle ctx
  else (s.modPal ctx fun _ => p).palServe ctx (p.getWait.length + 1)

/-- The index that an entry yields: any one below PCOUNT once the storage has been written over (R378, log entry 12). -/
def State.queueIndex (s : State) (ctx i : Nat) : Nat × State :=
  let p := s.palette ctx
  if p.broken then (Config.queuePick s.free % max 1 p.count, { s with free := s.free + 1 }) else (i, s)

/-- Gives a stage queue's entries to waiting lanes (R380). -/
def State.stageServe (s : State) (ctx q : Nat) : Nat → State
  | 0 => s
  | k + 1 =>
    let p := s.palette ctx
    match p.takeWait.get [] q, p.queues.get [] q with
    | x :: xs, (i, wit) :: es =>
      let s := s.modPal ctx fun p => { p with takeWait := p.takeWait.set q xs, queues := p.queues.set q es }
      let (i, s) := s.queueIndex ctx i
      State.stageServe (s.palServed x (BitVec.ofNat 64 i) wit) ctx q k
    | _, _ => s

/-- Appends a slot to a stage queue (R380). -/
def State.stagePush (s : State) (ctx q i : Nat) (wit : Word) : State :=
  (s.modPal ctx fun p => { p with queues := p.queues.set q (p.queues.get [] q ++ [(i, wit)]) }).stageServe ctx q 2

/-- A lane parks at Palette. -/
def State.palWait (s : State) (c w l : Nat) (first : Bool) (d : BitVec 8) : PalWait × State :=
  ({ who := ⟨c, w, l⟩, team := s.ownKey c, dst := dstOf d first, since := s.now }, s.modLane c w l fun x => { x with since := s.now })

/-- `psget` (R379, R381). -/
def psgetBody (f : Eng) (_ : State) (c w l : Nat) (first : Bool) (s : State) : LaneOut × State :=
  let ctx := (s.team c).ctx
  if (s.palette ctx).count = 0 then (.fault 0x16 0 0, s) else
  match s.palTake ctx with
  | some (i, s) => (.done, s.put c w l first f.d (BitVec.ofNat 64 i))
  | none =>
    if f.mod.getLsbD 0 then (.done, s.put c w l first f.d 0xFFFFFFFFFFFFFFFF)
    else
      let (x, s) := s.palWait c w l first f.d
      (.park .queue, s.modPal ctx fun p => { p with getWait := p.getWait ++ [x] })

def execPsget (f : Eng) (s : State) : Out := s.perLane (.psget f) (psgetBody f)

/-- An index operand names an allocated slot (R381). -/
def PalCtx.slot (p : PalCtx) (x : Word) : Option Nat := if x.toNat < p.count ∧ p.used.contains x.toNat then some x.toNat else none

/-- `psput` (R379, R381). -/
def execPsput (f : Eng) (s : State) : Out :=
  s.perLane (.psput f) fun s0 c w l _ s =>
    let ctx := (s.team c).ctx
    match (s.palette ctx).slot (s0.op64 c w l f.a) with
    | none => (.fault 0x16 0 0, s)
    | some i => (.done, (s.palFree ctx i).wake)

/-- A stage-queue operand above 15 is an illegal operand (R381). -/
def stagePre (f : Eng) : PreCheck := fun s ms =>
  if ms.any fun l => decide (15 < (s.op64 s.cur.core s.cur.slot l f.b).toNat) then some (0x05, fun _ => 0) else none

/-- `psq` (R380, R381). -/
def execPsq (f : Eng) (s : State) : Out :=
  s.perLane (.psq f) (fun s0 c w l _ s =>
    let ctx := (s.team c).ctx
    let p := s.palette ctx
    let q := (s0.op64 c w l f.b).toNat
    match p.slot (s0.op64 c w l f.a) with
    | none => (.fault 0x16 0 0, s)
    | some i =>
      if p.count ≤ (p.queues.get [] q).length then (.fault 0x16 0 0, s)
      else s.onFence c w l 7 fun wit s => (.done, (s.stagePush ctx q i wit).wake)) (pre := stagePre f)

/-- `psdq` (R380, R381). -/
def psdqBody (f : Eng) (s0 : State) (c w l : Nat) (first : Bool) (s : State) : LaneOut × State :=
  let ctx := (s.team c).ctx
  let p := s.palette ctx
  let q := (s0.op64 c w l f.b).toNat
  if p.count = 0 then (.fault 0x16 0 0, s) else
  match p.takeWait.get [] q, p.queues.get [] q with
  | [], (i, wit) :: es =>
    let s := s.modPal ctx fun p => { p with queues := p.queues.set q es }
    let (i, s) := s.queueIndex ctx i
    if s.satisfied wit c then (.done, (s.put c w l first f.d (BitVec.ofNat 64 i)).countExpiry wit)
    else (.park (.slotGot wit (dstOf f.d first) (BitVec.ofNat 64 i)), s)
  | _, _ =>
    if f.mod.getLsbD 0 then (.done, s.put c w l first f.d 0xFFFFFFFFFFFFFFFF)
    else
      let (x, s) := s.palWait c w l first f.d
      (.park .queue, s.modPal ctx fun p => { p with takeWait := p.takeWait.set q (p.takeWait.get [] q ++ [x]) })

def execPsdq (f : Eng) (s : State) : Out := s.perLane (.psdq f) (psdqBody f) (pre := stagePre f)

end Sys2Proof.Machine
end

