-- ==== Sys2Proof/Machine/Intersect.lean ====
section
/-! DEFINITION. The intersection unit: ray traversal, primary visibility and occlusion queries (R362-R377). -/

namespace Sys2Proof.Machine

-- Arithmetic in f32 and f64

/-- RND in f32 of an exact value. -/
def rnd32 (rm : Rm) (x : XV) : FV := f32.val (f32.round rm false 0 x)
def rnd64 (x : XV) : FV := f64.val (f64.round .rne false 0 x)
def code32 (x : XV) : Nat := f32.round .rne false 0 x

/-- The exact difference of two values. -/
def FV.sub (rm : Rm) (a b : FV) : XV := (sumFV rm [a, b.neg]).x

def maxFV (a b : FV) : FV := if a.lt false b then b else a
def minFV (a b : FV) : FV := if b.lt false a then b else a
def FV.le (a b : FV) : Bool := !a.isNan && !b.isNan && !(b.lt false a)

-- Ray traversal (R367-R371)

/-- A ray: origin, direction, their limits, as f32 codes. -/
structure Ray where
  o : List Nat
  d : List Nat
  tmin : Nat
  tmax : Nat
  deriving DecidableEq, Repr

/-- The ray in A to A+3 (R367). -/
def rayOf (ws : List Word) : Ray :=
  let c := fun (k : Nat) => getE (ws.getD (k / 2) 0) 32 (k % 2)
  { o := [c 0, c 1, c 2], tmin := c 3, d := [c 4, c 5, c 6], tmax := c 7 }

/-- A ray that misses with no access (R367). -/
def Ray.void (r : Ray) : Bool :=
  let fin := fun (c : Nat) => match f32.val c with | .fin .. => true | _ => false
  !((r.o ++ r.d ++ [r.tmin, r.tmax]).all fin) || (f32.val r.tmax).lt false (f32.val r.tmin) || r.d.all fun c => c % 2 ^ 31 == 0

/-- BOX (R369): the entry distance of a box that the ray hits. -/
def Ray.box (r : Ray) (b : List Nat) : Option FV :=
  let axis := fun (i : Nat) =>
    let o := f32.val (r.o.getD i 0)
    let q := rnd32 .rne (f32.val (r.d.getD i 0)).rcp
    let side := fun (rm : Rm) (k : Nat) => rnd32 rm ((rnd32 rm (FV.sub rm (f32.val (b.getD k 0)) o)).mul q).x
    let (lo, hi) := (side .rdn i, side .rup (i + 3))
    if lo.isNan || hi.isNan then (FV.inf true, FV.inf false) else (minFV lo hi, maxFV lo hi)
  let xs := (List.range 3).map axis
  let near := xs.foldl (fun m x => maxFV m x.1) (.inf true)
  let far := xs.foldl (fun m x => minFV m x.2) (.inf false)
  if near.le far && (f32.val r.tmin).le far && near.le (f32.val r.tmax) then some near else none

/-- The axis with the largest |d|, the lowest winning ties (R370). -/
def Ray.kz (r : Ray) : Nat :=
  let m := fun (i : Nat) => r.d.getD i 0 % 2 ^ 31
  if m 1 ≤ m 0 ∧ m 2 ≤ m 0 then 0 else if m 2 ≤ m 1 then 1 else 2

/-- TRI (R370): t, u and v of a hit, from the nine coordinates of a triangle. -/
def Ray.tri (r : Ray) (p : List Nat) : Option (Nat × Nat × Nat) :=
  let kz := r.kz
  let d := fun (i : Nat) => f32.val (r.d.getD i 0)
  let neg := decide (r.d.getD kz 0 / 2 ^ 31 = 1)
  let (kx, ky) := if neg then ((kz + 2) % 3, (kz + 1) % 3) else ((kz + 1) % 3, (kz + 2) % 3)
  let sx := rnd32 .rne (FV.div (d kx) (d kz))
  let sy := rnd32 .rne (FV.div (d ky) (d kz))
  let sz := rnd32 .rne (d kz).rcp
  let vert := fun (v : Nat) =>
    let c := fun (i : Nat) => rnd32 .rne (FV.sub .rne (f32.val (p.getD (3 * v + i) 0)) (f32.val (r.o.getD i 0)))
    let z := c kz
    (rnd32 .rne (FV.sub .rne (c kx) (sx.mul z)), rnd32 .rne (FV.sub .rne (c ky) (sy.mul z)), rnd32 .rne (sz.mul z).x)
  let (ax, ay, az) := vert 0
  let (bx, by_, bz) := vert 1
  let (cx, cy, cz) := vert 2
  let edge := fun (a b c e : FV) => rnd64 (FV.sub .rne (a.mul b) (c.mul e))
  let u := edge cx by_ cy bx
  let v := edge ax cy ay cx
  let w := edge bx ay by_ ax
  let zero : FV := .fin false 0 0
  let ok := ([u, v, w].all fun x => zero.le x) || ([u, v, w].all fun x => x.le zero)
  let nonzero := [u, v, w].any fun x => x.lt false zero || zero.lt false x
  if !(ok && nonzero) then none else
  let add := fun (x y : FV) => rnd64 (sumFV .rne [x, y]).x
  let det := add (add u v) w
  let fma := fun (x a b : FV) => rnd64 (sumFV .rne [x, a.mul b]).x
  let t := fma (fma (rnd64 (u.mul az).x) v bz) w cz
  some (code32 (t.div det), code32 (v.div det), code32 (w.div det))

/-- A child reference is well formed (R363). -/
def refOk (x : Word) : Bool :=
  let k := Word.field x 63 62
  Word.field x 55 52 == 0 &&
  (if k = 0 then Word.field x 61 56 == 0 && Word.field x 51 0 == 0
   else if k = 1 then Word.field x 61 56 == 0 && Word.field x 51 0 % 64 == 0
   else if k = 2 then Word.field x 51 0 % 16 == 0 else false)

/-- The references of a node, with its pair rule (R364). -/
def nodeOk (a b : Word) : Bool :=
  refOk a && refOk b &&
  (!(Word.field a 63 62 == 1 && Word.field b 63 62 == 1) || (Word.field a 51 0 % 128 == 0 && Word.field b 51 0 == Word.field a 51 0 + 64))

/-- How a read of the unit ends. -/
inductive IuRead
  | ok (bytes : List Byte) (bad : List Bool)
  | stop
  | wait
  deriving DecidableEq, Repr

/-- Reads aligned 16 bytes of the hierarchy (R371): local memory, or a peer's by the RRC. -/
def State.iuRead (s : State) (c : Nat) (j : IuJob) (a : Nat) : State × IuRead :=
  match s.xlate (some c) j.ctx j.user (.ld 16) a 16 with
  | (s, .ok (.hbm pa, _)) =>
    let x := Loc.hbm pa
    let (bs, _) := s.valueAt j.ctx x 16
    (s, .ok bs [(s.valueAt j.ctx x 8).2, (s.valueAt j.ctx (x.add 8) 8).2])
  | (s, .ok (.peer pkg va, leaf)) =>
    let key := pkg * 2 ^ 52 + va
    match j.got.find? key with
    | some (bs, bad, fault) => (s, if fault = 0 then .ok bs bad else .stop)
    | none =>
      match if Word.bit leaf 2 then none else s.rrcTouch j.ctx pkg va with
      | some (line, s) => (s, .ok ((line.bytes.drop (va % 1024)).take 16) ((line.bad.drop (va % 1024 / 8)).take 2))
      | none =>
        match s.route j.ctx pkg with
        | none => (s, .stop)
        | some n =>
          if (s.conn n).failed then (s, .stop) else if !(s.conn n).up then (s, .wait) else
          if s.rrcFetch.any fun (_, f) => f.id == j.id && f.who == ⟨c, j.slot, 32 + key⟩ then (s, .wait) else
          let f : RrcFetch := { conn := n, ctx := j.ctx, pkg := pkg, rva := va, page := va / 65536, size := 16, who := ⟨c, j.slot, 32 + key⟩, team := j.team, dst := none, ty := .n8, id := j.id, fill := !Word.bit leaf 2 }
          ({ s with rrcFetch := s.rrcFetch.set s.seq f, seq := s.seq + 1 }, .wait)
  | (s, _) => (s, .stop)

/-- Reads n aligned pieces of 16 bytes, as far as they can be read. -/
def State.iuReads (s : State) (c : Nat) (j : IuJob) (a : Nat) : Nat → State × IuRead
  | 0 => (s, .ok [] [])
  | n + 1 =>
    match s.iuRead c j a with
    | (s, .ok bs bad) =>
      match s.iuReads c j (a + 16) n with
      | (s, .ok cs bad') => (s, .ok (bs ++ cs) (bad ++ bad'))
      | r => r
    | r => r

/-- A traversal on its way, and the state (R368). -/
structure Trav extends Walk where
  s : State

inductive TravEnd
  | done
  | stop
  | wait
  deriving DecidableEq, Repr

/-- The triangle records of a leaf, from record k on (R365, R368): the new state, how the read ended, and whether `.any` is met. -/
def Ray.leaf (r : Ray) (c : Nat) (j : IuJob) (a : Nat) : Nat → Trav → Trav × TravEnd × Bool
  | 0, t => (t, .done, false)
  | n + 1, t =>
    match t.s.iuReads c j a 3 with
    | (s, .stop) => ({ t with s := s }, .stop, false)
    | (s, .wait) => ({ t with s := s }, .wait, false)
    | (s, .ok bs bad) =>
      let t := { t with s := s, bad := t.bad || bad.contains true }
      let p := fun (k : Nat) => elemAt 32 bs k
      if p 10 ≠ 0 ∨ p 11 ≠ 0 then (t, .stop, false)
      else
        let best := f32.val t.best
        match r.tri ((List.range 9).map p) with
        | some (x, u, v) =>
          if (f32.val r.tmin).le (f32.val x) && (if t.hit.isNone then (f32.val x).le best else (f32.val x).lt false best) then
            let t := { t with best := x, hit := some (a, x, u, v, p 9) }
            if j.flag then (t, .done, true) else Ray.leaf r c j (a + 48) n t
          else Ray.leaf r c j (a + 48) n t
        | none => Ray.leaf r c j (a + 48) n t

/-- TRAV's loop (R368), as far as memory is here and `fuel` allows: it goes on from there at the unit's next step. -/
def Ray.walk (r : Ray) (c : Nat) (j : IuJob) : Nat → Trav → Trav × TravEnd
  | 0, t => (t, .wait)
  | fuel + 1, t =>
    match t.stack with
    | [] => (t, .done)
    | (x, near) :: rest =>
      let all := t.stack
      let t := { t with stack := rest }
      if (f32.val t.best).lt false (f32.val near) then Ray.walk r c j fuel t
      else if !refOk x then (t, .stop)
      else if Word.field x 63 62 = 2 then
        match r.leaf c j (Word.field x 51 0) (Word.field x 61 56 + 1) t with
        | (t, .done, true) => (t, .done)
        | (t, .done, false) => Ray.walk r c j fuel t
        | (t, e, _) => ({ t with stack := all }, e)
      else if Word.field x 63 62 = 1 then
        match t.s.iuReads c j (Word.field x 51 0) 4 with
        | (s, .stop) => ({ t with s := s }, .stop)
        | (s, .wait) => ({ t with s := s, stack := all }, .wait)
        | (s, .ok bs bad) =>
          let ref := fun (k : Nat) => (BitVec.ofNat 64 (elemAt 64 bs (6 + k)) : Word)
          let full := fun (k : Nat) => Word.field (ref k) 63 62 != 0
          let poison := (List.range 8).any fun g => bad.getD g false && (decide (6 ≤ g) || full (g / 3))
          let t := { t with s := s, bad := t.bad || poison }
          if !nodeOk (ref 0) (ref 1) then (t, .stop)
          else
            let near := fun (k : Nat) => if full k then r.box ((List.range 6).map fun i => elemAt 32 bs (6 * k + i)) else none
            let at_ := fun (k : Nat) (d : FV) => (ref k, code32 d.x)
            let push := match near 0, near 1 with
              | some a, some b => if a.le b then [at_ 0 a, at_ 1 b] else [at_ 1 b, at_ 0 a]
              | some a, none => [at_ 0 a]
              | none, some b => [at_ 1 b]
              | none, none => []
            if 64 < (push ++ t.stack).length then (t, .stop)
            else Ray.walk r c j fuel { t with stack := push ++ t.stack }
      else Ray.walk r c j fuel t

/-- A lane's traversal: its hit record, or the way it stopped. -/
def State.traverse (s : State) (c : Nat) (j : IuJob) (x : IuLane) : Trav × TravEnd :=
  let r := rayOf x.words
  let root := x.desc.getD 0 0
  let start : Walk := { best := r.tmax, stack := if r.void || (Word.field root 63 62 == 0 && refOk root) then [] else [(root, 0xFF800000)] }
  let t : Trav := { x.walk.getD start with s := s }
  if t.stopped then (t, .stop) else r.walk c j (2 ^ 20) t

/-- The hit record in D+1 to D+3 (R367). -/
def Trav.record (t : Trav) (tmax : Nat) : List Word :=
  match t.hit with
  | some (a, x, u, v, tid) => [BitVec.ofNat 64 (u * 2 ^ 32 + x), BitVec.ofNat 64 (tid * 2 ^ 32 + v), BitVec.ofNat 64 a]
  | none => [BitVec.ofNat 64 tmax, BitVec.ofNat 64 (0xFFFFFFFF * 2 ^ 32), 0]

/-- A fault found for work of a lane counts as dropped where the lane has ended (R165, R324). -/
def State.lateFault (s : State) (who : LaneId) (team : Nat) : State :=
  if s.ownKey who.core = team ∧ !(s.lane who.core who.slot who.lane).live then s.dropFault who.core else s

/-- Results of a lane's traversal: a stopped one leaves free values beside its handle's fault (log entry 22). -/
def State.travGive (s : State) (c : Nat) (j : IuJob) (x : IuLane) (t : Trav) (e : TravEnd) : State :=
  let who : LaneId := ⟨c, j.slot, x.lane⟩
  let regs := fun (ws : List Word) (bad : Bool) => (List.range 3).map fun k => (x.dst + 1 + k, ws.getD k 0, ({ bad := bad } : Mark))
  if e = .stop then
    let (bs, s) := s.outside 24
    ((s.lateFault who j.team).answer who j.team j.id (regs ((List.range 3).map fun k => BitVec.ofNat 64 (elemAt 64 bs k)) false)).futDone (some x.fut) 0 0x15
  else (s.answer who j.team j.id (regs (t.record (rayOf x.words).tmax) t.bad)).futDone (some x.fut) 0

/-- `trav` in the unit: nothing is given before every lane's traversal has ended; until then the unit keeps how far each has come. -/
def State.travStart (s : State) (c : Nat) (j : IuJob) : State × Bool :=
  let go := fun (acc : State × List (IuLane × Trav × TravEnd)) (x : IuLane) =>
    let (t, e) := acc.1.traverse c j x
    (t.s, acc.2 ++ [(x, t, e)])
  let (s, rs) := j.lanes.foldl go (s, [])
  if rs.any fun r => r.2.2 == .wait then
    let lanes := rs.map fun (x, t, e) => { x with walk := some { t.toWalk with stack := if e = .done then [] else t.stack, stopped := e == .stop } }
    ({ s with iu := s.iu.set c ((s.iu.get [] c).map fun y => if y.id = j.id then { y with lanes := lanes } else y) }, false)
  else (rs.foldl (fun s r => s.travGive c j r.1 r.2.1 r.2.2) s, true)

-- Primary visibility (R372-R375)

/-- A target descriptor (R372): base, width and height in tiles. -/
def targetDesc (ws : List Word) : Option (Nat × Nat × Nat) :=
  let d := fun (k : Nat) => ws.getD k 0
  let (tw, th) := (Word.field (d 1) 15 0, Word.field (d 1) 31 16)
  if Word.field (d 0) 63 52 = 0 ∧ Word.field (d 0) 15 0 = 0 ∧ Word.field (d 1) 63 32 = 0 ∧ d 2 = 0 ∧ d 3 = 0 ∧ 1 ≤ tw ∧ tw ≤ 1024 ∧ 1 ≤ th ∧ th ≤ 1024 then
    some ((d 0).toNat, tw, th)
  else none

/-- Address of a sample (R372). -/
def sampleVa (base tw px py : Nat) : Nat := base + (py / 64 * tw + px / 64) * 65536 + (py % 64 * 64 + px % 64) * 16

/-- E(p, q, s) (R374). -/
def edgeFn (p q s : Int × Int) : Int := (q.1 - p.1) * (s.2 - p.2) - (q.2 - p.2) * (s.1 - p.1)

/-- A screen-space triangle, wound the positive way: vertices, depths and twice its area. -/
structure Tri2 where
  v : List (Int × Int)
  z : List Nat
  a : Int
  deriving DecidableEq, Repr

def Tri2.vert (t : Tri2) (k : Nat) : Int × Int := t.v.getD (k % 3) (0, 0)

/-- The triangle of a lane, or none where it covers nothing (R374). -/
def setupTri (cull : Bool) (v : List (Int × Int)) (z : List Nat) : Option Tri2 :=
  let p := fun (k : Nat) => v.getD k (0, 0)
  let a := edgeFn (p 0) (p 1) (p 2)
  if a = 0 ∨ (a < 0 ∧ cull) then none
  else if a < 0 then some { v := [p 0, p 2, p 1], z := [z.getD 0 0, z.getD 2 0, z.getD 1 0], a := -a }
  else some { v := v, z := z, a := a }

/-- The depth of a sample, or none where it is not covered or its depth is NaN (R374, R375). -/
def Tri2.depth (t : Tri2) (px py : Nat) : Option Nat :=
  let s : Int × Int := (256 * px + 128, 256 * py + 128)
  let e := fun (k : Nat) => edgeFn (t.vert (k + 1)) (t.vert (k + 2)) s
  let topLeft := fun (k : Nat) =>
    let (p, q) := (t.vert (k + 1), t.vert (k + 2))
    decide (q.2 - p.2 < 0) || (decide (q.2 = p.2) && decide (0 < q.1 - p.1))
  if (List.range 3).all fun k => decide (0 < e k) || (decide (e k = 0) && topLeft k) then
    let b := fun (k : Nat) => rnd32 .rne (.num false (e k).toNat t.a.toNat 0)
    let z := fun (k : Nat) => f32.val (t.z.getD k 0)
    let dz := fun (k : Nat) => rnd32 .rne (FV.sub .rne (z k) (z 0))
    let x := rnd32 .rne (sumFV .rne [(b 1).mul (dz 1), z 0]).x
    let y := code32 (sumFV .rne [(b 2).mul (dz 2), x]).x
    if (f32.val y).isNan then none else some y
  else none

/-- Pixels that a span of 24.8 coordinates can cover, within n. -/
def pixelsOf (lo hi : Int) (n : Nat) : List Nat :=
  let a := ((lo - 128 + 255) / 256).toNat
  let b := (hi - 128) / 256 + 1
  (List.range (min b n - a).toNat).map (a + ·)

/-- The samples that a triangle covers in a target, with their depths (R374). -/
def Tri2.samples (t : Tri2) (tw th : Nat) : List (Nat × Nat × Nat) :=
  let xs := t.v.map (·.1)
  let ys := t.v.map (·.2)
  let lo := fun (l : List Int) => l.foldl min (l.headD 0)
  let hi := fun (l : List Int) => l.foldl max (l.headD 0)
  (pixelsOf (lo ys) (hi ys) (64 * th)).flatMap fun py => (pixelsOf (lo xs) (hi xs) (64 * tw)).filterMap fun px =>
    (t.depth px py).map fun z => (px, py, z)

/-- The vertices and depths of a `tvis` lane (R373). -/
def triWords (ws : List Word) : List (Int × Int) × List Nat :=
  let c := fun (k : Nat) => getE (ws.getD (k / 2) 0) 32 (k % 2)
  let i := fun (k : Nat) => intVal true 32 (c k)
  ([(i 0, i 1), (i 2, i 3), (i 4, i 5)], [c 6, c 7, c 8])

/-- Sends a request of an instance's lane to an HA, by the core's drain path (R249). -/
def State.iuRequest (s : State) (c : Nat) (j : IuJob) (l : Nat) (x : Loc) (leaf : Word) (op : ReqOp) (join : Nat) : State :=
  let r : Req := { who := ⟨c, j.slot, l⟩, lanes := Mask.one l, team := j.team, own := false, ord := s.seq, inst := 0, ctx := j.ctx, cls := j.cls, loc := x, op := op, dst := none, path := some c, leaf := leaf, join := some join, since := s.now }
  { s with reqs := s.reqs.set s.seq r, seq := s.seq + 1 }

/-- A join of n requests that ends in a handle, under `closes` once their writes have closed. -/
def State.iuJoin (s : State) (c : Nat) (j : IuJob) (x : IuLane) (n : Nat) (closes : Bool) : State × Nat :=
  ({ s with
     joins := s.joins.set s.seq { who := ⟨c, j.slot, x.lane⟩, lanes := Mask.one x.lane, team := j.team, id := s.seq, dst := none, left := n, wits := [], fut := some x.fut, shut := if closes then some {} else none }
     seq := s.seq + 1 }, s.seq)

/-- A lane of `tvis` in the unit (R375): a request for each covered sample. -/
def State.tvisLane (s : State) (c : Nat) (j : IuJob) (x : IuLane) : State :=
  match targetDesc x.desc with
  | none => s.futDone (some x.fut) 0
  | some (base, tw, th) =>
    let (v, z) := triWords x.words
    let tri := getE (x.words.getD 4 0) 32 1
    let inst := getE (x.words.getD 5 0) 32 0
    let all := match setupTri j.flag v z with | some t => t.samples tw th | none => []
    let places := fun (acc : State × List (Loc × Word × Nat)) (p : Nat × Nat × Nat) =>
      match acc.1.xlate (some c) j.ctx j.user .atomic (sampleVa base tw p.1 p.2.1) 16 with
      | (s, .ok (y, leaf)) => (s, acc.2 ++ [(y, leaf, p.2.2)])
      | (s, .error _) => (s, acc.2)
    let (s, ps) := all.foldl places (s, [])
    if ps.isEmpty then s.futDone (some x.fut) 0
    else
      let (s, id) := s.iuJoin c j x ps.length true
      ps.foldl (fun s (y, leaf, z) => s.iuRequest c j x.lane y leaf (.unit 0 [z, inst, tri]) id) s

/-- A lane of `occq` in the unit (R376). -/
def State.occqLane (s : State) (c : Nat) (j : IuJob) (x : IuLane) : State :=
  match targetDesc x.desc, x.place with
  | some (base, tw, th), some (p, leaf) =>
    let h := fun (k : Nat) => getE (x.words.getD 0 0) 16 k
    let zmin := f32.val (getE (x.words.getD 1 0) 32 0)
    let span := fun (a b n : Nat) => (List.range (min (b + 1) n - a)).map (a + ·)
    let seen := fun (acc : State × Bool) (px py : Nat) =>
      match acc.1.xlate (some c) j.ctx j.user (.ld 16) (sampleVa base tw px py) 16 with
      | (s, .ok (y, _)) =>
        let z := f32.val (leNat (s.valueAt j.ctx y 4).1)
        (s, acc.2 || zmin.isNan || zmin.le z)
      | (_, .error _) => acc
    let (s, vis) := (span (h 1) (h 3) (64 * th)).foldl (fun acc py => (span (h 0) (h 2) (64 * tw)).foldl (fun acc px => seen acc px py) acc) (s, false)
    if !vis then s.futDone (some x.fut) 0
    else
      let (s, id) := s.iuJoin c j x 1 false
      s.iuRequest c j x.lane p leaf (.atomic 5 .n64 1 0 .pk false) id
  | _, _ => s.futDone (some x.fut) 0

/-- The unit starts its oldest instance (R362). -/
def execIuInstanceStart (core : Nat) (s : State) : Out :=
  match s.iu.get [] core with
  | [] => .next s
  | j :: rest =>
    let s := j.lanes.foldl (fun s x => s.futStart (some x.fut)) s
    let go := fun (f : State → IuLane → State) => (j.lanes.foldl f s, true)
    let (t, ended) : State × Bool := if j.kind = 0 then s.travStart core j
      else if j.kind = 1 then go (fun s x => s.tvisLane core j x) else go (fun s x => s.occqLane core j x)
    .next (if ended then { t with iu := t.iu.set core rest }.wake else t)

-- Issue

/-- Issues an instance of the unit: its lanes that pass form one entry of the queue; a full queue or future table stalls it. -/
def State.iuIssue (s : State) (i : Instr) (kind : Nat) (flag : Bool)
    (body : State → Nat → Nat → Nat → State → Except LaneOut (IuLane × Bool) × State) (d : BitVec 8) (pre : PreCheck) : Out :=
  let (c, w) := (s.cur.core, s.cur.slot)
  let ms := s.lanesOfM i
  if (s.check i (s.issuing i)).isNone ∧ !ms.isEmpty ∧ (64 ≤ (s.iu.get [] c).length ∨ !s.futRoom c ms.length false) then
    .next (s.forLanes (s.issuing i) fun l s => s.modLane c w l fun x => { x with park := .retry })
  else
    let id := s.seq
    let job : IuJob := { kind := kind, slot := w, team := s.ownKey c, ctx := (s.team c).ctx, cls := s.laneClass c w (ms.headD 0), user := s.isUser c w (ms.headD 0), flag := flag, id := id, lanes := [] }
    let open_ := fun (t : State) => { t with iu := t.iu.set c (t.iu.get [] c ++ [job]), seq := t.seq + 1 }
    let lane := fun (s0 : State) (c w l : Nat) (first : Bool) (t : State) =>
      match body s0 c w l t with
      | (.error o, t) => (o, t)
      | (.ok (x, record), t) =>
        let t := if (t.iu.get [] c).any fun (y : IuJob) => y.id == id then t else open_ t
        let (fut, t) := t.takeFut c false
        let t := t.putHandle c w l first d fut ⟨c, w, l⟩
        let t := if record then t.expect c w l first (some (d.toNat + 1)) 3 id else t
        (LaneOut.done, { t with iu := t.iu.set c ((t.iu.get [] c).map fun (y : IuJob) => if y.id = id then { y with lanes := y.lanes ++ [{ x with fut := fut }] } else y) })
    s.perLane i lane (pre := pre)

/-- A lane's part of an instance, before it has its handle. -/
def iuPart (l : Nat) (words desc : List Word) (dst : BitVec 8) (place : Option (Loc × Word) := none) : IuLane :=
  { lane := l, words := words, desc := desc, place := place, dst := dst.toNat, fut := { core := 0, ent := 0, gen := 0 } }

/-- `trav` (R367). -/
def execTrav (f : Eng) (s : State) : Out :=
  s.iuIssue (.trav f) 0 (f.mod.getLsbD 0) (fun s0 c w l s =>
    (.ok (iuPart l ((List.range 4).map fun k => s0.opndAt c w l f.a k) [s0.op64 c w l f.b] f.d, true), s)) f.d fun _ _ => none

/-- Pages of a visibility buffer have R and W, local memory, and neither DEC nor TOL (R372): none, or a fault and its address. -/
def State.targetPages (s : State) (c : Nat) (user : Bool) (base n : Nat) : State × Option (Nat × Nat) :=
  (List.range n).foldl (fun (acc : State × Option (Nat × Nat)) k =>
    if acc.2.isSome then acc else
    let va := base + 65536 * k
    match acc.1.xlate (some c) (acc.1.team c).ctx user .target va 16 with
    | (s, .error f) => (s, some (f, va))
    | (s, .ok (.hbm _, _)) => (s, none)
    | (s, .ok _) => (s, some (0x0C, va))) (s, none)

/-- A malformed target descriptor stops the whole instance (R372). -/
def targetPre (b : BitVec 8) : PreCheck := fun s ms =>
  let (c, w) := (s.cur.core, s.cur.slot)
  if ms.any fun l => match (s.descAt c w l (s.op64 c w l b).toNat 32).2 with
    | .ok (some ws) => (targetDesc ws).isNone
    | _ => false
  then some (0x05, fun _ => 0) else none

/-- A lane's target: its descriptor, with its pages checked. -/
def State.onTarget (s : State) (c w l : Nat) (a : Word) (k : List Word → State → Except LaneOut (IuLane × Bool) × State) :
    Except LaneOut (IuLane × Bool) × State :=
  match s.descAt c w l a.toNat 32 with
  | (s, .error (f, va)) => (.error (.fault f va 0), s)
  | (s, .ok none) => (.error (.park .retry), s)
  | (s, .ok (some ws)) =>
    match targetDesc ws with
    | none => (.error (.fault 0x05 0 0), s)
    | some (base, tw, th) =>
      match s.targetPages c (s.isUser c w l) base (tw * th) with
      | (s, some (f, va)) => (.error (.fault f va 0), s)
      | (s, none) => k ws s

/-- `tvis` (R373). -/
def execTvis (f : Eng) (s : State) : Out :=
  s.iuIssue (.tvis f) 1 (f.mod.getLsbD 0) (fun s0 c w l s =>
    let ws := (List.range 6).map fun k => s0.opndAt c w l f.a k
    if (triWords ws).1.any fun p => decide (p.1 < -2 ^ 23) || decide (2 ^ 23 ≤ p.1) || decide (p.2 < -2 ^ 23) || decide (2 ^ 23 ≤ p.2) then
      (.error (.fault 0x05 0 0), s)
    else s.onTarget c w l (s0.op64 c w l f.b) fun desc s => (.ok (iuPart l ws desc f.d, false), s)) f.d (targetPre f.b)

/-- `occq` (R376): its predicate word follows the checks of an atomic. -/
def execOccq (f : Eng) (s : State) : Out :=
  s.iuIssue (.occq f) 2 false (fun s0 c w l s =>
    let a := (s0.op64 c w l f.a).toNat
    match s.locate c (s.isUser c w l) .g .atomic a 8 with
    | (s, .error k) => (.error (.fault k a 0), s)
    | (s, .ok (x, leaf)) =>
      match x with
      | .host _ | .peer .. => (.error (.fault 0x0C a 0), s)
      | x => s.onTarget c w l (s0.op64 c w l f.c) fun desc s =>
        (.ok (iuPart l [s0.op64 c w l f.b, s0.opndAt c w l f.b 1] desc f.d (some (x, leaf)), false), s)) f.d (targetPre f.c)

end Sys2Proof.Machine
end

