-- ==== Sys2Proof/Machine/Sampler.lean ====
section
/-! DEFINITION. Amplification (R382, R383) and the texture sampler (R384, R385). -/

namespace Sys2Proof.Machine

/-- `amp`'s descriptor (R382): its dwords obey the layout. -/
def ampDesc (ws : List Word) : Bool :=
  let d := fun (k : Nat) => ws.getD k 0
  (d 0).toNat % 16 == 0 && (d 2).toNat % 16 == 0 && Word.field (d 0) 63 52 == 0 && Word.field (d 2) 63 52 == 0 && d 5 == 0 && d 6 == 0 && d 7 == 0

/-- A malformed descriptor stops the whole instance (R383). -/
def ampPre (f : Eng) : PreCheck := fun s ms =>
  let (c, w) := (s.cur.core, s.cur.slot)
  if ms.any fun l => match (s.descAt c w l (s.op64 c w l f.b).toNat 64).2 with
    | .ok (some ws) => !ampDesc ws
    | _ => false
  then some (0x05, fun _ => 0) else none

/-- One lane of `amp` at issue: it stays at its word until the reply of its instance (R383). -/
def ampBody (f : Eng) (s0 : State) (c w l : Nat) (_ : Bool) (s : State) : LaneOut × State :=
  let a := (s0.op64 c w l f.b).toNat
  if a % 64 ≠ 0 then (.fault 0x0A a 0, s)
  else match s.xlate (some c) (s.team c).ctx (s.isUser c w l) .atomic a 64 with
    | (s, .error k) => (.fault k a 0, s)
    | (s, .ok (.hbm _, _)) =>
      let s := if s.seq = s0.seq then { s with seq := s0.seq + 2 } else s
      (.park (.replies s0.seq), s.expect c w l true (dstReg f.d) 2 (s0.seq + 1))
    | (s, .ok _) => (.fault 0x0C a 0, s)

/-- The request of an `amp` instance: each lane's number and record. -/
def State.ampSend (t s : State) (f : Eng) : State :=
  let (c, w) := (s.cur.core, s.cur.slot)
  let ls := s.cur.lanes.lanes.filter fun l => (t.lane c w l).park == .replies s.seq
  match ls with
  | [] => t
  | l :: _ =>
    match t.xlate (some c) (t.team c).ctx (t.isUser c w l) .atomic (s.op64 c w l f.b).toNat 64 with
    | (t, .ok (x, leaf)) =>
      let args := ls.flatMap fun l => [l, (s.opndAt c w l f.a 0).toNat, (s.opndAt c w l f.a 1).toNat]
      let t := t.holdLanes c w s.seq ls.length ls s.cur.word s.cur.lbp
      let r : Req := { who := ⟨c, w, l⟩, lanes := Mask.ofLanes ls, team := t.ownKey c, own := false, ord := s.seq + 1, inst := s.seq + 1, ctx := (t.team c).ctx, cls := t.laneClass c w l, loc := x, op := .unit 1 args, dst := dstReg f.d, path := some c, leaf := leaf, join := some s.seq, since := s.now }
      { t with reqs := t.reqs.set (s.seq + 1) r }
    | (t, .error _) => t

def execAmp (f : Eng) (s : State) : Out :=
  s.drainGate (.amp f) fun _ =>
    Out.andThen (s.perLane (.amp f) (ampBody f) (pre := ampPre f)) fun t => t.ampSend s f

-- The sampler

/-- A texture (R384): base, width and height exponents, levels less one, format, and whether it clamps. -/
structure Texture where
  base : Nat
  lw : Nat
  lh : Nat
  lv : Nat
  fmt : Nat
  clamp : Bool
  deriving DecidableEq, Repr

/-- The four dwords of a texture descriptor, or none where they are malformed (R384). -/
def texDesc (ws : List Word) : Option Texture :=
  let d := fun (k : Nat) => ws.getD k 0
  let x : Texture := { base := (d 0).toNat, lw := Word.field (d 1) 3 0, lh := Word.field (d 1) 7 4, lv := Word.field (d 1) 11 8, fmt := Word.field (d 1) 13 12, clamp := Word.bit (d 1) 14 }
  if Word.field (d 0) 63 52 = 0 ∧ Word.field (d 1) 63 16 = 0 ∧ d 2 = 0 ∧ d 3 = 0 ∧ x.fmt < 3 ∧ !Word.bit (d 1) 15 ∧ x.lv ≤ max x.lw x.lh then some x else none

def Texture.w (x : Texture) (k : Nat) : Nat := max 1 (2 ^ x.lw / 2 ^ k)
def Texture.h (x : Texture) (k : Nat) : Nat := max 1 (2 ^ x.lh / 2 ^ k)

/-- Bytes of a texel. -/
def Texture.size (x : Texture) : Nat := if x.fmt = 1 then 8 else 4

/-- Address of a level (R384). -/
def Texture.level (x : Texture) (k : Nat) : Nat := x.base + ((List.range k).map fun j => x.w j * x.h j).sum * x.size

/-- The integer nearest 2^8 × n × v for a finite v, ties to even. -/
def near256 (n : Nat) : FV → Int
  | .fin s m e => roundInt .rne 0 s (m * 256 * n) 1 e
  | _ => 0

/-- WEIGHTS (R385): both indices of an axis of n texels, and the second one's weight of 256. -/
def weights (clamp : Bool) (u : FV) (n : Nat) : Nat × Nat × Nat :=
  let a := near256 n u - 128
  let i := a / 256
  let wrap := fun (i : Int) => if clamp then (min (max i 0) (n - 1)).toNat else (i % n).toNat
  (wrap i, wrap (i + 1), (a % 256).toNat)

/-- The texels of one level that have a weight, with their weights of 2^16 (R385). -/
def Texture.texels (x : Texture) (u v : FV) (k : Nat) : List (Nat × Nat) :=
  let (i0, i1, wx) := weights x.clamp u (x.w k)
  let (j0, j1, wy) := weights x.clamp v (x.h k)
  let at_ := fun (i j : Nat) => x.level k + (j * x.w k + i) * x.size
  [(at_ i0 j0, (256 - wx) * (256 - wy)), (at_ i1 j0, wx * (256 - wy)), (at_ i0 j1, (256 - wx) * wy), (at_ i1 j1, wx * wy)]

/-- All texels of a sample, with their weights, and the power of two of the whole weight (R385). -/
def Texture.taps (x : Texture) (tri : Bool) (u v lam : FV) : List (Nat × Nat) × Nat :=
  let (ts, n) :=
    if tri then
      let b := near256 1 lam
      let (l, wl) := if b < 0 then (0, 0) else if (x.lv : Int) ≤ b / 256 then (x.lv, 0) else ((b / 256).toNat, (b % 256).toNat)
      (((x.texels u v l).map fun t => (t.1, t.2 * (256 - wl))) ++ (if wl = 0 then [] else (x.texels u v (l + 1)).map fun t => (t.1, t.2 * wl)), 24)
    else (x.texels u v 0, 16)
  (ts.filter fun t => t.2 != 0, n)

/-- Channel i of a texel's bytes (R385). -/
def Texture.channel (x : Texture) (bs : List Byte) (i : Nat) : FV :=
  match x.fmt with
  | 0 => .fin false (elemAt 8 bs i) 0
  | 1 => f16.val (elemAt 16 bs i)
  | _ => if i = 0 then f32.val (leNat bs) else .fin false (if i = 3 then 1 else 0) 0

/-- A channel of the result: the exact weighted sum, rounded once (R385). -/
def Texture.filter (x : Texture) (ts : List (List Byte × Nat)) (n i : Nat) : Nat :=
  match sumFV .rne (ts.map fun t => (x.channel t.1 i).mul (.fin false t.2 0)) with
  | .fin s m e => f32.round .rne false 0 (.num s m (if x.fmt = 0 then 255 else 1) (e - n))
  | y => f32.round .rne false 0 y.x

/-- Reads texels as ordinary loads of a lane (R384): bytes, weights and poison, a fault, or a wait for the lane's own writes. -/
def State.readTexels (s : State) (c w l n : Nat) : List (Nat × Nat) → State × Except LaneOut (List (List Byte × Nat) × Bool)
  | [] => (s, .ok ([], false))
  | (a, k) :: t =>
    match s.locate c (s.isUser c w l) .g (.ld n) a n with
    | (s, .error f) => (s, .error (.fault f a 0))
    | (s, .ok (x, leaf)) =>
      if s.laneBusy c w l x n then (s, .error (.park .retry)) else
      match s.peerReady (s.team c).ctx x with
      | .wait => (s, .error (.park .retry))
      | .fault f aux => (s, .error (.fault f a aux))
      | .ok =>
        let (bs, bad, s) := s.engineRead (s.team c).ctx x leaf n
        match s.readTexels c w l n t with
        | (s, .ok (xs, b)) => (s, .ok ((bs, k) :: xs, bad || b))
        | r => r

/-- A malformed texture descriptor stops the whole instance (R384). -/
def texPre (f : Eng) : PreCheck := fun s ms =>
  let (c, w) := (s.cur.core, s.cur.slot)
  if ms.any fun l => match (s.descAt c w l (s.op64 c w l f.b).toNat 32).2 with
    | .ok (some ws) => (texDesc ws).isNone
    | _ => false
  then some (0x05, fun _ => 0) else none

/-- One lane of `smp` (R385). -/
def smpBody (f : Eng) (s0 : State) (c w l : Nat) (first : Bool) (s : State) : LaneOut × State :=
  match s.descAt c w l (s0.op64 c w l f.b).toNat 32 with
  | (s, .error (k, a)) => (.fault k a 0, s)
  | (s, .ok none) => (.park .retry, s)
  | (s, .ok (some ws)) =>
    match texDesc ws with
    | none => (.fault 0x05 0 0, s)
    | some x =>
      let tri := f.mod.getLsbD 0
      let uv := s0.opndAt c w l f.a 0
      let (u, v) := (f32.val (getE uv 32 0), f32.val (getE uv 32 1))
      let lam := if tri then f32.val (getE (s0.opndAt c w l f.a 1) 32 0) else .fin false 0 0
      let fin := fun (y : FV) => match y with | .fin .. => true | _ => false
      let give := fun (s : State) (cs : List Nat) (bad : Bool) =>
        let pair := fun (i : Nat) => (BitVec.ofNat 64 (cs.getD (i + 1) 0 * 2 ^ 32 + cs.getD i 0) : Word)
        (LaneOut.done, s.soon c w l first [(f.d.toNat, pair 0, { bad := bad }), (f.d.toNat + 1, pair 2, { bad := bad })] true)
      if !(fin u && fin v && fin lam) then give s (List.replicate 4 f32.nanCode) false
      else
        let (ts, n) := x.taps tri u v lam
        match s.readTexels c w l x.size ts with
        | (s, .error o) => (o, s)
        | (s, .ok (xs, bad)) => give s ((List.range 4).map fun i => x.filter xs n i) bad

def execSmp (f : Eng) (s : State) : Out := s.perLane (.smp f) (smpBody f) (pre := texPre f)

end Sys2Proof.Machine
end

