-- ==== Sys2Proof/Machine/Send.lean ====
section
/-! DEFINITION. Group 13's messages: `send`, `rget`, `rput`, `ratom` (R278, R284-R288), and reading a collective's group (R293). -/

namespace Sys2Proof.Machine

/-- Permission bits of a capability, from bit 55 on, and endpoint kinds (R423). -/
def permSend : Nat := 0
def permGet : Nat := 1
def permPut : Nat := 2
def permAtomic : Nat := 3
def permColl : Nat := 4

/-- A fault that a source register keeps for its first reader, other than poison (R283, R282). -/
def State.keptFault (s : State) (c w l : Nat) (rs : List Nat) : Option (Nat × Nat) :=
  rs.findSome? fun r => let m := s.mark c w l r; if !m.bad ∧ m.fault ≠ 0 then some (m.fault, m.aux) else none

/-- A remote range lies in its window (R424). -/
def Cap.covers (x : Cap) (a n : Nat) : Bool := decide (x.base ≤ a) && decide (a + n ≤ x.base + x.size)

/-- Pages of a range, each by an address in the range (R285 step 3). -/
def pagesOf (a n : Nat) : List Nat :=
  (List.range ((a + n - 1) / 65536 - a / 65536 + 1)).map fun j => if j = 0 then a else (a / 65536 + j) * 65536

/-- Translates the pages of a local range of `rget` or `rput`: virtual page and physical address of each, or the first fault
with its address. Only pages of local HBM will do (R285 step 3). -/
def State.localPages (s : State) (core : Option Nat) (ctx : Nat) (user : Bool) (acc : Acc) : List Nat → State × Except (Nat × Nat) (List (Nat × Nat))
  | [] => (s, .ok [])
  | a :: t =>
    match s.xlate core ctx user acc a 8 with
    | (s, .error k) => (s, .error (if k = 0x0B then 0x0B else 0x0C, a))
    | (s, .ok (.hbm pa, _)) =>
      match s.localPages core ctx user acc t with
      | (s, .ok ps) => (s, .ok ((a / 65536, pa - a % 65536) :: ps))
      | r => r
    | (s, .ok _) => (s, .error (0x0C, a))

/-- Physical address of a virtual address by such pages. -/
def pageAt (ps : List (Nat × Nat)) (a : Nat) : Nat := (((ps.find? fun p => p.1 == a / 65536).map (·.2)).getD 0) + a % 65536

/-- The owner tag that a port's write at an address leaves: the context's on a DEC page (R174). -/
def State.portTag (s : State) (ctx a : Nat) : Option Nat :=
  (s.walk ctx a).bind fun (leaf, _, _) => if Word.bit leaf 13 then some ctx else none

/-- Goes on, with the lane's connection, where its checks 1 and 4 pass and the connection takes a message: steps 2 and 3 are `mid`
(R275, R285). -/
def State.fabricLane (s0 s : State) (i : Instr) (c w l cap perm kind : Nat) (mid : Cap → State → Except (Nat × Nat) State)
    (k : Cap → State → LaneOut × State) : LaneOut × State :=
  let rs := s0.needs i c w l
  match s0.keptFault c w l rs with
  | some (f, aux) => (.fault f 0 aux, s)
  | none =>
    match s.capFor c cap perm kind with
    | none => (.fault 0x12 0 0, s)
    | some x =>
      match mid x s with
      | .error (f, a) => (.fault f a 0, s)
      | .ok s =>
        match s0.sourceFault c w l rs with
        | some (f, aux) => (.fault f 0 aux, s)
        | none => if !(s.conn x.conn).failed && !s.canSend x.conn then (.park .retry, s) else k x s

/-- A message of a lane, less what its kind adds. -/
def State.laneMessage (s : State) (c w l kind : Nat) (f : Eng) (x : Cap) (fut : Option FutRef) : Msg :=
  { seq := 0, kind := kind, who := ⟨c, w, l⟩, team := s.ownKey c, ctx := (s.team c).ctx, lva := 0, rva := 0, len := 0, dst := none, id := 0, fut := fut, ty := f.ty
    sc := f.sc, endp := x.endp, words := [], fen := f.mod.getLsbD 1, sent := 0, cls := s.laneClass c w l }

/-- Units of a capability's allowance in use, by connection and endpoint (R288, R425). -/
def allowKey (x : Cap) : Nat := x.conn * 65536 + x.endp

/-- `send` (R288). -/
def sendBody (f : Eng) (s0 : State) (c w l : Nat) (first : Bool) (s : State) : LaneOut × State :=
  s0.fabricLane s (.send f) c w l f.c.toNat permSend 1 (fun _ s => .ok s) fun x s =>
    let nb := f.mod.getLsbD 0
    if x.allow ≤ s.allow.get 0 (allowKey x) then
      if nb then (.done, (s.putPred c w l 0 f.b.toNat false).put c w l first f.d 0)
      else (.park .allowance, s.modLane c w l fun y => { y with since := s.now })
    else if !s.futRoom c 1 false then (.park .retry, s) else
    let (fut, s) := s.takeFut c false
    let s := s.putHandle c w l first f.d fut ⟨c, w, l⟩
    let s := if nb then s.putPred c w l 0 f.b.toNat true else s
    let words := (List.range 8).map fun j => s0.opndAt c w l f.a j
    let (s, q) := s.laneMsg c w l x.conn { s.laneMessage c w l 3 f x (some fut) with len := 64, words := words }
    let k := allowKey x
    let s := { s with allow := s.allow.set k (s.allow.get 0 k + 1) }
    (.done, (s.modConn x.conn fun y => { y with units := y.units ++ [(q, k)] }).futStart (some fut))

def execSend (f : Eng) (s : State) : Out := s.perLane (.send f) (sendBody f) (except := (Instr.send f).reads)

/-- The lane's range of `rget` and `rput`: local address, remote address and length. -/
def State.rangeOf (s : State) (c w l : Nat) (f : Eng) : Nat × Nat × Nat :=
  ((s.op64 c w l f.a).toNat, (s.opndAt c w l f.b 0).toNat, (s.opndAt c w l f.b 1).toNat)

/-- Length and local address of a range (R285 step 2). -/
def rangeFault (a n : Nat) : Option Nat :=
  if n % 8 ≠ 0 ∨ n < 8 ∨ 2 ^ 30 < n then some 0
  else if a % 8 ≠ 0 then some a
  else none

/-- Remote addresses that make `rget` or `rput` an illegal operand, in lanes that come to that check (R285 step 2). -/
def rangePre (i : Instr) (f : Eng) (perm : Nat) : PreCheck := fun s ms =>
  let (c, w) := (s.cur.core, s.cur.slot)
  let bad := ms.any fun l =>
    let (a, r, n) := s.rangeOf c w l f
    (s.keptFault c w l (s.needs i c w l)).isNone && (s.capFor c f.c.toNat perm 0).isSome && (rangeFault a n).isNone &&
      (r % 8 != 0 || decide (2 ^ 52 ≤ r))
  if bad then some (0x05, fun _ => 0) else none

/-- Checks 2 and 3 of a range, with R424: its pages. -/
def State.rangePages (s : State) (c w l : Nat) (acc : Acc) (x : Cap) (a r n : Nat) : State × Except (Nat × Nat) (List (Nat × Nat)) :=
  match rangeFault a n with
  | some b => (s, .error (0x0A, b))
  | none => if !x.covers r n then (s, .error (0x12, 0)) else s.localPages (some c) (s.team c).ctx (s.isUser c w l) acc (pagesOf a n)

/-- The pages of a range in its lane, after its checks; a fault keeps the walks' effects out. -/
def State.rangeMid (c w l : Nat) (acc : Acc) (a r n : Nat) (x : Cap) (s : State) : Except (Nat × Nat) State :=
  match s.rangePages c w l acc x a r n with
  | (_, .error e) => .error e
  | (s, .ok _) => .ok s

/-- `rget` (R286). -/
def rgetBody (f : Eng) (s0 : State) (c w l : Nat) (first : Bool) (s : State) : LaneOut × State :=
  let (a, r, n) := s0.rangeOf c w l f
  s0.fabricLane s (.rget f) c w l f.c.toNat permGet 0 (State.rangeMid c w l .stp a r n) fun x s =>
    match s.rangePages c w l .stp x a r n with
    | (s, .error (k, b)) => (.fault k b 0, s)
    | (s, .ok ps) =>
      if !s.futRoom c 1 false then (.park .retry, s) else
      let (fut, s) := s.takeFut c false
      let s := s.putHandle c w l first f.d fut ⟨c, w, l⟩
      let (s, _) := s.laneMsg c w l x.conn { s.laneMessage c w l 1 f x (some fut) with lva := a, rva := r, len := n, pages := ps }
      (.done, s.futStart (some fut))

def execRget (f : Eng) (s : State) : Out :=
  s.perLane (.rget f) (rgetBody f) (pre := rangePre (.rget f) f permGet) (except := (Instr.rget f).reads)

/-- `rput` (R286): its source is read at issue, after the lane's own earlier writes there. -/
def rputBody (f : Eng) (s0 : State) (c w l : Nat) (first : Bool) (s : State) : LaneOut × State :=
  let (a, r, n) := s0.rangeOf c w l f
  s0.fabricLane s (.rput f) c w l f.c.toNat permPut 0 (State.rangeMid c w l .rawRead a r n) fun x s =>
    match s.rangePages c w l .rawRead x a r n with
    | (s, .error (k, b)) => (.fault k b 0, s)
    | (s, .ok ps) =>
      if ps.any fun p => s.laneBusy c w l (.hbm p.2) 65536 then (.park .retry, s) else
      let parts := (List.range (n / 8)).map fun g => s.valueAt (s.team c).ctx (.hbm (pageAt ps (a + 8 * g))) 8
      let m := { s.laneMessage c w l 0 f x none with lva := a, rva := r, len := n, words := parts.map fun y => BitVec.ofNat 64 (leNat y.1), bad := parts.map (·.2) }
      let (s, q) := s.laneMsg c w l x.conn m
      (.done, s.put c w l first f.d (linkWit f.sc.code.toNat x.conn q))

def execRput (f : Eng) (s : State) : Out :=
  s.perLane (.rput f) (rputBody f) (pre := rangePre (.rput f) f permPut) (except := (Instr.rput f).reads)

/-- `ratom` (R287). -/
def ratomBody (f : Eng) (s0 : State) (c w l : Nat) (first : Bool) (s : State) : LaneOut × State :=
  let a := (s0.op64 c w l f.a).toNat
  s0.fabricLane s (.ratom f) c w l f.c.toNat permAtomic 0
    (fun x s => if x.covers a f.ty.bytes then .ok s else .error (0x12, 0)) fun x s =>
    let id := s.seq
    let r := dstOf f.d first
    let s := { s with seq := s.seq + 1 }.expect c w l first r 2 id
    let (b, y) := (s0.atomOperand c w l f.ty f.b, if f.mod = 8 then (s0.opndAt c w l f.b 1).toNat % 2 ^ f.ty.width else 0)
    let m := { s.laneMessage c w l 2 f x none with rva := a, len := f.mod.toNat, dst := r, id := id, words := [BitVec.ofNat 64 b, BitVec.ofNat 64 y], fen := false }
    (.done, (s.laneMsg c w l x.conn m).1)

def execRatom (f : Eng) (s : State) : Out :=
  s.perLane (.ratom f) (ratomBody f) (except := (Instr.ratom f).reads) (pre := fun s ms =>
    let (c, w) := (s.cur.core, s.cur.slot)
    let bad := ms.any fun l =>
      let a := (s.op64 c w l f.a).toNat
      (s.keptFault c w l (s.needs (.ratom f) c w l)).isNone && (s.capFor c f.c.toNat permAtomic 0).isSome && (a % f.ty.bytes != 0 || decide (2 ^ 52 ≤ a))
    if bad then some (0x05, fun _ => 0) else none)

end Sys2Proof.Machine
end

