-- ==== Sys2Proof/Machine/Ports.lean ====
section
/-! DEFINITION. The Eweca ports: connections, keys and receive endpoints (R273-R277, R427), messages received from peers
(R278-R281, R286-R291), acknowledgements (R280, R283), records in Palette (R289), failure (R282), and remote reads (R291, R292). -/

namespace Sys2Proof.Machine

-- Received packets

/-- A message is complete at the target: the prefix of complete messages moves on (R279). -/
def Conn.advance : Nat → Conn → Conn
  | 0, k => k
  | n + 1, k => if k.got.get false (k.rcvd + 1) then Conn.advance n { k with rcvd := k.rcvd + 1, got := k.got.erase (k.rcvd + 1) } else k

/-- Counts a message as complete at this package; number 0 is a load through a peer aperture, which takes none (R278). -/
def Conn.complete (k : Conn) (seq : Nat) : Conn :=
  let k := { k with parts := k.parts.erase seq, landing := k.landing.erase seq }
  if seq = 0 then k else
  let k := { k with got := k.got.set seq true }
  Conn.advance k.got.length k

/-- The message is complete here already, or all of it is performed (R279). -/
def Conn.received (k : Conn) (seq : Nat) : Bool :=
  decide (0 < seq) && (decide (seq ≤ k.rcvd) || k.got.get false seq || (k.landing.get {} seq).whole)

/-- What a port sends back: 3 a refusal, 6 an acknowledgement, 7 data, 8 an old value. -/
def State.sendBack (s : State) (n seq code : Nat) (ws : List Nat) : State := { s with outbox := s.outbox ++ [[code, n, seq] ++ ws] }

/-- A message is complete at the target, and the port says so. -/
def State.targetDone (s : State) (n seq : Nat) : State := s.modConn n (·.complete seq)

/-- All bytes of a message are performed: it is complete once its writes have closed (R279). A message without a number takes no part in
LINKDONE. -/
def State.targetLands (s : State) (n seq : Nat) (x : Landing) : State :=
  if x.shut.agents.isEmpty then (if x.ack then s.sendBack n seq 6 [] else s).targetDone n seq
  else s.modConn n fun k => { k with landing := k.landing.set seq { x with whole := true } }

/-- A remote access is refused: nothing is written, and the message completes (R283). -/
def State.refusePacket (s : State) (n seq : Nat) : State := (s.sendBack n seq 3 []).targetDone n seq

/-- The context that a connection belongs to (R275). -/
def Conn.ctx (k : Conn) : Nat := Word.field k.cctl 55 44

/-- The capability's peer context is the connection's own (R275). -/
def Conn.ctxOk (k : Conn) (x : Option Nat) : Bool := match x with | some y => y == k.ctx | none => true

/-- Writes granules by pages of local HBM, with the owner tag of DEC pages (R174, R279, R286): the state, and the agents. -/
def State.landBytes (s : State) (ctx : Nat) (ps : List (Nat × Nat)) (va : Nat) (data : List Byte) (bad : List Bool) : State × List Nat :=
  let n := (data.length + 7) / 8
  let at_ := fun (g : Nat) => Loc.hbm (pageAt ps (va + 8 * g))
  let t := s.breakQueues ((List.range n).map at_)
  ((List.range n).foldl (fun (s : State) g =>
    s.agentWrite (s.place (at_ g)) ((data.drop (8 * g)).take 8) (t.portTag ctx (va + 8 * g)) none (bad.getD g false)) t,
   (List.range n).map fun g => (s.place (at_ g)).agent)

/-- A packet of a write: its payload lands, and its message is complete once all of its bytes have come (R279, R286, R291). -/
def State.packetWrite (s : State) (n seq : Nat) (x : Option Nat) (va off total : Nat) (data : List Byte) (bad : List Bool) : State :=
  let k := s.conn n
  let ps := k.parts.get [] seq
  if ps.any fun p => p.1 == off then s else
  let (s, pages) := s.localPages none k.ctx false .rawWrite (pagesOf (va + off) (max 1 data.length))
  let (s, agents) := match pages with
    | .ok gs => if k.ctxOk x then
        (if x.isSome then s.landBytes k.ctx gs (va + off) data bad
          else
            let y := s.place (.hbm (pageAt gs va))
            ((s.breakQueues [.hbm (pageAt gs va)]).agentWrite y data (s.portTag k.ctx va) none (bad.getD 0 false), [y.agent]))
      else (s.sendBack n seq 3 [], [])
    | .error _ => (s.sendBack n seq 3 [], [])
  let ps := ps ++ [(off, data.length)]
  let o := (k.landing.get {} seq).shut
  let y : Landing := { shut := if agents.isEmpty then o else s.opensMore o agents, ack := true }
  let s := s.modConn n fun k => { k with parts := k.parts.set seq ps, landing := k.landing.set seq y }
  if (ps.map (·.2)).sum < total then s else s.targetLands n seq y

/-- A read: the bytes with the poison of their granules (R286, R291, R292). -/
def State.packetRead (s : State) (n seq : Nat) (x : Option Nat) (va len : Nat) : State :=
  let k := s.conn n
  if !k.ctxOk x then s.refusePacket n seq else
  match s.localPages none k.ctx false .rawRead (pagesOf va (max 1 len)) with
  | (s, .error _) => s.refusePacket n seq
  | (s, .ok ps) =>
    let at_ := fun (j : Nat) => Loc.hbm (pageAt ps (va + j))
    let bytes := (List.range len).map fun j => (s.valueAt k.ctx (at_ j) 1).1.headD 0
    let bad := (List.range ((len + 7) / 8)).map fun g => if (s.valueAt k.ctx (at_ (8 * g)) 1).2 then 1 else 0
    let part := fun (j : Nat) => j * packetBytes :: ((bytes.drop (j * packetBytes)).take packetBytes).map BitVec.toNat ++
      (bad.drop (j * (packetBytes / 8))).take (packetBytes / 8)
    ((List.range (max 1 ((len + packetBytes - 1) / packetBytes))).foldl (fun s j => s.sendBack n seq 7 (part j)) s).targetDone n seq

/-- An atomic, performed at the home agent indivisibly (R287). -/
def State.packetAtomic (s : State) (n seq : Nat) (x : Option Nat) (t : Ty) (cas : Bool) (va : Nat) (b y : Word) : State :=
  let k := s.conn n
  if !k.ctxOk x ∨ va % t.bytes ≠ 0 then s.refusePacket n seq else
  match s.xlate none k.ctx false .atomic va t.bytes with
  | (s, .ok (.hbm pa, _)) =>
    let s := s.breakQueues [.hbm pa]
    let at_ := s.place (.hbm pa)
    let old := leNat (s.bytes at_ t.bytes)
    let bad := s.badIn at_ t.bytes
    let s := if bad then s else match atomNew (if cas then 8 else 0) t t.width old (b.toNat % 2 ^ t.width) (y.toNat % 2 ^ t.width) with
      | some v => s.agentWrite at_ (leBytes t.bytes v) none none
      | none => s
    (s.sendBack n seq 8 [old, if bad then 1 else 0]).targetLands n seq { shut := if bad then {} else s.opens [at_.agent] }
  | (s, _) => s.refusePacket n seq

/-- A record takes its sender's receive slot, or is refused (R276, R288, R290). -/
def State.packetRecord (s : State) (n seq e : Nat) (words : List Word) (lane core pkg : Nat) : State :=
  let k := s.conn n
  let (d, _) := s.endps.get (0, 0) e
  if e < 4096 ∧ Word.bit d 63 ∧ Word.field d 55 44 = k.ctx then
    let r : RecordIn := { conn := n, seq := seq, ctx := k.ctx, endp := e, stq := Word.field d 35 32, words := words, lane := lane, core := core, pkg := pkg }
    let s := { s with inbox := s.inbox.set s.seq r, seq := s.seq + 1 }
    (s.sendBack n seq 6 []).targetDone n seq
  else (s.refusePacket n seq).unitBack (n, e)

/-- Performs a packet (R279). -/
def State.performPacket (s : State) (n seq : Nat) : Packet → State
  | .write x va off total data bad _ => s.packetWrite n seq x va off total data bad
  | .read x va len _ => s.packetRead n seq x va len
  | .atomic x t cas va b y _ => s.packetAtomic n seq x t cas va b y
  | .record e ws lane core pkg _ => s.packetRecord n seq e ws lane core pkg
  | .unsupported => s

def packetFenced : Packet → Bool
  | .write _ _ _ _ _ _ f | .read _ _ _ f | .atomic _ _ _ _ _ _ f | .record _ _ _ _ _ f => f
  | .unsupported => false

/-- A packet that a port performs: no more payload than one carries, of a message that a connection can carry (R272, R273). -/
def packetFits (seq : Nat) (p : Packet) : Bool :=
  decide (seq < 2 ^ 40) && match p with
  | .write _ _ _ _ data _ _ => decide (data.length ≤ packetBytes)
  | .unsupported => false
  | _ => true

/-- Epochs that a port accepts (R277, R427). -/
def KeyBlk.accepts (k : KeyBlk) (epoch : Nat) : Bool := (k.curValid && k.cur == epoch) || (k.nextValid && k.next == epoch)

/-- A port receives a packet (R272, R277, R279, R281). -/
def execPacketReceive (conn seq epoch : Nat) (p : Packet) (s : State) : Out :=
  let k := s.conn conn
  if !(s.keys.get {} conn).accepts epoch ∨ !packetFits seq p then .next (s.count 0x0A27 1)
  else if !k.opened ∨ k.failed then .next s
  else if k.received seq ∨ k.held.contains (seq, p) then .next s
  else if (packetFenced p ∨ Word.bit k.cctl 59) ∧ k.rcvd + 1 < seq then .next (s.modConn conn fun k => { k with held := k.held ++ [(seq, p)] })
  else .next (s.performPacket conn seq p).wake

/-- A held message is performed once every earlier one of its connection is complete (R281). -/
def execFencedMessagePerform (conn seq : Nat) (s : State) : Out :=
  let k := s.conn conn
  let ps := (k.held.filter fun x => x.1 == seq).map (·.2)
  if ps.isEmpty ∨ k.rcvd + 1 < seq then .next s
  else
    let s := s.modConn conn fun k => { k with held := k.held.filter fun x => x.1 != seq }
    .next (ps.foldl (fun s p => s.performPacket conn seq p) s).wake

/-- A slot's 256 bytes (R289). -/
def RecordIn.slot (r : RecordIn) : List Byte :=
  (r.words.flatMap fun w => leBytes 8 w.toNat) ++ leBytes 8 (r.lane % 32 * 2 ^ 43 + r.core % 2048 * 2 ^ 32 + r.conn % 65536 * 65536 + r.pkg % 65536) ++
    leBytes 8 (r.seq % 2 ^ 40) ++ List.replicate 176 0

/-- A record whose slot is written goes onto its stage queue once the writes have closed, and its receive slot is free (R289). -/
def State.appendRecord (s : State) (k : Nat) (r : RecordIn) (i : Nat) (o : Opened) : State :=
  match s.shut o with
  | .wait => s
  | _ =>
    let s := ({ s with inbox := s.inbox.erase k }.modPal r.ctx fun p => { p with held := p.held ++ [(r.conn, r.endp)] })
    let s := s.stagePush r.ctx r.stq i (frontier 7 s.now)
    ((s.palRefill r.ctx ((s.palette r.ctx).resv + 1)).palSettle r.ctx).wake

/-- A record goes from its receive slot into a slot of the reserve, and then onto its stage queue (R289, R290). -/
def State.placeRecord (s : State) (k : Nat) (r : RecordIn) : State :=
  match r.placed, (s.palette r.ctx).reserve with
  | some (i, o), _ => s.appendRecord k r i o
  | none, [] => s
  | none, i :: rest =>
    let a := (s.palette r.ctx).base + 256 * i
    match s.placeAll none r.ctx false .st ((List.range 32).map fun j => (a + 8 * j, 8)) with
    | (s, .error _) => (({ s with inbox := s.inbox.erase k }).sendBack r.conn r.seq 3 []).unitBack (r.conn, r.endp)
    | (s, .ok xs) =>
      let (t, links) := (List.range 32).foldl (fun (acc : State × List (Nat × Nat)) j =>
        match xs[j]? with
        | some (x, leaf, _) =>
          let (t, q) := acc.1.engineWrite ⟨0, 0, 32⟩ 0 r.ctx x leaf .no ((r.slot.drop (8 * j)).take 8) false
          (t, acc.2 ++ q.toList)
        | none => acc) (s, [])
      let o := s.opens (s.moveAgents (xs.map fun x => { dst := x.1, leaf := x.2.1, n := 8, src := [] })) links
      { t with inbox := t.inbox.set k { r with placed := some (i, o) } }.modPal r.ctx fun p => { p with reserve := rest, used := i :: p.used }

def execRecordPlace (k : Nat) (s : State) : Out :=
  match s.inbox.find? k with
  | some r => .next (s.placeRecord k r)
  | none => .next s

-- Acknowledgements

/-- A lane that a `send` parked looks again, on its core or saved (R288, R262). -/
def LaneSt.allow (x : LaneSt) : LaneSt := if x.park = .allowance then { x with park := .none, since := 0 } else x

def State.wakeAllowance (s : State) : State :=
  { s with
    lanes := s.lanes.map fun (k, x) => (k, x.allow)
    saved := s.saved.map fun x =>
      if x.img.lanes.any fun (_, y) => y.park == .allowance then
        { x with img := { x.img with lanes := x.img.lanes.map fun (k, y) => (k, y.allow) }, queued := x.queued || x.swapped, at_ := if x.swapped && !x.queued then s.now else x.at_ }
      else x }

/-- A unit of a sender's allowance returns (R288). -/
def State.unitReturn (s : State) (n seq : Nat) : State :=
  match (s.conn n).units.find? fun x => x.1 == seq with
  | some (_, key) =>
    { s.modConn n fun k => { k with units := k.units.filter fun x => x.1 != seq } with allow := s.allow.set key (s.allow.get 0 key - 1) }.wakeAllowance
  | none => s

/-- The error record of a refused message (R283). -/
def State.refusedMsg (s : State) (n : Nat) (m : Msg) : State := s.errorRecord m.ctx [m.kind, n, m.seq, m.rva]

/-- Data of an `rget` land in its local pages (R280, R286). -/
def State.landData (s : State) (n : Nat) (m : Msg) (off : Nat) (bytes : List Byte) (bad : List Bool) : State :=
  if m.len < off + bytes.length ∨ packetBytes < bytes.length ∨ m.parts.any (fun p => p.1 == off) then s else
  let (s, agents) := s.landBytes m.ctx m.pages (m.lva + off) bytes bad
  let ps := m.parts ++ [(off, bytes.length)]
  s.modConn n fun k => { k with out := k.out.map fun x => if x.seq = m.seq then { x with parts := ps, shut := s.opensMore x.shut agents } else x }

/-- All of an `rget`'s data have landed (R280). -/
def Msg.whole (m : Msg) : Bool := m.kind == 1 && m.len ≤ (m.parts.map (·.2)).sum

/-- Messages of a connection whose last writes have closed are complete: received ones are acknowledged, and an `rget`'s handle is ready
(R279, R280). -/
def State.closeConn (s : State) (n : Nat) : State :=
  let closed := fun (s : State) (o : Opened) => match s.shut o with | .ok => true | _ => false
  let k := s.conn n
  let s := k.landing.foldl (fun (s : State) (q, x) =>
    if x.whole && closed s x.shut then (if x.ack then s.sendBack n q 6 [] else s).targetDone n q else s) s
  k.out.foldl (fun (s : State) m =>
    if m.whole && closed s m.shut then (s.endMsg n m.seq).futDone m.fut (linkWit m.sc.code.toNat n m.seq) else s) s

/-- Every connection, as closed ticks are published. -/
def State.closeConns (s : State) : State := s.conns.foldl (fun s (n, _) => s.closeConn n) s

/-- What comes back for a message that is not complete (R280, R283). -/
def State.ackMsg (s : State) (n : Nat) (m : Msg) (r : Sys2Proof.Reply) : State :=
  let wit := linkWit m.sc.code.toNat n m.seq
  match m.kind, r with
  | 0, .done => s.endMsg n m.seq
  | 0, .refused => s.refusedMsg n m
  | 1, .data off bytes bad => s.landData n m off bytes bad
  | 1, .refused => ((s.refusedMsg n m).endMsg n m.seq).futDone m.fut 0 0x13
  | 2, .data _ bytes bad =>
    let s := s.endMsg n m.seq
    match m.dst with
    | some d => s.answer m.who m.team m.id (loadRegs (some d) m.ty bytes (fun _ => bad.getD 0 false) ++ [(d + m.ty.regs, wit, {})]) true
    | none => s
  | 2, .done => if m.dst.isNone then s.endMsg n m.seq else s
  | 2, .refused => ((s.refusedMsg n m).endMsg n m.seq).answerFault m 0x13 0 wit
  | 3, .done => (s.endMsg n m.seq).futDone m.fut wit
  | 3, .refused => (((s.refusedMsg n m).endMsg n m.seq).futDone m.fut wit).unitReturn n m.seq
  | _, _ => s

/-- An acknowledgement, a refusal, data or a unit of allowance comes back (R280, R283, R288). -/
def execAckReceive (conn seq : Nat) (r : Sys2Proof.Reply) (s : State) : Out :=
  let k := s.conn conn
  if !k.opened ∨ k.failed then .next s else
  match k.out.find? fun m => m.seq == seq with
  | some m => .next (((s.modConn conn fun k => { k with progress := s.now }).ackMsg conn m r).recheck).wake
  | none =>
    match r with
    | .unit => .next (s.unitReturn conn seq).wake
    | .refused => match k.units.find? fun x => x.1 == seq with
      -- a record that its slot's writes refused after its acknowledgement (R289)
      | some _ => .next ((s.errorRecord k.ctx [3, conn, seq, 0]).unitReturn conn seq).wake
      | none => .next s
    | _ => .next s

/-- A message that is not complete is sent again (R282). -/
def execPacketRetransmit (conn seq : Nat) (s : State) : Out :=
  match (s.conn conn).out.find? fun m => m.seq == seq with
  | some m => if (s.conn conn).up ∧ !(s.conn conn).failed then .next { s with outbox := s.outbox ++ m.out conn } else .next s
  | none => .next s

-- Remote reads

/-- A remote read is over for one load: its bytes, or the fault of its reader (R283, R291, R292). -/
def State.fetchEnd (s : State) (f : RrcFetch) (bytes : List Byte) (bad : List Bool) (fault aux : Nat) : State :=
  let idx := f.who.lane - 32
  if f.who.lane < 32 then
    let regs := if fault = 0 then loadRegs f.dst f.ty bytes fun j => bad.getD (j / 8) false
      else match f.dst with
        | some d => (List.range f.ty.regs).map fun j => (d + j, 0, ({ fault := fault, aux := aux } : Mark))
        | none => []
    s.answer f.who f.team f.id regs true f.kind
  else
    let got := (bytes, bad, fault)
    { s with
      mx := s.mx.map fun (k, os) => (k, os.map fun o => if o.id = f.id ∧ k = f.who.core then { o with got := o.got.set idx got } else o)
      iu := s.iu.map fun (k, js) => (k, js.map fun j => if j.id = f.id ∧ k = f.who.core then { j with got := j.got.set idx got } else j) }

/-- A remote read is over: its bytes, or a refusal. A line serves every load that waits for it (R292). -/
def State.fetchComplete (s : State) (k : Nat) (f : RrcFetch) (line : Option (List Byte)) (bad : List Bool) : State :=
  let same := fun (x : RrcFetch) => x.fill && x.ctx == f.ctx && x.pkg == f.pkg && x.rva / 1024 == f.rva / 1024
  let all := if f.fill then s.rrcFetch.filter fun (_, x) => same x else [(k, f)]
  let s := { s with rrcFetch := s.rrcFetch.filter fun (j, x) => if f.fill then !same x else j != k }
  match line with
  | none => (all.foldl (fun s (_, x) => s.fetchEnd x [] [] 0x13 0) (s.errorRecord f.ctx [1, f.conn, 0, f.rva])).wake
  | some bytes =>
    if f.fill then
      let s := s.rrcFill { ctx := f.ctx, pkg := f.pkg, rva := f.rva / 1024 * 1024, page := f.page, bytes := bytes, bad := bad }
      (all.foldl (fun s (_, x) => s.fetchEnd x ((bytes.drop (x.rva % 1024)).take x.size) (bad.drop (x.rva % 1024 / 8)) 0 0) s).wake
    else (s.fetchEnd f bytes bad 0 0).wake

def execRrcFetchComplete (k : Nat) (line : Option (List Byte)) (bad : List Bool) (s : State) : Out :=
  match s.rrcFetch.find? k with
  | none => .next s
  | some f =>
    let fits : Bool := match line with | some bs => bs.length == (if f.fill then 1024 else f.size) | none => true
    if fits ∧ (s.conn f.conn).up ∧ !(s.conn f.conn).failed then
      .next ((s.modConn f.conn fun k => { k with progress := s.now }).fetchComplete k f line bad)
    else .next s

-- Connections

/-- A connection whose acknowledgements make no progress for 50 ms fails (R282). -/
def State.failConn (s : State) (n : Nat) : State :=
  let k := s.conn n
  let s := s.modConn n fun k => { k with failed := true, cctl := k.cctl ||| BitVec.ofNat 64 (2 ^ 61), out := [], held := [] }
  let s := k.out.foldl (fun s m => s.lostMsg n m) s
  let lost := s.rrcFetch.filter fun (_, f) => f.conn == n
  let s := { s with rrcFetch := s.rrcFetch.filter fun (_, f) => f.conn != n }
  let s := (lost.foldl (fun s (_, f) => s.fetchEnd f [] [] 0x14 n) s).portReport
  -- the loss is reported to the pod layer (R7)
  { s with outbox := s.outbox ++ [[9, n]] }.wake

/-- When each thing that a connection waits for set out: its messages and remote reads (R282). -/
def State.waitsOn (s : State) (n : Nat) : List Nat :=
  ((s.conn n).out.filter fun m => !m.whole).map (·.sent) ++ (s.rrcFetch.filter fun (_, f) => f.conn == n).map fun (_, f) => f.since

def execConnectionFail (conn : Nat) (s : State) : Out :=
  let k := s.conn conn
  match (s.waitsOn conn).min? with
  | some t => if k.opened ∧ k.up ∧ !k.failed ∧ max k.progress t + 50000000 ≤ s.now then .next (s.failConn conn) else .next s
  | none => .next s

/-- Bits of CCTL and CCFG that must be zero, and CCFG's reserved values (R275). -/
def cctlOk (w : Word) : Bool := Word.field w 58 56 == 0 && Word.field w 31 16 == 0
def ccfgOk (w : Word) : Bool :=
  decide (1 ≤ Word.field w 8 0) && decide (Word.field w 8 0 ≤ 256) && Word.field w 11 9 == 0 && decide (Word.field w 13 12 ≠ 3) && w.toNat / 2 ^ 14 == 0

/-- Bits of CCTL that a write takes while OPEN is clear (R275). -/
def cctlHeld (w : Word) : Word := BitVec.ofNat 64 (w.toNat % 2 ^ 60)

/-- The service OS writes CCTL (R275): with OPEN clear its fields are held; at a write that sets OPEN the port begins the set-up with the peer;
while OPEN is set, a write changes only CLOSE. -/
def execConnectionOpen (conn : Nat) (cctl : Word) (s : State) : Out :=
  let k := s.conn conn
  if 65536 ≤ conn then .next s
  else if k.opened then
    (if Word.bit cctl 60 then .next (s.modConn conn fun k => { k with closing := true, cctl := k.cctl ||| BitVec.ofNat 64 (2 ^ 60) }) else .next s)
  else if !Word.bit cctl 63 then .next (s.modConn conn fun k => { k with cctl := cctlHeld cctl })
  else if !cctlOk cctl ∨ !ccfgOk k.ccfg then .next s
  else
    let w : Word := cctlHeld cctl ||| BitVec.ofNat 64 (2 ^ 63)
    .next { s with conns := s.conns.set conn { cctl := w, paddr := k.paddr, ccfg := k.ccfg, opened := true } }.wake

/-- The peer's matching block is open: UP (R275). -/
def execConnectionUp (conn : Nat) (s : State) : Out :=
  let k := s.conn conn
  if k.opened ∧ !k.up ∧ !k.failed ∧ !k.closing then
    .next (s.modConn conn fun k => { k with up := true, progress := s.now, cctl := k.cctl ||| BitVec.ofNat 64 (2 ^ 62) }).wake
  else .next s

/-- The service OS sets CLOSE: no new message is accepted (R275). -/
def execConnectionClose (conn : Nat) (s : State) : Out :=
  let k := s.conn conn
  if k.opened then .next (s.modConn conn fun k => { k with closing := true, cctl := k.cctl ||| BitVec.ofNat 64 (2 ^ 60) }) else .next s

/-- A closing connection with no message left clears OPEN, UP and CLOSE (R275). -/
def execConnectionClosed (conn : Nat) (s : State) : Out :=
  let k := s.conn conn
  if k.opened ∧ k.closing ∧ (k.out.isEmpty ∨ k.failed) then
    .next (s.modConn conn fun k => { k with
      opened := false, up := false, closing := false, cctl := k.cctl &&& ~~~(BitVec.ofNat 64 (2 ^ 63 + 2 ^ 62 + 2 ^ 60)) }).wake
  else .next s

/-- Allowances of the valid endpoints of a context, less endpoint e (R276). -/
def State.asum (s : State) (ctx e : Nat) : Nat :=
  ((s.endps.filter fun (j, d) => j != e && Word.bit d.1 63 && Word.field d.1 55 44 == ctx).map fun (_, d) => Word.field d.2 31 0).sum

/-- A receive endpoint is written: one that would break the reserve's invariant is not taken, and sets REF (R276, R290). -/
def execReceiveEndpointWrite (e : Nat) (dw0 dw1 : Word) (s : State) : Out :=
  if 4096 ≤ e then .next s else
  let ctx := Word.field dw0 55 44
  let d0 : Word := BitVec.ofNat 64 ((if Word.bit dw0 63 then 2 ^ 63 else 0) + ctx * 2 ^ 44 + Word.field dw0 35 32 * 2 ^ 32)
  let d1 : Word := BitVec.ofNat 64 (Word.field dw1 31 0)
  if Word.bit dw0 63 ∧ (s.palette ctx).resv < s.asum ctx e + Word.field dw1 31 0 then
    let (o0, o1) := s.endps.get (0, 0) e
    .next { s with endps := s.endps.set e (o0 ||| BitVec.ofNat 64 (2 ^ 62), o1) }
  else .next { s with endps := s.endps.set e (d0, d1) }

-- Keys

def State.modKey (s : State) (n : Nat) (f : KeyBlk → KeyBlk) : State := { s with keys := s.keys.set n (f (s.keys.get {} n)) }

/-- The written keys become the incoming epoch (R427). -/
def execKeyEpochInstall (conn : Nat) (kctl : Word) (s : State) : Out :=
  if Word.bit kctl 63 ∧ conn < 65536 then .next (s.modKey conn fun k => { k with next := Word.field kctl 15 0, nextValid := true }) else .next s

/-- The outgoing epoch is retired, where an incoming one stands beside it (R427). -/
def execKeyEpochRetire (conn : Nat) (kctl : Word) (s : State) : Out :=
  if Word.bit kctl 62 ∧ (s.keys.get {} conn).nextValid then
    .next (s.modKey conn fun k => { k with cur := k.next, curValid := true, nextValid := false })
  else .next s

end Sys2Proof.Machine
end

