-- ==== Sys2Proof/Machine/Glaze.lean ====
section
/-! DEFINITION. Glaze: `coll` and `bkt`, the arithmetic of all-reduces and composites, and how collectives run, yield and perform
(R293-R303, R455). -/

namespace Sys2Proof.Machine

-- Descriptors

/-- A collective's descriptor (R293). -/
structure CollDesc where
  pri : Nat
  tag : Nat
  dmask : Nat
  gath : Bool
  ity : Nat
  wire : Nat
  alg : Nat
  kind : Nat
  count : Nat
  src : Nat
  sstr : Nat
  dst : Nat
  semv : Bool
  sem : Nat
  thr : Nat
  orderAt : Nat
  deriving DecidableEq, Repr

/-- The fields of eight dwords. -/
def collFields (ws : List Word) : CollDesc :=
  let d := fun (j : Nat) => ws.getD j 0
  { pri := Word.field (d 0) 55 48, tag := Word.field (d 0) 47 32, dmask := Word.field (d 0) 23 16, gath := Word.bit (d 0) 14, ity := Word.field (d 0) 12 8
    wire := Word.field (d 0) 7 6, alg := Word.field (d 0) 5 4, kind := Word.field (d 0) 3 0, count := Word.field (d 1) 31 0, src := Word.field (d 2) 51 0
    sstr := Word.field (d 3) 39 0, dst := Word.field (d 4) 51 0, semv := Word.bit (d 5) 12, sem := Word.field (d 5) 11 0, thr := (d 6).toNat
    orderAt := Word.field (d 7) 51 0 }

/-- Bytes of one element or pixel (R293, R298). -/
def CollDesc.size (d : CollDesc) : Nat := if d.kind = 0 then (if d.ity = 0x0A then 4 else 2) else if d.kind = 3 then 16 else 8

/-- Elements or pixels of a rank's data. -/
def CollDesc.elems (d : CollDesc) : Nat := if d.kind = 0 then d.count else d.count * 4096

def CollDesc.bytes (d : CollDesc) : Nat := d.elems * d.size

/-- Dies that contribute; a composite reads one image, at SRC. -/
def CollDesc.dies (d : CollDesc) : List Nat := if d.kind = 0 then (List.range 8).filter d.dmask.testBit else [0]

/-- The rules of R294 on the fields, less ORDER's permutation: `p` ranks, chain mode or not. -/
def collOk (ws : List Word) (p : Nat) (chain : Bool) : Bool :=
  let d := collFields ws
  let w := fun (j : Nat) => ws.getD j 0
  Word.field (w 0) 63 56 == 0 && Word.field (w 0) 31 24 == 0 && !Word.bit (w 0) 15 && !Word.bit (w 0) 13 && Word.field (w 1) 63 32 == 0 &&
  Word.field (w 2) 63 52 == 0 && Word.field (w 3) 63 40 == 0 && Word.field (w 4) 63 52 == 0 && Word.field (w 5) 63 13 == 0 && Word.field (w 7) 63 52 == 0 &&
  decide (d.kind ≤ 3) && decide (d.alg ≤ 1) && decide (d.wire ≤ 1) && d.sstr % 64 == 0 && decide (1 ≤ d.count) && decide (d.bytes ≤ 2 ^ 30) &&
  (if d.kind = 0 then (d.ity == 0x0A || d.ity == 0x09) && d.dmask != 0 else d.ity == 0 && d.dmask == 0) &&
  (d.kind == 2 || d.orderAt == 0) && (d.alg == 0 || 2 ^ Nat.log2 p == p) && (!chain || d.semv)

/-- A list names each rank once (R294). -/
def permOf (p : Nat) (xs : List Nat) : Bool := xs.length == p && (List.range p).all xs.contains

/-- Pages of an all-reduce's or image's local ranges, die by die. -/
def State.srcPages (s : State) (core : Option Nat) (ctx : Nat) (user : Bool) (d : CollDesc) : List Nat → State × Except (Nat × Nat) (List (List (Nat × Nat)))
  | [] => (s, .ok [])
  | die :: t =>
    match s.localPages core ctx user .rawRead (pagesOf (d.src + die * d.sstr) d.bytes) with
    | (s, .error e) => (s, .error e)
    | (s, .ok ps) =>
      match s.srcPages core ctx user d t with
      | (s, .ok r) => (s, .ok (ps :: r))
      | r => r

/-- The group endpoint of a capability: rank, ranks, and the connections to the neighbours (R423); every connection it names belongs
to the context and is open (R285). -/
def State.groupFor (s : State) (c m : Nat) : Option (Nat × Nat × Nat × Nat) :=
  match s.capFor c m permColl 2 with
  | none => none
  | some x =>
    let (a, b) := (x.size % 65536, x.size / 65536 % 65536)
    let ctx := (s.team c).ctx
    if s.connOpen a ctx && s.connOpen b ctx then some (x.base % 4096, x.base / 65536 % 4096 + 1, a, b) else none

/-- A connection of a group is open and not up: its commands stall (R275, R285). -/
def State.connStalls (s : State) (n : Nat) : Bool := !(s.conn n).up && !(s.conn n).failed

-- Which collective runs (R301, R303)

/-- Order among collectives that may run: chain mode's by when their waits were met, else by priority, then issue. -/
def CollSt.before (a b : CollSt) : Bool :=
  if a.chain ∧ b.chain then decide (a.metAt.getD 0 < b.metAt.getD 0)
  else if a.chain ∨ b.chain then a.chain
  else decide (a.pri < b.pri) || (a.pri == b.pri && decide (a.issued < b.issued))

/-- Collectives of the package whose waits are met and which have not written their results, less k. -/
def State.collReady (s : State) (k : Nat) : List (Nat × CollSt) := s.colls.filter fun (j, x) => j != k && x.metAt.isSome && x.shut.isNone

/-- The first by that order. -/
def firstColl : List (Nat × CollSt) → Option (Nat × CollSt)
  | [] => none
  | x :: t => match firstColl t with
    | some y => if y.2.before x.2 then some y else some x
    | none => some x

/-- An idle Glaze takes up a collective. -/
def State.collPick (s : State) : State :=
  if s.colls.any fun (_, x) => x.running then s else
  match firstColl (s.collReady (s.colls.length + s.seq + 1)) with
  | some (k, x) => { s with colls := s.colls.set k { x with running := true } }
  | none => s

/-- `coll` (R293, R294, R285). -/
def execColl (f : Eng) (s : State) : Out :=
  s.perWarp (.coll f) (fun s c w l => [s.op64 c w l f.a]) (late := true) fun s0 c w ms s =>
    let l := ms.headD 0
    let (ctx, user) := ((s.team c).ctx, s.isUser c w l)
    match s.groupFor c f.c.toNat with
    | none => (.fault 0x12 fun _ => 0, s)
    | some (rank, p, left, right) =>
      let a := (s0.op64 c w l f.a).toNat
      match s0.sourceFault c w l (Instr.coll f).reads with
      | some (k, aux) => (.fault k (fun _ => 0) aux, s)
      | none =>
      if [left, right].any s.connStalls then (.park .retry, s) else
      match s.descAt c w l a 64 with
      | (s, .error (k, b)) => (.fault k fun _ => b, s)
      | (s, .ok none) => (.park .retry, s)
      | (s, .ok (some ws)) =>
        let d := collFields ws
        let chain := Word.bit (s.ctxOf c).collmode 0
        if !collOk ws p chain then (.fault 0x05 fun _ => 0, s)
        else if d.semv ∧ !s.psemOk ctx d.sem then (.fault 0x0C fun _ => 0, s) else
        let order : State × Except (Nat × Nat) (List (Loc × Word × Nat)) :=
          if d.kind = 2 then s.placeAll (some c) ctx user (.ld 2) ((List.range p).map fun j => (d.orderAt + 2 * j, 2)) else (s, .ok [])
        match order with
        | (s, .error (k, b)) => (.fault k fun _ => b, s)
        | (s, .ok xs) =>
          if xs.any fun x => s.laneBusy c w l x.1 2 then (.park .retry, s) else
          let (bs, _, s) := s.readPieces ctx xs
          let ranks := (List.range xs.length).map fun j => leNat ((bs.drop (2 * j)).take 2)
          if d.kind = 2 ∧ !permOf p ranks then (.fault 0x05 fun _ => 0, s) else
          match s.srcPages (some c) ctx user d d.dies with
          | (s, .error (k, b)) => (.fault k fun _ => b, s)
          | (s, .ok srcs) =>
            match s.localPages (some c) ctx user .stp (pagesOf d.dst d.bytes) with
            | (s, .error (k, b)) => (.fault k fun _ => b, s)
            | (s, .ok dsts) =>
              if !s.futRoom c 1 false then (.park .retry, s) else
              let (fut, s) := s.takeFut c false
              let s := s.putHandleAll c w ms f.d fut
              let k := s.seq
              let x : CollSt := { who := ⟨c, w, l⟩, ctx := ctx, desc := ws, rank := rank, ranks := p, conns := (left, right), order := ranks, chain := chain, pri := d.pri, tag := d.tag, issued := k, fut := some fut, running := false, user := user, srcs := srcs, dsts := dsts, metAt := if d.semv then none else some k }
              let s := { s with colls := s.colls.set k x, seq := s.seq + 1 }.futStart (some fut)
              (.done, if d.semv then s.semJoin (.pkg d.sem) { who := .coll k, thr := d.thr, take := false, since := s.now } else s.collPick)

/-- `bkt` (R302). -/
def execBkt (f : Eng) (s : State) : Out :=
  s.perWarp (.bkt f) (fun s c w l => [s.op64 c w l f.a, s.op64 c w l f.b]) fun s0 c w ms s =>
    let l := ms.headD 0
    let (a, b) := ((s0.op64 c w l f.a).toNat, (s0.op64 c w l f.b).toNat)
    if 255 < b then (.fault 0x05 fun _ => 0, s)
    else (.done, { s with colls := s.colls.map fun (k, x) => (k, if x.ctx = (s.team c).ctx ∧ x.tag = a % 65536 then { x with pri := b } else x) })

-- Arithmetic between ranks

/-- A bf16 gateway and back (R296). -/
def wireBf16 (x : Nat) : Nat := cvt (.flt bf16) (.flt f32) .rne false 0 (cvt (.flt f32) (.flt bf16) .rne false 0 x)

/-- floor(log2) of a finite magnitude, none at zero. -/
def magLog : FV → Option Int
  | .fin _ a e => if a = 0 then none else some (Nat.log2 a + e)
  | _ => none

/-- The x8 scale of a run (R297). -/
def runScale (xs : List Nat) : Nat :=
  if xs.any fun x => match f32.val x with | .fin .. => false | _ => true then 0xFF
  else match (xs.filterMap fun x => magLog (f32.val x)) with
    | [] => 127
    | m :: t => (max 0 (min 254 (t.foldl max m - 6 + 127))).toNat

/-- A run of 64 elements through the wire and back (R297). -/
def wireRun (xs : List Nat) : List Nat :=
  let c := runScale xs
  let g := b8 4 false false
  xs.map fun x =>
    if c = 0xFF then f32.nanCode
    else f32.round .rne false 0 ((g.val (g.round .rne true 0 ((f32.val x).scale (127 - (c : Int))))).scale ((c : Int) - 127))

/-- Runs of 64, from element 0. -/
def wireRuns : Nat → List Nat → List Nat
  | 0, _ => []
  | k + 1, xs => if xs.isEmpty then [] else wireRun (xs.take 64) ++ wireRuns k (xs.drop 64)

/-- Partials through a gateway: each starts at a multiple of 64 where runs count (R296, R297). -/
def gateway (wire : Nat) (xs : List Nat) : List Nat := if wire = 0 then xs.map wireBf16 else wireRuns (xs.length / 64 + 1) xs

/-- Length of a segment (R296). -/
def segLen (count p wire : Nat) : Nat := let l := (count + p - 1) / p; if wire = 1 then (l + 63) / 64 * 64 else l

/-- The part of a list from lo to below hi. -/
def slice {α : Type} (xs : List α) (lo hi : Nat) : List α := (xs.drop lo).take (hi - lo)

/-- One segment under ring (R296): it starts at rank j + 1, and rank j adds last. -/
def ringSegment (parts : List (List Nat)) (wire p j lo hi : Nat) : List Nat :=
  let own := fun (r : Nat) => slice (parts.getD (r % p) []) lo hi
  let acc := (List.range (p - 1)).foldl (fun acc k => List.zipWith add32 (gateway wire acc) (own (j + 2 + k))) (own (j + 1))
  gateway wire acc

/-- One stage of binary-swap: pairs of neighbours combine (R296, R299). -/
def pairUp {α : Type} (f : α → α → α) : List α → List α
  | a :: b :: t => f a b :: pairUp f t
  | t => t

/-- Stages until one is left. -/
def treeOf {α : Type} (f : α → α → α) : Nat → List α → List α
  | 0, xs => xs
  | n + 1, xs => if xs.length ≤ 1 then xs else treeOf f n (pairUp f xs)

/-- The sums that every rank writes, as f32 codes (R295, R296). -/
def allReduce (parts : List (List Nat)) (alg wire count : Nat) : List Nat :=
  let p := parts.length
  if p ≤ 1 then parts.headD []
  else if alg = 1 then gateway wire ((treeOf (fun a b => List.zipWith add32 a (gateway wire b)) p parts).headD [])
  else
    let l := segLen count p wire
    (List.range p).flatMap fun j => ringSegment parts wire p j (j * l) (min ((j + 1) * l) count)

/-- Poison by element, and under WIRE = 1 by run (R455). -/
def reducePoison (parts : List (List Bool)) (wire count : Nat) : List Bool :=
  let bad := (List.range count).map fun i => parts.any fun xs => xs.getD i false
  if wire = 0 then bad else (List.range count).map fun i => (slice bad (i / 64 * 64) (i / 64 * 64 + 64)).any id

-- Composites

/-- Depth merge of two pixels: depth in the low half (R298); the winner's bits stay as they are (log entry 85). -/
def mergeDepth (a b : Nat) : Nat :=
  let (x, y) := (f32.val (a % 2 ^ 32), f32.val (b % 2 ^ 32))
  if x.isNan then (if y.isNan then a else b) else if y.isNan then a else if y.lt false x then b else a

/-- Four f32 codes of an alpha pixel, red first. -/
def alphaOf (x : Nat) : List Nat := (List.range 4).map fun k => cvt (.flt f16) (.flt f32) .rne false 0 (x / 2 ^ (16 * k) % 2 ^ 16)

/-- Front-to-back merge of two alpha pixels in f32 (R298). -/
def mergeAlpha (a b : List Nat) : List Nat :=
  let t := f32.round .rne false 0 (sumFV .rne [f32.val 0x3F800000, (f32.val (a.getD 3 0)).neg]).x
  (List.range 4).map fun k => f32.round .rne false 0 (sumFV .rne [(f32.val t).mul (f32.val (b.getD k 0)), f32.val (a.getD k 0)]).x

/-- An alpha pixel as it is written. -/
def alphaOut (a : List Nat) : Nat := (List.range 4).foldl (fun n k => n + cvt (.flt f32) (.flt f16) .rne false 0 (a.getD k 0) * 2 ^ (16 * k)) 0

/-- Count merge of two pixels (R298). -/
def mergeCount (a b : Nat) : Nat :=
  let m := fun (x k : Nat) => x / 2 ^ (32 * k) % 2 ^ 32
  let (na, nb) := (m a 3, m b 3)
  let n := min (na + nb) (2 ^ 32 - 1)
  if n = 0 then 0
  else
    let part := fun (c x : Nat) => f32.val (f32.round .rne false 0 ((FV.fin false c 0).mul (f32.val x)).x)
    (List.range 3).foldl (fun r k =>
      let sum := f32.val (f32.round .rne false 0 (sumFV .rne [part na (m a k), part nb (m b k)]).x)
      r + f32.round .rne false 0 (sum.div (FV.fin false n 0)) * 2 ^ (32 * k)) (n * 2 ^ 96)

/-- Merges images, pixel by pixel: sequentially, or by the tree (R299). -/
def mergeImages {α : Type} (f : α → α → α) (alg : Nat) (images : List (List α)) : List α :=
  if alg = 1 then (treeOf (List.zipWith f) images.length images).headD []
  else match images with
    | [] => []
    | x :: t => t.foldl (List.zipWith f) x

/-- The pixels that a composite writes (R298, R299). -/
def composite (kind alg : Nat) (order : List Nat) (parts : List (List Nat)) : List Nat :=
  if kind = 1 then mergeImages mergeDepth alg parts
  else if kind = 3 then mergeImages mergeCount alg parts
  else (mergeImages mergeAlpha alg (order.map fun r => (parts.getD r []).map alphaOf)).map alphaOut

-- Performing

/-- One element at a source address: its code and poison. -/
def State.collRead (s : State) (ctx : Nat) (ps : List (Nat × Nat)) (a n : Nat) : Nat × Bool :=
  let parts := (List.range n).map fun j => s.valueAt ctx (.hbm (pageAt ps (a + j))) 1
  (leNat (parts.flatMap (·.1)), parts.any (·.2))

/-- This package's own contribution: sums over its dies, or its image (R295, R298). -/
def State.collOwn (s : State) (x : CollSt) (d : CollDesc) : List Nat × List Bool :=
  let read := fun (die : Nat × List (Nat × Nat)) (i : Nat) => s.collRead x.ctx die.2 (d.src + die.1 * d.sstr + i * d.size) d.size
  let dies := d.dies.zip x.srcs
  let elem := fun (i : Nat) =>
    let vs := dies.map fun die => read die i
    let bad := vs.any (·.2)
    if d.kind = 0 then
      let cs := vs.map fun v => if d.ity = 0x0A then v.1 else cvt (.flt bf16) (.flt f32) .rne false 0 v.1
      (match cs with | [] => 0 | c :: t => t.foldl add32 c, bad)
    else ((vs.headD (0, false)).1, bad)
  ((List.range d.elems).map fun i => (elem i).1, (List.range d.elems).map fun i => (elem i).2)

/-- A result as bytes, with the poison of each (R455, log entry 11): an element's bits under poison are free. -/
def State.collBytes (s : State) (d : CollDesc) (vals : List Nat) (bad : List Bool) : List (Byte × Bool) :=
  (List.range d.elems).flatMap fun i =>
    let b := bad.getD i false
    let v := vals.getD i 0
    let code := if b then (Config.poisonBits (s.free + 2 * i)).toNat + 2 ^ 64 * (Config.poisonBits (s.free + 2 * i + 1)).toNat
      else if d.kind = 0 ∧ d.ity = 0x09 then cvt (.flt f32) (.flt bf16) .rne false 0 v
      else if d.kind = 0 ∧ (f32.val v).isNan then f32.nanCode else v
    (leBytes d.size code).map fun x => (x, b)

/-- Writes a result, granule by granule: the state, and the agents. -/
def State.collWrite (s : State) (x : CollSt) (d : CollDesc) (bs : List (Byte × Bool)) : State × List Nat :=
  let gs := granules (bs.length + 1) d.dst 0 bs.length
  let at_ := fun (g : Nat × Nat) => Loc.hbm (pageAt x.dsts (d.dst + g.1))
  (gs.foldl (fun (s : State) g =>
    let part := slice bs g.1 (g.1 + g.2)
    (s.breakQueues [at_ g]).agentWrite (s.place (at_ g)) (part.map (·.1)) none none (part.any (·.2))) s, gs.map fun g => (s.place (at_ g)).agent)

/-- A collective ends: its handle is ready, and the next one is taken up. -/
def State.collEnd (s : State) (k : Nat) (x : CollSt) (wit : Word) (fault : Nat) : State :=
  (({ s with colls := s.colls.erase k }.futDone x.fut wit fault).collPick).wake

/-- What the other ranks bring fits this collective: each rank once, with all of its data. -/
def CollSt.fits (x : CollSt) (d : CollDesc) (others : List RankData) : Bool :=
  ((List.range x.ranks).filter fun r => r != x.rank).all (fun r => others.any fun o => o.rank == r) && others.length + 1 == x.ranks &&
  others.all fun o => o.rank != x.rank && o.vals.length == d.elems && o.bad.length == d.elems

/-- A running collective performs once every rank has issued a matching one; a mismatch ends it (R294, R300). -/
def State.collPerform (s : State) (k : Nat) (x : CollSt) (others : List RankData) (agree : Bool) : State :=
  let d := collFields x.desc
  if !agree then (s.errorRecord x.ctx [4, d.tag, x.rank, x.ranks]).collEnd k x 0 0x13
  else
    let (own, obad) := s.collOwn x d
    let at_ := fun (r : Nat) => if r = x.rank then (own, obad) else match others.find? fun o => o.rank == r with
      | some o => (o.vals, o.bad)
      | none => ([], [])
    let parts := (List.range x.ranks).map at_
    let (vals, bad) :=
      if d.kind = 0 then (allReduce (parts.map (·.1)) d.alg d.wire d.count, reducePoison (parts.map (·.2)) d.wire d.count)
      else (composite d.kind d.alg x.order (parts.map (·.1)), (List.range d.elems).map fun i => parts.any fun y => y.2.getD i false)
    let bs := s.collBytes d vals bad
    let s := { s with free := s.free + 2 * d.elems }
    if d.gath ∧ x.rank ≠ 0 then s.collEnd k x (frontier 7 s.now) 0
    else
      let (s, agents) := s.collWrite x d bs
      ({ s with colls := s.colls.set k { x with running := false, shut := some (s.opens agents) } }.collPick).wake

/-- Collectives whose results have closed end (R293, R300). -/
def State.closeColls (s : State) : State :=
  s.colls.foldl (fun (s : State) (k, x) => match x.shut with
    | some o => match s.shut o with
      | .ok => s.collEnd k x (frontier 7 s.now) 0
      | _ => s
    | none => s) s

def execCollectivePerform (k : Nat) (others : List RankData) (agree : Bool) (s : State) : Out :=
  match s.colls.find? k with
  | some x => if x.running ∧ (!agree ∨ x.fits (collFields x.desc) others) then .next (s.collPerform k x others agree) else .next s
  | none => .next s

/-- A running collective yields: to a more urgent one at a boundary of its input, or, while it waits on a neighbour, to any (R301). -/
def execCollectiveYield (k : Nat) (s : State) : Out :=
  match s.colls.find? k, firstColl (s.collReady k) with
  | some x, some (j, y) =>
    if x.running ∧ !x.chain then
      let cs := s.colls.set k { x with running := false }
      .next { s with colls := cs.set j { y with running := true } }
    else .next s
  | _, _ => .next s

/-- A collective's wait on its semaphore is over once the witness that it received is satisfied (R303). -/
def execCollectiveSemWaitMet (k : Nat) (s : State) : Out :=
  match s.colls.find? k with
  | some x =>
    match x.semGot with
    | some w =>
      if x.metAt.isNone ∧ s.satisfied w x.who.core then
        .next ({ s with colls := s.colls.set k { x with metAt := some s.seq }, seq := s.seq + 1 }.collPick).wake
      else .next s
    | none => .next s
  | none => .next s

end Sys2Proof.Machine
end

