-- ==== Sys2Proof/Machine/Scheduler.lean ====
section
/-! DEFINITION. The graph scheduler: nodes and the ready pool (R329-R335), placement (R304-R309), pre-emption and saved gangs
(R336, R337, R262), team start and end (R324, R408), and re-execution (R439, R440, R447). -/

namespace Sys2Proof.Machine

-- Chains that stop (R342, R343)

/-- The IMSIC page that a message address names (R343). -/
def msiPage (a : Nat) : Option Nat := if a < 0xF80000000000 then none else (imsicOff (a - 0xF80000000000)).bind fun x => if x.2 = 0 then some x.1 else none

/-- A chain's message: an identity that the AIA defines is delivered (R343). -/
def State.chainMsi (s : State) (k id : Nat) : State :=
  match msiPage (s.chains.get {} k).msia with
  | some p => if 1 ≤ id ∧ id < 2048 then s.sendMsi p id else s
  | none => s

def State.modChain (s : State) (k : Nat) (f : Chain → Chain) : State := { s with chains := s.chains.set k (f (s.chains.get {} k)) }

/-- The context of a chain (R340). -/
def Chain.ctx (x : Chain) : Nat := Word.field x.ctl 11 0

/-- A chain leaves every semaphore's waiting list; requests behind it may now be served (R267). -/
def State.chainUnwait (s : State) (k : Nat) : State :=
  let at_ := (s.psems.filter fun (_, q) => q.wait.any fun y => y.who == .chain k).map (·.1)
  let s := { s with psems := s.psems.map fun (j, q) => (j, { q with wait := q.wait.filter fun y => y.who != .chain k }) }
  at_.foldl (fun (s : State) j => s.semServe (.pkg j)) s

/-- The chain's class: no more urgent than CMIN of its context (R340). -/
def State.ccls (s : State) (x : Chain) : Nat := max (Word.field x.ctl 49 48) (s.ctxs.get {} x.ctx).cmin

/-- Stores dwords in a chain's context, where they can be stored: the state, and the writes. -/
def State.chainStore (s : State) (k a : Nat) (ws : List Nat) : State × Opened :=
  let x := s.chains.get {} k
  match s.placeAll none x.ctx true .rawWrite ((List.range ws.length).map fun j => (a + 8 * j, 8)) with
  | (s, .error _) => (s, {})
  | (s, .ok xs) =>
    let (t, links) := (xs.zip ws).foldl (fun (acc : State × List (Nat × Nat)) (y, w) =>
      let (t, q) := acc.1.engineWrite ⟨0, 0, 32⟩ 0 x.ctx y.1 y.2.1 .no (leBytes 8 w) false (s.ccls x)
      (t, acc.2 ++ q.toList)) (s, [])
    (t, s.opens (s.moveAgents (xs.map fun y => { dst := y.1, leaf := y.2.1, n := 8, src := [] })) links)

/-- The error message of a chain whose record has closed (R342). -/
def State.chainError (s : State) (k : Nat) : State :=
  let x := s.chains.get {} k
  match x.errAt with
  | none => s
  | some o => match s.shut o with
    | .wait => s
    | _ => ((s.modChain k fun x => { x with errAt := none }).chainMsi k (Word.field x.msid 26 16)).wake

/-- Stops a chain at entry q: its record, and, once that has closed, its error message (R342). An entry that has set DONE completes. -/
def State.chainStop (s : State) (k q cause op entry fa : Nat) : State :=
  let x := s.chains.get {} k
  if Word.bit x.ctl 62 then s else
  let s := (s.chainUnwait k).modChain k fun x =>
    if x.seqAt.isSome then { x with ctl := x.ctl ||| BitVec.ofNat 64 (2 ^ 62) }
    else { x with ctl := x.ctl ||| BitVec.ofNat 64 (2 ^ 62), cur := none, curDone := false, waiting := false, got := false, shut := {} }
  let (s, o) := s.chainStore k x.erra [q, op % 256 * 256 + cause, entry, fa]
  (s.modChain k fun x => { x with errAt := some o }).chainError k

/-- Stops the chain that submitted a node (R331, R334). -/
def State.stopSubmitter (s : State) (n : Node) (cause fa : Nat) : State :=
  s.chainStop n.chain ((s.chains.get {} n.chain).done + 1) cause 0 0 fa

-- Descriptors (R329)

/-- Dword j of a descriptor. -/
def Node.dw (n : Node) (j : Nat) : Word := n.desc.getD j 0

def Node.type (n : Node) : Nat := Word.field (n.dw 0) 63 62
def Node.cls (n : Node) : Nat := Word.field (n.dw 0) 61 60
def Node.succs (n : Node) : List Nat := ((List.range 4).map fun j => Word.field (n.dw 1) (16 * j + 15) (16 * j)).filter (· != 0xFFFF)
def Node.entry (n : Node) : Nat := Word.field (n.dw 2) 51 0
def Node.w (n : Node) : Nat := 2 ^ Word.field (n.dw 3) 2 0
def Node.h (n : Node) : Nat := 2 ^ Word.field (n.dw 3) 5 3
def Node.gw (n : Node) : Nat := 2 ^ Word.field (n.dw 3) 8 6
def Node.gh (n : Node) : Nat := 2 ^ Word.field (n.dw 3) 11 9
def Node.warps (n : Node) : Nat := Word.field (n.dw 3) 17 12
def Node.nreg (n : Node) : Nat := Word.field (n.dw 3) 25 18
def Node.nacc (n : Node) : Nat := Word.field (n.dw 3) 30 26

def nodeKey (ctx nid : Nat) : Nat := ctx * 65536 + nid

/-- The tile operands: mode, base, pitch, rows, width (R330). -/
def Node.tiles (n : Node) : List (Nat × Nat × Nat × Nat × Nat) :=
  (List.range (n.tops.length / 2)).map fun j =>
    let (a, b) := (n.tops.getD (2 * j) 0, n.tops.getD (2 * j + 1) 0)
    (Word.field a 63 62, Word.field a 51 0, Word.field b 63 40, Word.field b 39 24, Word.field b 23 0)

-- Origins (R305-R307)

/-- Cores of a rectangle, by global column and row. -/
def rectCores (x y w h : Nat) : List Nat := (List.range (w * h)).map fun m => coreAt (x + m % w) (y + m / w)

def Node.coresAt (n : Node) (o : Nat × Nat) : List Nat := rectCores o.1 o.2 n.w n.h

/-- Aligned rectangles of the launch's shape, lowest row first, then lowest column. -/
def Node.rects (n : Node) : List (Nat × Nat) :=
  (List.range (24 / n.h)).flatMap fun j => (List.range (64 / n.w)).map fun i => (i * n.w, j * n.h)

/-- An origin meets R306: every core is present, and each gang lies within one die. -/
def State.originOk (s : State) (n : Node) (o : Nat × Nat) : Bool :=
  (n.coresAt o).all (fun c => !s.absent.get false c) &&
  (List.range (n.h / n.gh)).all fun j => (o.2 + j * n.gh) / 12 == (o.2 + j * n.gh + n.gh - 1) / 12

/-- Pages of a block of a tile operand: rows from r0 on, bytes from b0 on. -/
def blockPages (base pitch r0 rows b0 width : Nat) : List Nat :=
  ((List.range rows).flatMap fun r =>
    let a := base + (r0 + r) * pitch + b0
    if width = 0 then [] else (List.range ((a + width - 1) / 65536 - a / 65536 + 1)).map (a / 65536 + ·)).eraseDups

/-- The part of an extent that block i of n takes; the last takes the remainder (R307). -/
def blockOf (extent n i : Nat) : Nat × Nat := (extent / n * i, if i + 1 = n then extent - extent / n * i else extent / n)

/-- The die on which a page of a context is homed (R19). -/
def State.pageDie (s : State) (ctx page : Nat) : Option Nat :=
  match s.walk ctx (page * 65536) with
  | some (leaf, level, _) => if Word.field leaf 9 7 = 0 then some (leafPa leaf level (page * 65536) / 2 ^ 37 % 8) else none
  | none => none

/-- The placement score of an origin (R307). -/
def State.score (s : State) (n : Node) (o : Nat × Nat) : Nat :=
  let (gc, gr) := (n.w / n.gw, n.h / n.gh)
  ((List.range (gc * gr)).map fun g =>
    let (i, j) := (g % gc, g / gc)
    let die := dieOf (coreAt (o.1 + i * n.gw) (o.2 + j * n.gh))
    (n.tiles.flatMap fun (_, base, pitch, rows, width) =>
      let (r0, rs) := blockOf rows gr j
      let (b0, bs) := blockOf width gc i
      (blockPages base pitch r0 rs b0 bs).filter fun p => s.pageDie n.ctx p == some die).eraseDups.length * 65536).sum

/-- The origin of the highest score; the first of equals. -/
def State.bestOrigin (s : State) (n : Node) : List (Nat × Nat) → Option (Nat × Nat)
  | [] => none
  | o :: t => match s.bestOrigin n t with
    | some p => if s.score n o < s.score n p then some p else some o
    | none => some o

/-- A core is open to node k of a class: it works, and is not being cleared for another node of that class or a more urgent one (R336,
R447). -/
def State.coreOpen (s : State) (k cls c : Nat) : Bool :=
  !s.retired.contains c && s.drains.all fun d => d.node == k || !d.cores.contains c ||
    (match s.nodes.find? d.node with | some n => decide (cls < n.cls) | none => true)

/-- A core can take a team of node k: it holds none. -/
def State.coreFree (s : State) (k cls c : Nat) : Bool := (s.teams.find? c).isNone && s.coreOpen k cls c

/-- A core that is free, or holds a team of a less urgent class (R336). -/
def State.coreDrainable (s : State) (k cls c : Nat) : Bool :=
  s.coreOpen k cls c && match s.teams.find? c with | some t => decide (cls < t.cls) | none => true

/-- Free origins of a node. -/
def State.freeOrigins (s : State) (k : Nat) (n : Node) : List (Nat × Nat) :=
  n.rects.filter fun o => s.originOk n o && (n.coresAt o).all (s.coreFree k n.cls)

/-- A node's own drain is over. -/
def State.endDrain (s : State) (k : Nat) : State := { s with drains := s.drains.filter fun d => d.node != k }

/-- Cores have been taken: drains that would clear any of them are over, and their nodes choose again (R336). -/
def State.endDrains (s : State) (cores : List Nat) : State :=
  { s with drains := s.drains.filter fun d => !d.cores.any cores.contains }

-- The ready pool (R332)

/-- Ready nodes in pool order: by class, then in the order of their class. -/
def State.pool_ (s : State) : List Nat :=
  (List.range 4).flatMap fun c => s.ready.filter fun k => match s.nodes.find? k with | some n => n.cls == c | none => false

/-- Ready compute nodes of a class, oldest first. -/
def State.readyOf (s : State) (cls type : Nat) : List Nat :=
  s.ready.filter fun k => match s.nodes.find? k with | some n => n.cls == cls && n.type == type | none => false

def State.modNode (s : State) (k : Nat) (f : Node → Node) : State :=
  match s.nodes.find? k with
  | some n => { s with nodes := s.nodes.set k (f n) }
  | none => s

/-- What a conditional node's predicate says: run, skip, or unreadable with its address (R334). -/
def State.condition (s : State) (n : Node) : State × Except Nat Bool :=
  if !Word.bit (n.dw 0) 59 then (s, .ok true) else
  let a := Word.field (n.dw 8) 51 0
  if a % 8 ≠ 0 then (s, .error a) else
  match s.xlate none n.ctx true (.ld 8) a 8 with
  | (s, .ok (.hbm pa, _)) =>
    let (bs, _) := s.valueAt n.ctx (.hbm pa) 8
    (s, .ok ((leNat bs != 0) != Word.bit (n.dw 0) 58))
  | (s, _) => (s, .error a)

/-- A node's count is zero: it joins the pool, or completes without running (R332, R334). The answer says which. -/
def State.nodeReady (s : State) (k : Nat) : State × Bool :=
  match s.nodes.find? k with
  | none => (s, false)
  | some n =>
    match s.condition n with
    | (s, .ok true) => (s.modNode k (fun n => { n with phase := 1, readyAt := s.now }) |> fun s => { s with ready := s.ready ++ [k] }, false)
    | (s, .ok false) => (s, true)
    | (s, .error a) => (s.stopSubmitter n 5 a, true)

/-- One decrement of a node's count (R331, R335): the state, whether the node now completes without running, and whether the count
would have fallen below zero. -/
def State.decrement (s : State) (k : Nat) : State × Bool × Bool :=
  match s.nodes.find? k with
  | none => ({ s with heldDec := s.heldDec.set k (s.heldDec.get 0 k + 1) }, false, false)
  | some n =>
    if n.phase ≠ 0 ∨ n.count = 0 then (s, false, true)
    else
      let s := s.modNode k fun n => { n with count := n.count - 1 }
      if n.count = 1 then let (s, d) := s.nodeReady k; (s, d, false) else (s, false, false)

/-- Completes nodes, and those that then complete without running (R335): its semaphore rises, successors are decremented, the
NID is free. -/
def State.completeNodes (s : State) : Nat → List Nat → State
  | 0, _ => s
  | _ + 1, [] => s
  | f + 1, k :: t =>
    match s.nodes.find? k with
    | none => s.completeNodes f t
    | some n =>
      let s := { s with nodes := s.nodes.erase k, ready := s.ready.erase k, caps := s.caps.erase k, shadows := s.shadows.erase k }.endDrain k
      let s := if Word.bit (n.dw 9) 12 then s.semInc (.pkg (Word.field (n.dw 9) 11 0)) 1 (frontier 7 s.now) else s
      let (s, more, under) := n.succs.foldl (fun (acc : State × List Nat × Bool) x =>
        let (s, d, u) := acc.1.decrement (nodeKey n.ctx x)
        (s, if d then acc.2.1 ++ [nodeKey n.ctx x] else acc.2.1, acc.2.2 || u)) (s, [], false)
      let s := if under then s.stopSubmitter n 10 0 else s
      s.completeNodes f (t ++ more)

def State.completeNode (s : State) (k : Nat) : State := (s.completeNodes (s.nodes.length + 2) [k]).wake

-- Teams

/-- Every piece of state that a team could read is cleared (R408); future-table entries keep only their generations (R345). -/
def State.clearCore (s : State) (c : Nat) : State :=
  { s.setImage c { fut := (s.imageOf c).fut.map fun (k, e) => (k, e.freed) } with
    lb := s.lb.filter fun (k, _) => k / 128 != c
    fills := s.fills.filter fun x => x.core != c
    subs := (List.range 4).foldl (fun t j => t.set (c * 4 + j) { (t.get {} (c * 4 + j)) with c1 := none, c2 := none }) s.subs }

/-- Starts a team of a node on a core (R308, R36). -/
def State.startTeam (s : State) (n : Node) (o : Nat × Nat) (c : Nat) : State :=
  let s := s.clearCore c
  let x := s.ctxs.get {} n.ctx
  let s := s.setTeam c { tvec := x.tvec, trbase := x.trbase, factab := x.factab, drainlim := x.drainlim, ctx := n.ctx, nid := n.nid, cls := n.cls, nwarp := n.warps, nreg := n.nreg, nacc := n.nacc, ox := o.1, oy := o.2, gw := n.gw, gh := n.gh, millGen := srSeed 0 32 }
  let pc : Word := BitVec.ofNat 64 n.entry
  (List.range n.warps).foldl (fun (s : State) w =>
    let s := s.setWarp c w { bnd := n.nreg, last := (s.subs.get {} (c * 4 + w / 12)).cycle, ready := (s.subs.get {} (c * 4 + w / 12)).cycle }
    let s := (List.range 32).foldl (fun (s : State) l => s.setLane c w l { live := true, pc := pc, prev := pc, gen := srSeed 0 l }) s
    (List.range 4).foldl (fun (s : State) j => s.putReg c w 0 (128 + j) (n.dw (4 + j))) s) s

/-- Bytes of a row with their places, as the scheduler reads or restores it. -/
def rowPieces (a width : Nat) : List (Nat × Nat) := (granules (width + 1) a 0 width).map fun g => (a + g.1, g.2)

/-- Shadow copies of the in-place tiles (R330, R439). -/
def State.shadowTiles (s : State) (k : Nat) (n : Node) : State :=
  let rows := n.tiles.flatMap fun (mode, base, pitch, rows, width) =>
    if mode = 2 then (List.range rows).map fun r => (base + r * pitch, width) else []
  let (s, out) := rows.foldl (fun (acc : State × List (Nat × List Byte)) (a, width) =>
    match acc.1.placeAll none n.ctx true .rawRead (rowPieces a width) with
    | (s, .ok xs) => let (bs, _, s) := s.readPieces n.ctx xs; (s, acc.2 ++ [(a, bs)])
    | (s, .error _) => (s, acc.2)) (s, [])
  if out.isEmpty then s else { s with shadows := s.shadows.set k out }

/-- Restores the in-place tiles from their shadows (R439). -/
def State.restoreTiles (s : State) (k : Nat) (n : Node) : State :=
  (s.shadows.get [] k).foldl (fun (s : State) (a, bs) =>
    match s.placeAll none n.ctx true .rawWrite (rowPieces a bs.length) with
    | (s, .error _) => s
    | (s, .ok xs) =>
      (xs.foldl (fun (acc : State × List Byte) (x, leaf, m) =>
        ((acc.1.engineWrite ⟨0, 0, 32⟩ 0 n.ctx x leaf .no (acc.2.take m) false n.cls).1, acc.2.drop m)) (s, bs)).1) s

/-- Gives a node its copy of the capability table (R423). -/
def State.copyCaps (s : State) (k ctx : Nat) : State :=
  let a := (s.ctxs.get {} ctx).captab
  let ws := (List.range 1024).map fun j => BitVec.ofNat 64 (leNat (s.bytes (s.place (.hbm (a + 8 * j))) 8))
  { s with caps := s.caps.set k ws }

/-- A copy of a capability table can be made. -/
def State.capsRoom (s : State) (k : Nat) : Bool := (s.caps.find? k).isSome || decide (s.caps.length < 512)

/-- A node that was the oldest of its class has left the pool: backfill that stopped for it goes on (R332). -/
def State.backfillAgain (s : State) (k cls : Nat) : State :=
  if (s.readyOf cls 0).head? = some k then { s with backfillOff := s.backfillOff.filter (· != cls) } else s

/-- Places a compute node on an origin: all its teams start in one step (R308, R309). -/
def State.placeNode (s : State) (k : Nat) (n : Node) (o : Nat × Nat) : State :=
  let cores := n.coresAt o
  let s := (s.backfillAgain k n.cls).copyCaps k n.ctx
  let s := if n.reruns = 0 then s.shadowTiles k n else s
  let s := cores.foldl (fun s c => s.startTeam n o c) s
  { (s.endDrains cores).modNode k fun n => { n with phase := 2, left := cores.length, core0 := coreAt o.1 o.2 } with
    ready := s.ready.erase k }.endDrain k

-- Saved gangs (R337, R262)

/-- The cores of a saved or resident team's gang (R308). -/
def TeamSt.gangOf (t : TeamSt) (c : Nat) : List Nat :=
  rectCores (gxOf c - (gxOf c - t.ox) % t.gw) (gyOf c - (gyOf c - t.oy) % t.gh) t.gw t.gh

/-- Saved teams of one gang. -/
def State.savedGang (s : State) (x : Saved) : List Saved :=
  s.saved.filter fun y => y.team.key == x.team.key && (x.team.gangOf x.core).contains y.core

/-- A gang that has asked to return. -/
def State.gangQueued (s : State) (x : Saved) : Bool := (s.savedGang x).any (·.queued)

/-- Saves the gang of a core (R309, R337). -/
def State.saveGang (s : State) (c : Nat) (swapped : Bool) : State :=
  let t := s.team c
  let cores := (t.gangOf c).filter fun d => match s.teams.find? d with | some u => u.key == t.key | none => false
  cores.foldl (fun (s : State) d =>
    let s := (List.range (s.team d).nwarp).foldl (fun s w => s.land d w) s
    let maps := (s.team d).map
    let s := (s.unmapAll d)
    let u := s.team d
    let q := !swapped || (match u.idle with | some a => decide (s.now < a + 50000) | none => true)
    let x : Saved := { core := d, team := { u with idle := none, mapped := maps }, img := s.imageOf d, swapped := swapped, queued := q, at_ := s.now }
    let s := s.clearCore d
    { s with teams := s.teams.erase d, saved := s.saved ++ [x] }) s

/-- The matrix queues of a gang hold no operation of the team, and the fixed choices have issued (R154, R337). -/
def State.canSave (s : State) (c : Nat) : Bool :=
  let t := s.team c
  (t.gangOf c).all fun d => (s.mx.get [] d).isEmpty && (List.range 4).all fun j =>
    let x := s.subs.get {} (d * 4 + j)
    (x.c1.getD none).isNone && (x.c2.getD none).isNone

/-- Monitors whose finish was recorded complete in the lanes of a restored core (R262). -/
def State.finishRecorded (s : State) (c : Nat) : State :=
  s.mons.foldl (fun (s : State) (k, m) =>
    match m.done with
    | some (d, w) => if m.who.core = c ∧ s.resident m k then s.finishMon k m d w m.bad else s
    | none => s) s

/-- A saved team stands on its core again, and its granules are mapped again with FILL = 1 (R337, R201). -/
def State.restoreTeam (s : State) (y : Saved) : State :=
  let c := y.core
  let s := s.clearCore c
  let fut := mergeTab (s.imageOf c).fut (y.img.fut.map fun (k, e) => (k, e.back (s.fut.get {} k)))
  let s := (s.setImage c { y.img with fut := fut }).setTeam c { y.team with mapped := [] }
  y.team.mapped.foldl (fun (s : State) (e, m) => s.mapGranule c e { m with dirty := false } true) s

/-- Restores a saved gang on its origin (R337, R262). -/
def State.restoreGang (s : State) (x : Saved) : State :=
  let g := s.savedGang x
  let s := { s with saved := s.saved.filter fun y => !g.any fun z => z.core == y.core && z.team.key == y.team.key }.endDrains (x.team.gangOf x.core)
  let s := g.foldl (fun (s : State) y => s.restoreTeam y) s
  (g.foldl (fun (s : State) y => s.finishRecorded y.core) s).recheck.wake

/-- Queued gangs of one class. -/
def State.returning (s : State) (cls : Nat) : List Saved := s.saved.filter fun x => x.team.cls == cls && s.gangQueued x

/-- When a gang asked to return. -/
def State.queuedAt (s : State) (x : Saved) : Nat := (((s.savedGang x).filter (·.queued)).map (·.at_)).min?.getD 0

/-- A gang that can return now: its cores are free, and no other team has its granules registered (log entry 81). -/
def State.canReturn (s : State) (x : Saved) : Bool :=
  (x.team.gangOf x.core).all (s.coreFree x.team.key x.team.cls) &&
  (s.savedGang x).all fun y => y.team.mapped.all fun (_, m) => (s.registered m.pa).isNone

/-- Some gang of the class or a more urgent one can return now: it goes ahead of nodes of the class (R333). -/
def State.returnsFirst (s : State) (cls : Nat) : Bool := (List.range (cls + 1)).any fun c => (s.returning c).any s.canReturn

-- Dispatch (R332-R336)

/-- Backfill has stopped for a node: one of its class or a more urgent class waits as the oldest (R332). -/
def State.heldBack (s : State) (k : Nat) (n : Node) : Bool :=
  s.backfillOff.any fun b => decide (b ≤ n.cls) && (s.readyOf b 0).head? != some k

/-- A compute node ahead in pool order has a free origin. -/
def State.aheadFree (s : State) (k : Nat) : Bool :=
  (s.pool_.takeWhile (· != k)).any fun j => match s.nodes.find? j with
    | some n => n.type == 0 && !s.heldBack j n && s.capsRoom j && !(s.freeOrigins j n).isEmpty
    | none => false

/-- Chooses cores to drain for a node, or for a returning gang (R336, R333). -/
def State.startDrain (s : State) (k ctx : Nat) (cores : List Nat) : State :=
  if s.drains.any fun d => d.node == k then s
  else { s with drains := s.drains ++ [{ node := k, cores := cores, deadline := s.now + (s.ctxs.get {} ctx).drainlim, expired := false }] }

def State.dispatchCompute (s : State) (k : Nat) (n : Node) : State :=
  if s.heldBack k n ∨ s.aheadFree k ∨ s.returnsFirst n.cls ∨ !s.capsRoom k then s else
  match s.bestOrigin n (s.freeOrigins k n) with
  | some o => (s.placeNode k n o).wake
  | none =>
    match s.bestOrigin n (n.rects.filter fun o => s.originOk n o && (n.coresAt o).all (s.coreDrainable k n.cls)) with
    | some o => s.startDrain k n.ctx (n.coresAt o)
    | none => s

/-- A gang or a node that goes ahead of a returning gang can be placed now: of a more urgent class, or a gang of its class that asked
earlier (R333). -/
def State.returnHeld (s : State) (x : Saved) : Bool :=
  ((List.range x.team.cls).any fun c => (s.returning c).any s.canReturn) ||
  ((s.returning x.team.cls).any fun y => decide (s.queuedAt y < s.queuedAt x) && s.canReturn y) ||
  s.pool_.any fun j => match s.nodes.find? j with
    | some m => m.type == 0 && decide (m.cls < x.team.cls) && !s.heldBack j m && s.capsRoom j && !(s.freeOrigins j m).isEmpty
    | none => false

/-- A returning gang of a running node is placed on its own cores, or they are drained for it (R333, R337). -/
def State.dispatchReturn (s : State) (k : Nat) (n : Node) : State :=
  let xs := s.saved.filter fun x => x.team.key == k && s.gangQueued x && !s.returnHeld x
  match xs.find? s.canReturn with
  | some x => s.restoreGang x
  | none => match xs.find? fun x => (x.team.gangOf x.core).all (s.coreDrainable k x.team.cls) with
    | some x => s.startDrain k n.ctx (x.team.gangOf x.core)
    | none => s

-- Entries of chains and engine nodes (R338, R339)

/-- LEN of an operation, none for an unknown one (R339). -/
def opLen (op : Nat) : Option Nat := if op ≤ 6 ∨ op = 0x0F then some 1 else if op = 8 then some 3 else none

/-- Dwords of an entry that its operation does not use, and fields with limits, are as R338 and R339 say; `addrs` are its aligned
addresses. -/
def entryOk (op : Nat) (ws : List Word) : Bool :=
  let d := fun (j : Nat) => ws.getD j 0
  let zero := fun (a : Nat) => (List.range (8 - a)).all fun j => d (a + j) == 0
  Word.field (d 0) 49 32 == 0 && Word.field (d 0) 17 0 == 0 &&
  match op with
  | 0 => zero 1
  | 1 => zero 4 && decide (1 ≤ (d 3).toNat) && decide ((d 3).toNat ≤ 2 ^ 30)
  | 2 => zero 4 && (d 1).toNat % 8 == 0 && (d 3).toNat % 8 == 0
  | 3 => zero 4 && Word.field (d 3) 63 37 == 0 && decide (Word.field (d 3) 31 0 ≤ 2 ^ 20) && (d 2).toNat % 8 == 0 &&
      (match Ty.ofCode (Word.field (d 3) 36 32) with | some t => t.isM && (d 1).toNat % t.bytes == 0 | none => false)
  | 4 => zero 3 && decide ((d 1).toNat < 4096) && decide ((d 2).toNat ≤ 2 ^ 32)
  | 5 => zero 3 && decide ((d 1).toNat < 4096)
  | 6 => zero 3 && decide ((d 1).toNat < 256)
  | 8 => zero 1
  | _ => zero 2

/-- The cause for which an entry stops before it is performed, by the rules of R342 in their order. -/
def State.entryFault (s : State) (x : Chain) (ws : List Word) : Nat :=
  let h := ws.getD 0 0
  let op := Word.field h 63 56
  match opLen op with
  | none => 1
  | some n =>
    if Word.field h 55 52 ≠ n then 2
    else if 64 < x.unit + n then 3
    else if op = 0x0F ∧ (x.unit ≠ 63 ∨ (ws.getD 1 0).toNat % 4096 ≠ 0) then 4
    else if Word.field h 51 50 < s.ccls x then 7
    else if !entryOk op ws then 8
    else if (op = 4 ∨ op = 5) ∧ !s.psemOk x.ctx (ws.getD 1 0).toNat then 6
    else if Word.bit h 19 ∧ !s.psemOk x.ctx (Word.field h 31 20) then 6
    else 0

/-- A cause of R342 for a fault of an access. -/
def chainCause (k : Nat) : Nat := if k = 0x0B then 5 else 6

/-- Reads units of an entry: dwords, or a cause and address. -/
def State.readUnits (s : State) (ctx a n : Nat) : State × Except (Nat × Nat) (List Word) :=
  match s.placeAll none ctx true (.ld 8) ((List.range (8 * n)).map fun j => (a + 8 * j, 8)) with
  | (s, .error (k, b)) => (s, .error (chainCause k, b))
  | (s, .ok xs) =>
    let (bs, _, s) := s.readPieces ctx xs
    (s, .ok ((List.range (8 * n)).map fun j => BitVec.ofNat 64 (leNat ((bs.drop (8 * j)).take 8))))

/-- Number of the pseudo-chain on which an engine node's one entry runs. -/
def nodeChain (k : Nat) : Nat := 256 + k

/-- A collective that an engine node names, in the mode of a chain (R329, R293): it joins Glaze, or gives the cause for which its
submitter stops. -/
def State.nodeCollective (s : State) (k : Nat) (n : Node) (ws : List Word) : State × Except (Nat × Nat) Nat :=
  let d := collFields ws
  let cap := (capOf (s.capWords n.ctx n.nid (Word.field (n.dw 3) 39 32))).filter fun x =>
    x.perm.testBit permColl && x.kind == 2 && s.connOpen x.conn n.ctx && s.connOpen (x.size % 65536) n.ctx && s.connOpen (x.size / 65536 % 65536) n.ctx
  match cap with
  | none => (s, .error (6, 0))
  | some x =>
    let p := x.base / 65536 % 4096 + 1
    let chain := Word.bit (s.ctxs.get {} n.ctx).collmode 0
    if !collOk ws p chain then (s, .error (8, 0))
    else if d.semv ∧ !s.psemOk n.ctx d.sem then (s, .error (6, 0)) else
    let order : State × Except (Nat × Nat) (List (Loc × Word × Nat)) :=
      if d.kind = 2 then s.placeAll none n.ctx true (.ld 2) ((List.range p).map fun j => (d.orderAt + 2 * j, 2)) else (s, .ok [])
    let cause := fun (e : Nat × Nat) => (if e.1 = 0x0B then 5 else 6, e.2)
    match order with
    | (s, .error e) => (s, .error (cause e))
    | (s, .ok xs) =>
      let (bs, _, s) := s.readPieces n.ctx xs
      let ranks := (List.range xs.length).map fun j => leNat ((bs.drop (2 * j)).take 2)
      if d.kind = 2 ∧ !permOf p ranks then (s, .error (8, 0)) else
      match s.srcPages none n.ctx true d d.dies with
      | (s, .error e) => (s, .error (cause e))
      | (s, .ok srcs) =>
        match s.localPages none n.ctx true .stp (pagesOf d.dst d.bytes) with
        | (s, .error e) => (s, .error (cause e))
        | (s, .ok dsts) =>
          let j := s.seq
          let y : CollSt := { who := ⟨0, 0, 32⟩, ctx := n.ctx, desc := ws, rank := x.base % 4096, ranks := p, conns := (x.size % 65536, x.size / 65536 % 65536), order := ranks, chain := chain, pri := d.pri, tag := d.tag, issued := j, fut := none, running := false, user := true, srcs := srcs, dsts := dsts, metAt := if d.semv then none else some j }
          let s := { s with colls := s.colls.set j y, seq := s.seq + 1 }.modNode k fun n => { n with coll := some j }
          (if d.semv then s.semJoin (.pkg d.sem) { who := .coll j, thr := d.thr, take := false, since := s.now } else s.collPick, .ok j)

/-- An engine node goes to its engine: a chain entry runs on a chain of its own, and a collective joins Glaze (R329, R332). One that
cannot run stops its submitter and completes (log entry 27). -/
def State.dispatchEngine (s : State) (k : Nat) (n : Node) : State :=
  let ahead := (s.pool_.takeWhile (· != k)).any fun j => match s.nodes.find? j with | some m => m.type == 1 | none => false
  let stalls : Bool := match capOf ((s.copyCaps k n.ctx).capWords n.ctx n.nid (Word.field (n.dw 3) 39 32)) with
    | some x => x.kind == 2 && [x.conn, x.size % 65536, x.size / 65536 % 65536].any fun j => s.connOpen j n.ctx && s.connStalls j
    | none => false
  if ahead ∨ stalls ∨ !s.capsRoom k then s else
  let s := { s.copyCaps k n.ctx with ready := s.ready.erase k }.modNode k fun n => { n with phase := 2 }
  match s.placeAll none n.ctx true (.ld 8) ((List.range 8).map fun j => (n.entry + 8 * j, 8)) with
  | (s, .error (c, a)) => (s.stopSubmitter n (if c = 0x0B then 5 else 6) a).completeNode k
  | (s, .ok xs) =>
    let (bs, _, s) := s.readPieces n.ctx xs
    let ws := (List.range 8).map fun j => BitVec.ofNat 64 (leNat ((bs.drop (8 * j)).take 8))
    if Word.field (ws.getD 0 0) 63 56 = 0 ∧ ws.getD 1 0 ≠ 0 then
      match s.nodeCollective k n ws with
      | (s, .error (c, a)) => (s.stopSubmitter n c a).completeNode k
      | (s, .ok _) => s.wake
    else
      let y : Chain := s.chains.get {} n.chain
      let x : Chain := { ctl := BitVec.ofNat 64 (2 ^ 63 + n.cls * 2 ^ 48 + n.ctx), cur := some (ws, n.entry), msia := y.msia, msid := y.msid }
      match s.entryFault x ws with
      | 0 =>
        if Word.field (ws.getD 0 0) 63 56 ≠ 8 then { s with chains := s.chains.set (nodeChain k) x }.wake else
        match s.readUnits n.ctx (n.entry + 64) 2 with
        | (s, .error (c, a)) => (s.stopSubmitter n c a).completeNode k
        | (s, .ok more) => { s with chains := s.chains.set (nodeChain k) { x with cur := some (ws ++ more, n.entry) } }.wake
      | c => (s.stopSubmitter n c 0).completeNode k

/-- A service node goes to the leader's service pair (R332, R445). -/
def State.dispatchService (s : State) (k : Nat) : State :=
  let ahead := (s.pool_.takeWhile (· != k)).any fun j => match s.nodes.find? j with | some m => m.type == 2 | none => false
  if ahead ∨ !Word.bit s.lead 3 then s else { s with ready := s.ready.erase k }.modNode k fun n => { n with phase := 2 }

/-- The scheduler dispatches a ready node, or a saved gang of a running one, if it may now (R333). -/
def execNodeDispatch (node : Nat) (s : State) : Out :=
  match s.nodes.find? node with
  | none => .next s
  | some n =>
    if n.phase = 1 ∧ s.ready.contains node then
      .next (if n.type = 0 then s.dispatchCompute node n else if n.type = 1 then s.dispatchEngine node n else s.dispatchService node)
    else if n.phase = 2 ∧ n.type = 0 then .next (s.dispatchReturn node n)
    else .next s

/-- `drainlim` passes on a drain: what is still resident there will be saved (R336). -/
def execDrainLimitExpiry (node : Nat) (s : State) : Out :=
  .next { s with drains := s.drains.map fun d => if d.node = node ∧ d.deadline ≤ s.now then { d with expired := true } else d }

/-- The oldest ready compute node of a class has waited its context's `drainlim`: backfill stops (R332). -/
def execBackfillStop (cls : Nat) (s : State) : Out :=
  match (s.readyOf cls 0).head?.bind s.nodes.find? with
  | some n =>
    if cls < 4 ∧ n.readyAt + (s.ctxs.get {} n.ctx).drainlim ≤ s.now ∧ !s.backfillOff.contains cls then .next { s with backfillOff := s.backfillOff ++ [cls] }
    else .next s
  | none => .next s

/-- The class for whose node a core is being cleared by force. -/
def State.expiredFor (s : State) (c : Nat) : Bool :=
  s.drains.any fun d => d.expired && d.cores.contains c && (match s.nodes.find? d.node with | some n => decide (n.cls < (s.team c).cls) | none => false)

/-- The gang resident on a core of an expired drain is saved (R336, R337). -/
def execForcedSave (core : Nat) (s : State) : Out :=
  if (s.teams.find? core).isSome ∧ s.expiredFor core ∧ s.canSave core then .next (s.saveGang core false).wake else .next s

/-- A team whose live lanes have all been parked in `mwait` or `semw` for 50 µs is swapped out, with its gang (R262). -/
def execMonitorSwapOut (core : Nat) (s : State) : Out :=
  match s.teams.find? core with
  | some t =>
    match t.idle with
    | some a => if a + 50000 ≤ s.now ∧ s.canSave core then .next (s.saveGang core true).wake else .next s
    | none => .next s
  | none => .next s

-- Team end and node completion

/-- Work that a team has issued is still on its way (R324). -/
def State.teamBusy (s : State) (c key : Nat) : Bool :=
  let mine := fun (w : LaneId) (t : Nat) => w.core == c && t == key
  (s.reqs.any fun (_, r) => mine r.who r.team || ((s.place r.loc).agent == 0x200 + c && r.ctx == key / 65536)) ||
  (s.joins.any fun (_, j) => mine j.who j.team) || (s.replies.any fun (_, r) => mine r.who r.team) ||
  !(s.mx.get [] c).isEmpty || (s.iu.get [] c).any (fun j => j.team == key) ||
  (List.range 4).any (fun q => (s.copyQueue c q).any fun j => j.team == key) ||
  (s.conns.any fun (_, k) => k.out.any fun m => mine m.who m.team) || (s.rrcFetch.any fun (_, f) => mine f.who f.team) ||
  s.colls.any fun (_, x) => x.who.core == c && x.ctx == key / 65536 && x.fut.isSome

/-- One team of a node is gone: with the last, a re-execution starts (R439), a failed node stays failed (R440). -/
def State.teamGone (s : State) (key : Nat) : State :=
  match s.nodes.find? key with
  | none => s
  | some n =>
    let s := s.modNode key fun n => { n with left := n.left - 1 }
    if n.left = 1 ∧ n.rerun then
      let s := s.restoreTiles key n
      { s.modNode key fun n => { n with phase := 1, rerun := false, readyAt := s.now } with ready := key :: s.ready, caps := s.caps.erase key }
    else if n.left = 1 ∧ n.phase = 4 then { s with caps := s.caps.erase key, shadows := s.shadows.erase key }
    else s

/-- A team whose warps have all ended, and whose work is done, leaves its core (R324, R201); or its saved image is dropped. -/
def execTeamEnd (core : Nat) (s : State) : Out :=
  match s.teams.find? core with
  | some t =>
    if t.ended ∧ t.mill.all (fun j => j.fence.isSome && j.fut.isNone) ∧ !s.teamBusy core t.key then
      let s := (s.unmapAll core).clearCore core
      .next ({ s with teams := s.teams.erase core }.teamGone t.key).wake
    else .next s
  | none =>
    match s.saved.find? fun x => x.core == core && x.team.ended && !s.teamBusy core x.team.key with
    | some x =>
      .next ({ s with saved := s.saved.filter fun y => !(y.core == core && y.team.key == x.team.key) }.teamGone x.team.key).wake
    | none => .next s

/-- A node completes: every team has ended, its entry or collective has completed, or its routine has returned; then every agent must
close its writes (R335). -/
def execNodeComplete (node : Nat) (s : State) : Out :=
  match s.nodes.find? node with
  | none => .next s
  | some n =>
    if n.phase ≠ 2 then .next s else
    match n.endAt with
    | none =>
      let done := if n.type = 0 then n.left == 0 else if n.type = 2 then true
        else match n.coll with
          | some j => (s.colls.find? j).isNone
          | none => (s.chains.get {} (nodeChain node)).cur.isNone
      .next (if done then s.modNode node fun n => { n with endAt := some s.now } else s)
    | some t =>
      if !s.frontOk 7 t 0 then .next s
      else .next ({ s with chains := if n.type = 1 then s.chains.erase (nodeChain node) else s.chains }.completeNode node)

-- Ending teams from outside (R328, R438, R439, R447)

/-- Ends the teams of a node, resident and saved. -/
def State.endTeams (s : State) (key : Nat) : State :=
  let s := s.teams.foldl (fun (s : State) (c, t) => if t.key = key then s.endTeam c else s) s
  (s.saved.filter fun x => x.team.key == key).foldl (fun (s : State) x => s.inSaved x fun s => s.endTeam x.core) s

/-- A node is to be executed again; a fourth request marks it failed (R439, R440). -/
def State.reExecute (s : State) (key : Nat) : State :=
  match s.nodes.find? key with
  | none => s
  | some n =>
    if n.phase ≠ 2 ∨ n.type ≠ 0 ∨ n.rerun then s
    else if n.reruns = 3 then
      let s := (s.modNode key fun n => { n with phase := 4 }).count 0x0A21 1
      ((s.chainMsi n.chain (Word.field (s.chains.get {} n.chain).msid 26 16)).endTeams key).wake
    else ((s.modNode key fun n => { n with rerun := true, reruns := n.reruns + 1 }).count 0x0A20 1 |>.endTeams key).wake

/-- The scheduler takes a re-execution request that a handler's store has brought (R439). -/
def execReExecutionRequest (ctx nid : Nat) (s : State) : Out :=
  if s.reexec.contains (ctx, nid) then .next ({ s with reexec := s.reexec.erase (ctx, nid) }.reExecute (nodeKey ctx nid)) else .next s

end Sys2Proof.Machine
end

