-- ==== Sys2Proof/Machine/Chains.lean ====
section
/-! DEFINITION. Command chains: their entries and how each starts, is performed, completes or stops (R338-R343), and submission of
nodes (R331). -/

namespace Sys2Proof.Machine

/-- Address of the unit at which the next entry stands (R338). -/
def Chain.here (x : Chain) : Nat := x.seg + 64 * x.unit

/-- The witness of the write that raised TAIL to q or above (R341). -/
def Chain.gate (x : Chain) (q : Nat) : Option (Nat × Word × Nat) := x.gates.find? fun g => decide (q ≤ g.1)

/-- An engine may start the chain's next entry (R341). -/
def State.chainOpen (s : State) (k : Nat) : Bool :=
  let x := s.chains.get {} k
  Word.bit x.ctl 63 && !Word.bit x.ctl 62 && x.cur.isNone && decide (x.done + 1 ≤ x.tail) &&
  match x.gate (x.done + 1) with
  | some (_, w, c) => s.satisfied w c
  | none => true

/-- The wait for the witness of the TAIL write ends: an expired one is counted (R231). -/
def State.gateCount (s : State) (x : Chain) : State :=
  match x.gate (x.done + 1) with
  | some (_, w, _) => s.countExpiry w
  | none => s

/-- Chains of the engine of chain k that come before it in round-robin order (R338). -/
def State.chainsAhead (s : State) (k : Nat) : List Nat :=
  let last := s.rr.get 255 (k % 16)
  -- distance behind the chain that was served last
  let dist := fun (j : Nat) => (j + 256 - last - 1) % 256
  (s.chains.map (·.1)).filter fun j => decide (j < 256) && j % 16 == k % 16 && decide (dist j < dist k)

/-- The engine starts the chain's next entry: it reads and checks it (R341, R342). -/
def State.chainStart (s : State) (k : Nat) : State :=
  if 256 ≤ k ∨ !s.chainOpen k ∨ (s.chainsAhead k).any s.chainOpen then s else
  let x := s.chains.get {} k
  let q := x.done + 1
  let s := { s with rr := s.rr.set (k % 16) k }.gateCount x
  if 64 ≤ x.unit then s.chainStop k q 3 0 x.here 0 else
  match s.readUnits x.ctx x.here 1 with
  | (s, .error (c, a)) => s.chainStop k q c 0 x.here a
  | (s, .ok ws) =>
    let op := Word.field (ws.getD 0 0) 63 56
    let f := s.entryFault x ws
    if f ≠ 0 then s.chainStop k q f op x.here 0
    else
      let s' := s.modChain k fun x => { x with cur := some (ws, x.here), curDone := false, wit := 0, shut := {}, waiting := false, got := false, gates := x.gates.filter fun g => decide (q ≤ g.1) }
      if op ≠ 8 then s'
      else match s.readUnits x.ctx (x.here + 64) 2 with
        | (s, .error (c, a)) => s.chainStop k q c op x.here a
        | (s, .ok more) => s.modChain k fun x => { x with cur := some (ws ++ more, x.here), curDone := false, wit := 0, shut := {}, waiting := false, got := false, gates := x.gates.filter fun g => decide (q ≤ g.1) }

/-- An engine queue starts its next entry (R244, R347, R341). -/
def execQueueEntryStart (q : QueueRef) (s : State) : Out :=
  match q with
  | .copy core q => .next (s.copyStart core q)
  | .chain k => .next (s.chainStart k).wake

-- What the entries do

/-- Dwords of the entry in progress, where it is of an operation and not yet performed. -/
def State.entryOf (s : State) (k op : Nat) : Option (List Word) :=
  let x := s.chains.get {} k
  match x.cur with
  | some (ws, _) => if Word.field (ws.getD 0 0) 63 56 = op ∧ !x.curDone then some ws else none
  | none => none

/-- The entry in progress is performed: its writes have yet to close (R339). -/
def State.entryDone (s : State) (k : Nat) (wit : Word) (o : Opened := {}) : State :=
  (s.modChain k fun x => { x with curDone := true, wit := wit, shut := o }).wake

/-- Class of the accesses of the entry in progress (R338). -/
def Chain.cls (x : Chain) : Nat := match x.cur with | some (ws, _) => Word.field (ws.getD 0 0) 51 50 | none => 0

/-- The entry in progress fails: its chain stops; the entry of an engine node stops the node's submitter (log entry 27). -/
def State.entryFail (s : State) (k cause fa : Nat) : State :=
  let x := s.chains.get {} k
  let (op, a) := match x.cur with | some (ws, a) => (Word.field (ws.getD 0 0) 63 56, a) | none => (0, 0)
  if k < 256 then (s.chainStop k (x.done + 1) cause op a fa).wake
  else match s.nodes.find? (k - 256) with
    | some n => ((s.stopSubmitter n cause fa).modChain k fun x => { x with cur := none, curDone := false }).wake
    | none => s

/-- NOP (R339). -/
def execChainNop (k : Nat) (s : State) : Out :=
  match s.entryOf k 0 with
  | some _ => .next (s.entryDone k 0)
  | none => .next s

/-- Makes a chain's moves (R350, R339): from their sources, or of a pattern in each. -/
def State.chainMoves (s : State) (k : Nat) (ms : List CopyMove) (fill : Option Nat := none) : State :=
  let ctx := (s.chains.get {} k).ctx
  match s.peersReady ctx (placesOf ms) with
  | .wait => s
  | .fault _ _ => s.entryFail k 6 0
  | .ok =>
    if !((placesOf ms).all (s.engineOpen ctx)) then s else
    let agents := s.moveAgents ms
    let cls := (s.chains.get {} k).cls
    let (s, links) := match fill with
      | none => s.makeMoves ⟨0, 0, 32⟩ 0 ctx cls .pk ms
      | some v => ms.foldl (fun (acc : State × List (Nat × Nat)) (m : CopyMove) =>
          let (s, q) := acc.1.engineWrite ⟨0, 0, 32⟩ 0 ctx m.dst m.leaf .pk (leBytes 8 v) false cls
          (s, acc.2 ++ q.toList)) (s, [])
    s.entryDone k 0 (s.opens agents links)

/-- COPY (R339). -/
def execChainCopy (k : Nat) (s : State) : Out :=
  match s.entryOf k 1 with
  | none => .next s
  | some ws =>
    let d := fun (j : Nat) => (ws.getD j 0).toNat
    match s.movesFrom none (s.chains.get {} k).ctx true (fun _ => true) (d 1) (fun o => d 2 + o) (granules (d 3) (d 1) 0 (d 3)) with
    | (s, .error (c, a)) => .next (s.entryFail k (chainCause c) a)
    | (s, .ok ms) => .next (s.chainMoves k ms)

/-- FILL (R339). -/
def execChainFill (k : Nat) (s : State) : Out :=
  match s.entryOf k 2 with
  | none => .next s
  | some ws =>
    let d := fun (j : Nat) => (ws.getD j 0).toNat
    let ctx := (s.chains.get {} k).ctx
    match s.placeAll none ctx true .rawWrite ((List.range (d 3 / 8)).map fun j => (d 1 + 8 * j, 8)) with
    | (s, .error (c, a)) => .next (s.entryFail k (chainCause c) a)
    | (s, .ok xs) =>
        .next (s.chainMoves k (xs.map fun x => { dst := x.1, leaf := x.2.1, n := 8, src := [] }) (some (d 2)))

/-- GATHER (R339, R350). -/
def execChainGather (k : Nat) (s : State) : Out :=
  match s.entryOf k 3 with
  | none => .next s
  | some ws =>
    let d := fun (j : Nat) => (ws.getD j 0).toNat
    let ctx := (s.chains.get {} k).ctx
    let n := d 3 % 2 ^ 32
    let size := ((Ty.ofCode (Word.field (ws.getD 3 0) 36 32)).getD .n8).bytes
    match s.placeAll none ctx true .rawRead ((List.range n).map fun j => (d 2 + 8 * j, 8)) with
    | (s, .error (c, a)) => .next (s.entryFail k (chainCause c) a)
    | (s, .ok ts) =>
      let (bs, _, s) := s.readPieces ctx ts
      let entry := fun (j : Nat) => leNat ((bs.drop (8 * j)).take 8)
      match (List.range n).find? fun j => entry j % size != 0 with
      | some j => .next (s.entryFail k 8 (entry j))
      | none =>
        match s.movesFrom none ctx true (fun _ => true) (d 1) (fun o => entry (o / size) + o % size) (granules (n * size) (d 1) 0 (n * size)) with
        | (s, .error (c, a)) => .next (s.entryFail k (chainCause c) a)
        | (s, .ok ms) => .next (s.chainMoves k ms)

/-- SEMINC: it merges the completion witness of every earlier entry (R339). -/
def execChainSeminc (k : Nat) (s : State) : Out :=
  match s.entryOf k 4 with
  | none => .next s
  | some ws =>
    let x := s.chains.get {} k
    .next ((s.semInc (.pkg (ws.getD 1 0).toNat) (ws.getD 2 0).toNat x.prior).entryDone k 0 (s.opens [burzonAgent]))

/-- SEMWAIT joins the semaphore's waiting list, as `semw.ge` (R339). -/
def execChainSemwait (k : Nat) (s : State) : Out :=
  match s.entryOf k 5 with
  | none => .next s
  | some ws =>
    if (s.chains.get {} k).waiting then .next s
    else .next ((s.modChain k fun x => { x with waiting := true }).semJoin (.pkg (ws.getD 1 0).toNat) { who := .chain k, thr := (ws.getD 2 0).toNat, take := false, since := s.now }).wake

/-- WAITSEQ begins to wait (R339). -/
def execChainWaitseq (k : Nat) (s : State) : Out :=
  match s.entryOf k 6 with
  | none => .next s
  | some _ => .next (s.modChain k fun x => { x with waiting := true })

/-- A chain's wait is met: the semaphore has served it and its witness is satisfied, or the other chain is done so far (R339). -/
def execChainWaitMet (k : Nat) (s : State) : Out :=
  let x := s.chains.get {} k
  if !x.waiting then .next s else
  match s.entryOf k 5, s.entryOf k 6 with
  | some _, _ => if x.got ∧ s.satisfied x.wit 0 then .next ((s.countExpiry x.wit).entryDone k x.wit) else .next s
  | _, some ws => if (ws.getD 2 0).toNat ≤ (s.chains.get {} (ws.getD 1 0).toNat).done then .next (s.entryDone k 0) else .next s
  | _, _ => .next s

-- Submission (R331)

/-- The fields of a descriptor satisfy R329. -/
def Node.fieldsOk (n : Node) : Bool :=
  let d := n.dw
  let z := fun (w : Word) (hi lo : Nat) => Word.field w hi lo == 0
  z (d 0) 57 48 && z (d 0) 31 16 && decide (Word.field (d 0) 15 0 ≠ 0xFFFF) && decide (n.type ≠ 3) &&
  z (d 2) 63 52 && z (d 8) 63 52 && z (d 10) 63 52 && z (d 9) 63 13 && z (d 11) 63 4 && decide (Word.field (d 11) 3 0 ≤ 8) &&
  Word.field (d 10) 5 0 == 0 && (List.range 4).all (fun j => d (12 + j) == 0) &&
  if n.type = 0 then
    z (d 3) 63 40 && !Word.bit (d 3) 31 && decide (n.w ≤ 64) && decide (n.h ≤ 16) && decide (n.gw ≤ 16) && decide (n.gh ≤ 8) && decide (n.gw ≤ n.w) && decide (n.gh ≤ n.h) &&
    decide (1 ≤ n.warps) && decide (n.warps ≤ 47) && decide (1 ≤ n.nreg) && decide (n.nreg ≤ 128) && decide (n.nacc ≤ 16) &&
    decide (n.warps * (n.nreg + 16 * n.nacc) ≤ 2048)
  else z (d 3) 63 40 && z (d 3) 31 0

/-- A tile operand satisfies R330. -/
def tileRowOk (a b : Word) : Bool :=
  decide (Word.field a 63 62 ≠ 3) && Word.field a 61 52 == 0 && decide (1 ≤ Word.field b 39 24) && decide (1 ≤ Word.field b 23 0) &&
  decide (Word.field b 23 0 ≤ Word.field b 63 40)

/-- Checks and submits a node of a chain's context: the state, or the cause and address for which the chain stops (R331). -/
def State.submit (s : State) (k ctx : Nat) (desc : List Word) : State × Except (Nat × Nat) Unit :=
  let n : Node := { ctx := ctx, nid := Word.field (desc.getD 0 0) 15 0, desc := desc, chain := k, count := Word.field (desc.getD 0 0) 47 32 }
  let c := s.ctxs.get {} ctx
  let key := nodeKey ctx n.nid
  let held := s.heldDec.get 0 key
  if !n.fieldsOk ∨ !c.live ∨ n.cls < c.cmin ∨ (s.nodes.find? key).isSome ∨ n.count < held ∨ (n.type = 0 ∧ !n.rects.any (s.originOk n)) ∨
      (Word.bit (n.dw 9) 12 ∧ !s.psemOk ctx (Word.field (n.dw 9) 11 0)) then (s, .error (9, 0))
  else
    let nt := Word.field (n.dw 11) 3 0
    let a := Word.field (n.dw 10) 51 0
    match s.placeAll none ctx true (.ld 8) ((List.range (2 * nt)).map fun j => (a + 8 * j, 8)) with
    | (s, .error (f, b)) => (s, .error (chainCause f, b))
    | (s, .ok xs) =>
      let (bs, _, s) := s.readPieces ctx xs
      let tops := (List.range (2 * nt)).map fun j => BitVec.ofNat 64 (leNat ((bs.drop (8 * j)).take 8))
      if !(List.range nt).all (fun j => tileRowOk (tops.getD (2 * j) 0) (tops.getD (2 * j + 1) 0)) then (s, .error (9, 0))
      else
        let n := { n with tops := tops, count := n.count - held }
        let s := { s with nodes := s.nodes.set key n, heldDec := s.heldDec.erase key }
        if n.count ≠ 0 then (s, .ok ())
        else
          let (s, d) := s.nodeReady key
          (if d then s.completeNode key else s, .ok ())

/-- SUBMIT (R331, R339): complete once the node is live. -/
def execChainSubmit (k : Nat) (s : State) : Out :=
  match s.entryOf k 8 with
  | none => .next s
  | some ws =>
    match s.submit k (s.chains.get {} k).ctx (ws.drop 8) with
    | (s, .error (c, a)) => .next (s.entryFail k c a)
    | (s, .ok _) => if Word.bit (s.chains.get {} k).ctl 62 then .next s else .next (s.entryDone k 0)

/-- LINK (R339): the chain goes on at the next segment once the entry completes. -/
def execChainLink (k : Nat) (s : State) : Out :=
  match s.entryOf k 0x0F with
  | some _ => .next (s.entryDone k 0)
  | none => .next s

-- Completion and control

/-- The end of an entry: its semaphore rises with the entry's witness, and its message is sent; the chain stands at the next (R341). -/
def State.entryEnd (s : State) (k : Nat) (x : Chain) (ws : List Word) : State :=
  let h := ws.getD 0 0
  let op := Word.field h 63 56
  let link := op == 0x0F
  let s := s.modChain k fun x => { x with
    cur := none, curDone := false, waiting := false, got := false, shut := {}, seqAt := none
    seg := if link then (ws.getD 1 0).toNat else x.seg, unit := if link then 0 else x.unit + (if op = 8 then 3 else 1) }
  let s := if Word.bit h 19 then s.semInc (.pkg (Word.field h 31 20)) 1 x.wit else s
  (if Word.bit h 18 then s.chainMsi k (Word.field x.msid 10 0) else s).wake

/-- Entry q completes: DONE, then the word at SEQA, whose store must close before the entry's semaphore and message (R341). -/
def State.entryComplete (s : State) (k : Nat) (x : Chain) : State :=
  let q := x.done + 1
  let wit := if x.shut.none then x.wit else frontier 7 s.now
  let s := s.modChain k fun x => { x with done := q, wit := wit, prior := (s.merge 0 x.prior wit).getD x.prior }
  let (s, o) := if x.seqa = 0 then (s, {}) else s.chainStore k x.seqa [q]
  s.modChain k fun x => { x with seqAt := some o }

/-- Goes on with an entry whose DONE is set, once its store at SEQA has closed. -/
def State.entryStored (s : State) (k : Nat) : State :=
  let x := s.chains.get {} k
  match x.cur, x.seqAt with
  | some (ws, _), some o => match s.shut o with
    | .wait => s
    | _ => s.entryEnd k x ws
  | _, _ => s

/-- An entry completes once all its writes have closed (R339, R341); the message of a stopped chain goes out once its record has
(R342). -/
def execChainEntryComplete (k : Nat) (s : State) : Out :=
  let x := s.chains.get {} k
  if x.errAt.isSome ∧ x.seqAt.isNone then .next (s.chainError k)
  else if x.seqAt.isSome then .next ((s.entryStored k).chainError k)
  else if x.cur.isNone ∨ !x.curDone then .next s
  else match s.shut x.shut with
    | .ok => .next ((s.entryComplete k x).entryStored k).wake
    | .wait => .next s
    | .fault _ _ => .next (s.entryFail k 6 0)

/-- Bits of CTL that the service OS writes (R340). -/
def ctlMask : Word := BitVec.ofNat 64 (2 ^ 63 + 3 * 2 ^ 48 + 0xFFF)

/-- The service OS enables or disables a chain: entries are numbered anew from enabling (R340-R342). -/
def execChainEnable (k : Nat) (ctl : Word) (s : State) : Out :=
  if 256 ≤ k then .next s else
  let x := s.chains.get {} k
  let on := Word.bit x.ctl 63 && !Word.bit x.ctl 62
  let s' := (s.chainUnwait k).modChain k fun x => { x with
    ctl := ctl &&& ctlMask, cur := none, curDone := false, waiting := false, got := false, shut := {}, seqAt := none, gates := [], prior := 0, wit := 0 }
  if Word.bit ctl 63 then
    (if on then .next s else .next (s'.modChain k fun x => { x with tail := 0, done := 0, unit := 0 }).wake)
  else .next s'.wake

/-- The host writes TAIL (R340, R341). -/
def execChainTailWrite (k : Nat) (tail : Word) (s : State) : Out :=
  if k < 256 then .next (s.writeTail k tail.toNat 0 0).wake else .next s

end Sys2Proof.Machine
end

