-- ==== Sys2Proof/Machine/Control.lean ====
section
/-! DEFINITION. Group 14: branches, calls, landings, hardware loops, ends of lanes and naps (R319-R327). Barriers are beside the
team's other waits. -/

namespace Sys2Proof.Machine

/-- The physical address of a word to fetch, or none for a fetch fault (R319): its address is no multiple of 8, does not translate,
or lacks X in the mode. -/
def State.fetchPlace (s : State) (c w l : Nat) (t : Word) : State × Option Nat :=
  if t.toNat % 8 ≠ 0 then (s, none) else
  match s.xlate (some c) (s.team c).ctx (s.isUser c w l) .fetch t.toNat 8 with
  | (s, .ok (.hbm pa, _)) => (s, some pa)
  | (s, _) => (s, none)

/-- A `land` word: F-form with its opcode (R321). -/
def isLand (w : Word) : Bool := Word.field w 63 62 == 0 && Word.field w 54 45 == 0x385

/-- LANDOK (R321): goes on if the target may be landed on, else faults the lane. -/
def State.landOk (s : State) (c w l : Nat) (t : Word) (k : State → LaneOut × State) : LaneOut × State :=
  match s.fetchPlace c w l t with
  | (s, none) => (.fault 0x08 t.toNat 0, s)
  | (s, some pa) => if isLand (s.wordAt c pa) then k s else (.fault 0x09 t.toNat 0, s)

/-- The target of a branch offset (R65, R321). -/
def branchTo (pc : Word) (off : BitVec 21) : Word := pc + 8 * off.signExtend 64

def execBra (f : Br) (s : State) : Out :=
  s.perLane (.bra f) fun s0 c w l _ s => (.jump (branchTo (s0.lane c w l).pc f.off), s)

def execBrx (f : Alu) (s : State) : Out :=
  s.perLane (.brx f) fun s0 c w l _ s =>
    let t := s0.op64 c w l f.a
    s.landOk c w l t fun s => (.jump t, s)

def execCall (f : Br) (s : State) : Out :=
  s.perLane (.call f) fun s0 c w l first s =>
    let pc := (s0.lane c w l).pc
    (.jump (branchTo pc f.off), s.putLat c w l first 4 f.d (pc + 8))

def execCalx (f : Alu) (s : State) : Out :=
  s.perLane (.calx f) fun s0 c w l first s =>
    let t := s0.op64 c w l f.a
    s.landOk c w l t fun s => (.jump t, s.putLat c w l first 4 f.d ((s0.lane c w l).pc + 8))

def execRet (f : Alu) (s : State) : Out :=
  s.perLane (.ret f) fun s0 c w l _ s => (.jump (s0.op64 c w l f.a), s)

/-- `land` has no effect (R321). -/
def execLand (f : Alu) (s : State) : Out := s.perLane (.land f) fun _ _ _ _ _ s => (.done, s)

/-- Starts loop n of a lane (R322). -/
def LaneSt.startLoop (x : LaneSt) (n : Nat) (count : BitVec 32) (stop : Word) : LaneSt :=
  let y : Loop := { count := count, start := x.pc + 8, stop := stop, active := true }
  if n = 0 then { x with lc0 := y, later := false } else { x with lc1 := y, later := true }

/-- Ends loop n of a lane without running its body (R322). -/
def LaneSt.skipLoop (x : LaneSt) (n : Nat) : LaneSt :=
  if n = 0 then { x with lc0 := { x.lc0 with active := false } } else { x with lc1 := { x.lc1 with active := false } }

/-- `hlp` (R322). -/
def execHlp (f : Br) (s : State) : Out :=
  s.perLane (.hlp f) fun s0 c w l _ s =>
    let count : BitVec 32 := (s0.op64 c w l f.a).setWidth 32
    let e := branchTo (s0.lane c w l).pc f.off
    if count = 0 then (.jump (e + 8), s.modLane c w l fun x => x.skipLoop f.d.toNat)
    else (.done, s.modLane c w l fun x => x.startLoop f.d.toNat count e)

/-- `exit` (R324). -/
def execExit (f : Alu) (s : State) : Out :=
  s.perWarp (.exit f) (fun _ _ _ _ => []) fun _ c w ms s =>
    (.own, ((s.forLanes ms fun l s => s.modLane c w l (LaneOut.done.after f.h.stall.toNat)).forLanes ms fun l s =>
      s.endLane c w l).afterEnds c w)

/-- `kill` (R324). -/
def execKill (f : Alu) (s : State) : Out :=
  s.perWarp (.kill f) (fun _ _ _ _ => []) fun s0 c w ms s =>
    let mask : Mask := (s0.op64 c w (ms.headD 0) f.a).setWidth 32
    let s := s.forLanes ms fun l s => s.modLane c w l (LaneOut.done.after f.h.stall.toNat)
    (.own, (s.forLanes mask.lanes fun l s => s.killLane c w l).afterEnds c w)

/-- `nap` (R327). -/
def execNap (f : Imm) (s : State) : Out :=
  s.perWarp (.nap f) (fun _ _ _ _ => []) fun _ c w _ s =>
    let s := s.land c w
    if f.imm = 0 then (.done, s) else (.park (.nap (s.now + f.imm.toNat)), s)

/-- Lanes of a warp whose nap is over go on (R327). -/
def execNapExpiry (core slot : Nat) (s : State) : Out :=
  .next ((s.forLanes (List.range 32) fun l s =>
    match (s.lane core slot l).park with
    | .nap t => if t ≤ s.now then s.modLane core slot l (·.resume) else s
    | _ => s).wake)

end Sys2Proof.Machine
end

