-- ==== Sys2Proof/Machine/System.lean ====
section
/-! DEFINITION. Group 15: software traps, the return from a trap, system registers, TLB invalidation and capabilities (R417,
R421-R426, R435, R436). -/

namespace Sys2Proof.Machine

/-- `trap` (R436): every lane of M faults. -/
def execTrap (f : Imm) (s : State) : Out :=
  s.perWarp (.trap f) (fun _ _ _ _ => []) fun _ _ _ _ s => (.fault 0x18 (fun _ => 0) f.imm.toNat, s)

/-- `brk` (R436): the record is written, then the warp is frozen and escalated. -/
def execBrk (f : Imm) (s : State) : Out :=
  s.perWarp (.brk f) (fun _ _ _ _ => []) fun _ _ _ ms s => (.own, s.trapAll ms 0x19 0 (aux := f.imm.toNat) (enter := false))

/-- `tret` (R435): it waits until its lanes' earlier writes, the handler's to the record among them, are stamped. -/
def execTret (f : Alu) (s : State) : Out :=
  s.perWarp (.tret f) (fun _ _ _ _ => []) fun _ c w ms s =>
    if ms.any fun l => !s.stamped c w l then (.park .retry, s)
    else
      let s := s.forLanes ms fun l s => s.modLane c w l fun x => x.age (1 + f.h.stall.toNat)
      (.own, ((s.trapReturn c w ms).settle c).wake)

/-- The collective that Glaze runs for a context, as `bkpri` shows it (R422). -/
def State.runningColl (s : State) (ctx : Nat) : Word :=
  match (List.find? (fun (x : Nat × CollSt) => x.2.running && x.2.ctx == ctx) s.colls).map (·.2) with
  | some x => BitVec.ofNat 64 (2 ^ 63 + x.tag % 65536 * 256 + x.pri % 256)
  | none => 0

/-- Valid entries of a node's capability table, in the 8 bits that `captab` has for them (R422, R424, log entry 93). -/
def State.capCount (s : State) (ctx nid : Nat) : Nat := ((List.range 256).countP fun m => (capOf (s.capWords ctx nid m)).isSome) % 256

/-- A system register, as the lanes of a warp read it (R422). -/
def State.sysReg (s : State) (c w : Nat) (handler : Bool) (n : Nat) : Word :=
  let x := s.warp c w
  let y := s.ctxOf c
  let t := s.team c
  match n with
  | 0x0 => BitVec.ofNat 64 (w * 2 ^ 40 + (if handler then 2 ^ 32 else 0) + (Mask.ofLanes (s.liveLanes c w)).toNat)
  | 0x1 => x.wmode
  | 0x2 => BitVec.ofNat 64 x.bnd
  | 0x3 => BitVec.ofNat 64 t.tvec
  | 0x4 => BitVec.ofNat 64 (s.trecOf c w)
  | 0x5 => x.tsave
  | 0x6 => BitVec.ofNat 64 t.ctx
  | 0x7 => BitVec.ofNat 64 (s.capCount t.ctx t.nid)
  | 0x8 => BitVec.ofNat 64 t.factab
  | 0x9 => BitVec.ofNat 64 x.barto
  | 0xA => BitVec.ofNat 64 t.drainlim
  | 0xB => s.runningColl t.ctx
  | 0xC => y.collmode
  | 0xD => x.srseed
  | 0xF => BitVec.ofNat 64 y.dstale
  | _ => 0

def execRdsys (f : Imm) (s : State) : Out :=
  s.perLane (.rdsys f) fun s0 c w l first s =>
    (.done, s.put c w l first f.d (s0.sysReg c w (s0.lane c w l).handler f.imm.toNat))

/-- A value that a system register does not take (R301, R326, R422). -/
def sysBad (n : Nat) (v : Word) : Bool :=
  match n with
  | 0x1 | 0xC => decide (2 ≤ v.toNat)
  | 0x9 => Word.field v 63 40 != 0
  | _ => false

/-- Writes a system register (R422). -/
def State.setSysReg (s : State) (c w n : Nat) (v : Word) : State :=
  match n with
  | 0x1 => s.modWarp c w fun x => { x with wmode := v }
  | 0x5 => s.modWarp c w fun x => { x with tsave := v }
  | 0x9 => s.modWarp c w fun x => { x with barto := v.toNat }
  | 0xC => s.modCtx (s.team c).ctx fun x => { x with collmode := v }
  | 0xF => s.modCtx (s.team c).ctx fun x => { x with dstale := v.toNat }
  | _ => s

/-- A `wrsys` takes its value from the lowest lane of M (R421). -/
def State.wrsys (s : State) (i : Instr) (f : Imm) (bad : Word → Bool) (set : Nat → Nat → Word → State → State) : Out :=
  s.perWarp i (fun _ _ _ _ => []) fun s0 c w ms s =>
    let v := s0.op64 c w (ms.headD 0) f.a
    if bad v then (.fault 0x05 fun _ => 0, s) else (.done, set c w v s)

def execWrsys (f : Imm) (s : State) : Out :=
  s.wrsys (.wrsys f) f (sysBad f.imm.toNat) fun c w v s => s.setSysReg c w f.imm.toNat v

/-- The copy of a factor in the context's page, or nothing where it has none or the store fails (R176). -/
def State.copyFactor (s : State) (c w i lam : Nat) : State :=
  let ctx := (s.team c).ctx
  let a := (s.team c).factab
  if a = 0 then s else
  match s.enginePlace (some c) ctx true .st (a + 4 * i) 4 with
  | (s, .error _) => s
  | (s, .ok (x, leaf)) => (s.engineWrite ⟨c, w, 32⟩ (s.ownKey c) ctx x leaf .no (leBytes 4 lam) false).1

/-- A `wrsys` of `dfac` (R176). -/
def execDfacWrite (f : Imm) (s : State) : Out :=
  s.wrsys (.dfacWrite f) f (fun v => Word.field v 63 40 != 0 || !lamOk (Word.field v 31 0)) fun c w v s =>
    let (i, lam) := (Word.field v 39 32, Word.field v 31 0)
    (s.modCtx (s.team c).ctx fun x => x.setFactor i lam).copyFactor c w i (if lam = 2 ^ 31 then 0 else lam)

/-- A `wrsys` of `srseed` (R98, R352). -/
def execSrseedWrite (f : Imm) (s : State) : Out :=
  s.wrsys (.srseedWrite f) f (fun _ => false) fun c w v s =>
    let s := s.forLanes (List.range 32) fun l s => s.modLane c w l fun x => { x with gen := srSeed v l }
    (s.modWarp c w fun x => { x with srseed := v }).modTeam c fun t => { t with millSeed := some (srSeed v 32) }

-- TLB invalidation

/-- A core lies within a scope of another; a die's TLB belongs to every scope of its cores (R417). -/
def coreIn (sc c d : Nat) : Bool := inScope sc c (0x200 + d)
def dieIn (sc c d : Nat) : Bool := decide (7 ≤ sc) || d == dieOf c

/-- An entry of a TLB belongs to a page of an address, where one is given. -/
def TlbEnt.names (x : TlbEnt) (va : Option Nat) : Bool :=
  match va with | some a => x.page == a / 2 ^ pageBits x.level | none => true

/-- Drops the entries of contexts, or of their page, in the TLBs within a scope, and at a scope of the package the lines of the
RRC (R292, R417). -/
def State.tlbDrop (s : State) (sc c : Nat) (mine : Nat → Bool) (va : Option Nat) : State :=
  -- remote pages that the page's leaf has led to, whichever leaf filled the line
  let leaves := fun (a : Nat) => (s.tlb.filter fun x => mine x.ctx && x.names va).filterMap (·.peerPage) ++
    (s.ctxs.filterMap fun (k, _) => if mine k then (s.walk k a).bind fun (leaf, level, ent) => TlbEnt.peerPage ⟨0, k, level, a / 2 ^ pageBits level, leaf, ent⟩ else none) ++
    (s.rrc.filter fun x => mine x.ctx && x.page == a / 65536).map fun x => (x.ctx, x.pkg, x.rva / 65536)
  let page := fun (x : RrcLine) => match va with | some a => (leaves a).contains (x.ctx, x.pkg, x.rva / 65536) | none => true
  { s with
    tlb := s.tlb.filter fun x => !(coreIn sc c x.at_ && mine x.ctx && x.names va)
    dtlb := s.dtlb.filter fun x => !(dieIn sc c x.at_ && mine x.ctx && x.names va)
    rrc := if 7 ≤ sc then s.rrc.filter fun x => !(mine x.ctx && page x) else s.rrc }

/-- Local pages that a message or a collective has translated include the page of an address. -/
def pagesMeet (va : Option Nat) (ps : List (Nat × Nat)) : Bool :=
  match va with
  | some a => ps.any fun p => p.1 == a / 65536
  | none => true

/-- Work that a core within a scope issued for contexts before request number q may still use a dropped entry (R416). -/
def State.inFlight (s : State) (sc c : Nat) (mine : Nat → Bool) (q : Nat) (va : Option Nat) : Bool :=
  (s.reqs.any fun (_, r) => mine r.ctx && coreIn sc c r.who.core && decide (r.ord < q)) ||
  (s.mx.any fun (d, os) => coreIn sc c d && os.any fun o => mine o.ctx && decide (o.id < q)) ||
  (s.iu.any fun (d, js) => coreIn sc c d && js.any fun j => mine j.ctx && decide (j.id < q)) ||
  (s.cq.any fun (k, js) => coreIn sc c (k / 4) && js.any fun j => mine j.ctx && !j.moves.isEmpty) ||
  (s.rrcFetch.any fun (k, x) => mine x.ctx && coreIn sc c x.who.core && decide (k < q)) ||
  (s.conns.any fun (_, k) => k.out.any fun m => mine m.ctx && coreIn sc c m.who.core && !m.pages.isEmpty && pagesMeet va m.pages) ||
  (s.colls.any fun (_, x) => mine x.ctx && coreIn sc c x.who.core && pagesMeet va (x.dsts ++ x.srcs.flatten))

/-- `tlbi` (R417). Its lowest lane keeps what it waits for: twice the number before which work must end, then one more than twice
the tick that every agent must close. -/
def State.tlbi (s : State) (i : Instr) (f : Eng) (va : State → Nat → Nat → Nat → Option Nat) : Out :=
  s.perWarp i (fun _ _ _ _ => []) fun s0 c w ms s =>
    let l := ms.headD 0
    let a := va s0 c w l
    let (sc, ctx) := (f.sc.code.toNat, (s.team c).ctx)
    if a.any fun x => decide (2 ^ 52 ≤ x) then (.fault 0x05 fun _ => 0, s)
    else
      let mark := (s.lane c w l).since
      let keep := fun (s : State) (n : Nat) => s.modLane c w l fun x => { x with since := n }
      let s := if mark = 0 then s.tlbDrop sc c (· == ctx) a else s
      let q := if mark = 0 then s.seq else mark / 2
      if mark % 2 = 0 ∧ s.inFlight sc c (· == ctx) q a then (.park .retry, keep s (2 * q))
      else
        let t := if mark % 2 = 1 then mark / 2 else s.now
        if s.frontOk 7 t c then (.done, (keep s 0).putAllWit c w ms f.d (frontier sc s.now))
        else (.park .retry, keep s (2 * t + 1))

def execTlbiPg (f : Eng) (s : State) : Out := s.tlbi (.tlbiPg f) f fun s c w l => some (s.op64 c w l f.a).toNat
def execTlbiCtx (f : Eng) (s : State) : Out := s.tlbi (.tlbiCtx f) f fun _ _ _ _ => none

-- Capabilities

/-- Writes four dwords of entry n of a node's table. -/
def State.setCap (s : State) (ctx nid n : Nat) (ws : List Word) : State :=
  let k := capKey ctx nid
  let old := s.caps.get [] k
  { s with caps := s.caps.set k (old.take (4 * n) ++ ws ++ old.drop (4 * n + 4)) }

/-- A first dword with its permissions cut to a mask (R425). -/
def cutPerm (a : Word) (k : Nat) : Word := a &&& (~~~BitVec.ofNat 64 ((31 - k % 32) * 2 ^ 55))

/-- `capw` (R425). -/
def execCapw (f : Eng) (s : State) : Out :=
  s.perWarp (.capw f) (fun _ _ _ _ => []) fun s0 c w ms s =>
    let a := s0.op64 c w (ms.headD 0) f.a
    let t := s.team c
    let ws := s.capWords t.ctx t.nid (Word.field a 7 0)
    match ws, capOf ws with
    | x :: rest, some _ =>
      if Word.field a 63 13 ≠ 0 then (.fault 0x05 fun _ => 0, s)
      else (.done, s.setCap t.ctx t.nid f.c.toNat (cutPerm x (Word.field a 12 8) :: rest))
    | _, _ => (.fault 0x05 fun _ => 0, s)

/-- `capi` (R425). -/
def execCapi (f : Eng) (s : State) : Out :=
  s.perWarp (.capi f) (fun _ _ _ _ => []) fun _ c _ _ s =>
    let t := s.team c
    (.done, s.setCap t.ctx t.nid f.c.toNat [0, 0, 0, 0])

end Sys2Proof.Machine
end

