-- ==== Sys2Proof/Machine/Deadlines.lean ====
section
/-! DEFINITION. Traps that no word's own meaning takes: of a word that does not decode (R82), and of waits that `barto` ends, with
the record's list of those who are missing (R136, R153, R267, R326, R355, R381, R434). -/

namespace Sys2Proof.Machine

/-- Takes a trap of every lane of the instance for a cause: what a word that does not decode does (R82). -/
def execTrapEntry (cause detail : Nat) (s : State) : Out :=
  let (c, w) := (s.cur.core, s.cur.slot)
  let ls := if (s.warp c w).frozen then [] else s.cur.lanes.lanes.filter fun l =>
    let x := s.lane c w l
    x.live && x.park == .none && !x.held
  .next (s.trapAll ls cause detail)

/-- Lanes of one warp that stand at one PC: PC, core, slot, lanes. -/
abbrev Group := Nat × Nat × Nat × Mask

/-- Puts a number in its place in a rising list, once. -/
def insertRising (n : Nat) : List Nat → List Nat
  | [] => [n]
  | k :: t => if n < k then n :: k :: t else if n = k then k :: t else k :: insertRising n t

/-- Numbers in rising order, each once. -/
def rising (xs : List Nat) : List Nat := xs.foldr insertRising []

/-- Groups of a list of lanes, by core, slot and PC (R434). -/
def State.groupsOf (s : State) (ls : List LaneId) : List Group :=
  (rising (ls.map (·.core))).flatMap fun c =>
    let here := ls.filter fun x => x.core == c
    (rising (here.map (·.slot))).flatMap fun w =>
      let ours := (here.filter fun x => x.slot == w).map (·.lane)
      let pc := fun (l : Nat) => (s.lane c w l).pc.toNat
      (rising (ours.map pc)).map fun p => (p, c, w, Mask.ofLanes (ours.filter fun l => pc l == p))

/-- The diagnostics of a barrier timeout (R434): the kind of wait, the barrier and the first 27 groups that are missing. -/
def State.diag (s : State) (kind barn : Nat) (missing : List LaneId) : List Nat :=
  let gs := s.groupsOf missing
  let n := min gs.length 27
  (kind * 2 ^ 20 + barn * 2 ^ 16 + (if 27 < gs.length then 2 ^ 8 else 0) + n) ::
    (gs.take n).flatMap fun (p, c, w, m) => [p, c * 2 ^ 38 + w * 2 ^ 32 + m.toNat]

/-- The barrier-timeout trap of lanes that wait, group by group (R326): each with the word that it issued. -/
def State.timeoutTrap (s : State) (ls : List LaneId) (kind : Nat) (diag : List Nat) : State :=
  (s.groupsOf ls).foldl (fun s (_, c, w, m) =>
    let x := s.lane c w (m.lanes.headD 0)
    s.trapParked c w x.word x.lbp m.lanes 0x17 kind (diag := diag)) s

/-- A wait of a lane since some time has lasted for its warp's `barto` (R326). -/
def State.overdue (s : State) (c w since : Nat) : Bool := decide (since + max 1000 (s.warp c w).barto ≤ s.now)

/-- First arrival at a barrier of a core's team, or of its gang. -/
def State.firstArrival (s : State) (cores : List Nat) (key : Nat) : Option Nat :=
  (cores.filterMap fun d => ((s.team d).bars.find? key).map (·.1)).min?

/-- A barrier that has not completed in time (R326). -/
def State.barTimeout (s : State) (c w n : Nat) (gang : Bool) : State :=
  let cores := if gang then s.gangTeams c else [c]
  let key := barKey n gang
  match s.firstArrival cores key with
  | some t =>
    if !s.overdue c w t then s else
    let ls := s.liveOf cores
    let here := ls.filter fun x => (s.arrival n gang x).isSome
    let diag := s.diag (if gang then 2 else 1) n (ls.filter fun x => (s.arrival n gang x).isNone)
    let s := cores.foldl (fun s d => s.modTeam d fun t => { t with bars := t.bars.erase key }) s
    s.timeoutTrap here (if gang then 2 else 1) diag
  | none => s

/-- Members of a warp's mask that live and are not in another: those who are missing. -/
def State.missing (s : State) (c w : Nat) (members here : Mask) : List LaneId :=
  ((members &&& ~~~here).lanes.filter fun l => (s.lane c w l).live).map fun l => ⟨c, w, l⟩

/-- A cross-lane instance whose members have not all arrived in time (R136): those that are no participants go on without a
result. -/
def State.crossTimeout (s : State) (c w l : Nat) : State :=
  match (s.team c).cross.find? fun x => x.slot == w && x.since != 0 && x.arr.any fun y => y.lane == l with
  | some x =>
    if !s.overdue c w x.since then s else
    let s := s.modTeam c fun t => { t with cross := t.cross.filter fun y => !(y.slot == x.slot && y.pc == x.pc) }
    let diag := s.diag 3 0 (s.missing c w x.members (Mask.ofLanes (x.arr.map (·.lane))))
    let s := s.crossRelease c x
    s.trapParked c w x.word x.lbp (Mask.ofLanes ((x.arr.filter (·.part)).map (·.lane))).lanes 0x17 3 (diag := diag)
  | none => s

/-- A convergence register whose members have not all signed in time (R153). -/
def State.signTimeout (s : State) (c w k : Nat) : State :=
  let x := (s.team c).kregs.get {} k
  if !s.overdue c w x.since then s else s.signTrap c k 0x17 4 (diag := s.diag 4 0 (s.missing c w x.members x.signed))

/-- The waiter is a request of this lane's warp in which the lane waits. -/
def Waiter.holds (x : Waiter) (c w team l : Nat) : Bool :=
  match x with
  | .lanes c' w' k m _ => c' == c && w' == w && k == team && m.has l
  | _ => false

/-- The semaphore request in which a lane waits. -/
def State.semWaiting (s : State) (c w l : Nat) : Option (SemId × SemWait) :=
  let team := s.ownKey c
  let find := fun (q : Sem) => List.find? (fun (x : SemWait) => x.who.holds c w team l) q.wait
  ((s.team c).sems.findSome? fun (j, q) => (find q).map fun x => (SemId.core c j, x)) <|>
    (s.psems.findSome? fun (j, q) => (find q).map fun x => (SemId.pkg j, x))

/-- A semaphore request that has waited too long leaves the list, and its lanes trap (R267). -/
def State.semTimeout (s : State) (c w l : Nat) : State :=
  let team := s.ownKey c
  match s.semWaiting c w l with
  | some (id, x) =>
    if !s.overdue c w x.since then s else
    let q := s.sem id
    let s := s.setSem id { q with wait := q.wait.filter fun y => !y.who.holds c w team l }
    let ls := match x.who with | .lanes _ _ _ m _ => m.lanes | _ => []
    (s.timeoutTrap (ls.map fun l => ⟨c, w, l⟩) 5 (s.diag 5 0 [])).semServe id
  | none => s

/-- The request at an architected queue is a lane's. -/
def AqWait.holds (x : AqWait) (w l : Nat) : Bool := x.slot == w && x.lanes.has l

/-- The request in which a lane waits at an architected queue. -/
def State.aqWaiting (s : State) (c w l : Nat) : Option AqWait := (s.team c).aqWait.findSome? fun (_, q) => List.find? (fun (x : AqWait) => x.holds w l) q

/-- Lanes parked at an architected queue too long (R355). -/
def State.aqTimeout (s : State) (c w l : Nat) : Option State :=
  let t := s.team c
  let mine := fun (x : AqWait) => x.holds w l
  match s.aqWaiting c w l with
  | some x =>
    if !s.overdue c w x.since then some s else
    let s := s.setTeam c { t with aqWait := t.aqWait.map fun (j, q) => (j, List.filter (fun (y : AqWait) => !mine y) q) }
    some (s.timeoutTrap (x.lanes.lanes.map fun l => ⟨c, w, l⟩) 6 (s.diag 6 0 []))
  | none => none

/-- The request in which a lane waits at Palette. -/
def State.palWaiting (s : State) (c w l : Nat) : Option PalWait :=
  let p := s.pal.get {} (s.team c).ctx
  let team := s.ownKey c
  (p.getWait ++ p.takeWait.flatMap (·.2)).find? fun x => x.who == ⟨c, w, l⟩ && x.team == team

/-- Lanes parked at Palette too long, with those that came with them (R381). -/
def State.palTimeout (s : State) (c w l : Nat) : State :=
  let ctx := (s.team c).ctx
  let p := s.pal.get {} ctx
  let all := p.getWait ++ p.takeWait.flatMap (·.2)
  let team := s.ownKey c
  match s.palWaiting c w l with
  | some x =>
    if !s.overdue c w x.since then s else
    let same := fun (y : PalWait) => y.who.core == c && y.who.slot == w && y.team == team && y.since == x.since &&
      (s.lane c w y.who.lane).pc == (s.lane c w l).pc
    let ls := (all.filter same).map (·.who)
    let s := { s with pal := s.pal.set ctx { p with
      getWait := p.getWait.filter fun y => !same y
      takeWait := p.takeWait.map fun (j, q) => (j, List.filter (fun (y : PalWait) => !same y) q) } }
    s.timeoutTrap ls 6 (s.diag 6 0 [])
  | none => s

/-- When a lane's wait at a semaphore, a queue or Palette began. -/
def State.waitSince (s : State) (c w l : Nat) : Option Nat :=
  match (s.lane c w l).park with
  | .sem => (s.semWaiting c w l).map (·.2.since)
  | .queue => (s.aqWaiting c w l).map (·.since) <|> (s.palWaiting c w l).map (·.since)
  | _ => none

/-- Teams swapped out of a core in which `barto` has passed for the lane's wait ask to be queued again: the trap is taken once they
are back (R262). -/
def State.requeueOverdue (s : State) (c w l : Nat) : State :=
  s.saved.foldl (fun (s : State) x =>
    if x.core ≠ c ∨ !x.swapped then s else
    let t := (s.setImage c x.img).setTeam c x.team
    if (t.lane c w l).live && (t.waitSince c w l).any (t.overdue c w) then s.requeueTeam c x.team.key else s) s

/-- `barto` has passed for the wait of a lane: what it waits for is over, and every lane that waited with it traps (R326). -/
def execBarrierTimeout (core slot lane : Nat) (s : State) : Out :=
  let s := s.requeueOverdue core slot lane
  let x := s.lane core slot lane
  if !x.live then .next s else
  match x.park with
  | .bar n gang _ => .next (s.barTimeout core slot n gang).wake
  | .cross => .next (s.crossTimeout core slot lane).wake
  | .sign k => .next (s.signTimeout core slot k).wake
  | .sem => .next (s.semTimeout core slot lane).wake
  | .queue => .next ((s.aqTimeout core slot lane).getD (s.palTimeout core slot lane)).wake
  | _ => .next s

end Sys2Proof.Machine
end

