-- ==== Sys2Proof/Machine/Package.lean ====
section
/-! DEFINITION. Steps of the package that no lane's word starts: closed ticks (R224, R225), write-back (R205-R209), messages to the
service cores (R343), shootdown (R418), the host (R420), escalation (R438), and registers of the Burzon die (R407, R438, R445). -/

namespace Sys2Proof.Machine

-- Agents

/-- Contexts with a `stepadv` under way. -/
def State.stepping (s : State) : List Nat := (s.ctxs.filter fun (_, x) => !x.advs.isEmpty).map (·.1)

/-- An agent closes its ticks up to this moment: L1 copies of its lines that its writes have made stale are gone (R204, R224), and it does
its part for the `stepadv` of each context (R184). -/
def State.closeAt (s : State) (a : Nat) : State :=
  let s := s.stepping.foldl (fun (s : State) x => s.stepPart x a) s
  { s with ct := s.ct.set a s.now, l1 := s.l1.filter fun (k, y) => !(y.stale && haOf (k % 2 ^ 40 * 128) == a) }

/-- What has waited for writes to close goes on: messages (R279, R280), collectives (R300) and samples (R375). -/
def State.settleClosed (s : State) : State := s.closeConns.closeColls.closeJoins

/-- Every agent does so. -/
def State.closeAll (s : State) : State :=
  let s := s.stepping.foldl State.stepParts s
  { s with ctBase := s.now, ct := [], l1 := s.l1.filter fun (_, y) => !y.stale }

/-- An agent, or every agent, publishes its closed tick, 64 ns after its last (R224); waits are looked at again (R231). -/
def execClosedTickPublish (agent : Option Nat) (s : State) : Out :=
  match agent with
  | some a => if s.ct.get s.ctBase a + 64 ≤ s.now ∧ a < 0x802 then .next ((s.closeAt a).settleClosed.recheck).wake else .next s
  | none =>
    if s.ctBase + 64 ≤ s.now ∧ s.ct.all (fun x => decide (x.2 + 64 ≤ s.now)) then .next (s.closeAll.settleClosed.recheck).wake
    else .next s

/-- An access that its agent has not closed within 1 ms is reported to the service pair of the agent's die; the access stays, and is tried
again (R225). -/
def execAccessCloseTimeout (k : Nat) (s : State) : Out :=
  .next (match s.reqs.find? k with
    | some r => if r.since + 1000000 ≤ s.now then s.pairReport (s.dieOfAgent (s.place r.loc).agent) else s
    | none => s)

/-- Tolerance of a line, from the leaf through which its page was last reached (R208). -/
def State.lineTol (s : State) (line : Nat) : Option Nat :=
  (s.attrs.find? (line / 512)).bind fun a => if a.testBit 12 then some (a / 2 ^ 16 % 256) else none

/-- A dirty line is written back: it takes a representative's values, where its page is TOL and one is near, and its superblock
may be kept compressed, where its page is CMP (R205-R209). -/
def execL2Writeback (line : Nat) (rep : Option Nat) (compress : Bool) (s : State) : Out :=
  if !s.dirty.get false line then .next s else
  let tol := s.lineTol line
  let near := match tol with | some f => s.repsNear f line | none => []
  let s := s.writeBack line tol (rep.bind fun j => near[j]?)
  let cmp := ((s.attrs.find? (line / 512)).map fun a => a.testBit 11).getD false
  .next (if compress && cmp && (s.registered (line * 128)).isNone then { s with comp := s.comp.set (line / 4) true } else s)

-- Messages to the service cores

/-- An interrupt becomes pending in a file, once (R343). -/
def pendIn (t : Tab (List Nat)) (page id : Nat) : Tab (List Nat) :=
  let old := t.get [] page
  if old.contains id then t else t.set page (old ++ [id])

/-- A message is delivered to both cores of the pair whose page it names (R343). -/
def execImsicMessage (k : Nat) (s : State) : Out :=
  match s.imsg.find? k with
  | none => .next s
  | some (page, id) =>
    let s := { s with imsg := s.imsg.erase k }
    if id = 0 ∨ 2048 ≤ id ∨ 32 ≤ page then .next s
    else
      let first := page / 4 * 4 + page % 2
      .next { s with imsic := pendIn (pendIn s.imsic first id) (first + 2) id }

-- Shootdown

/-- The contexts that a request names, and its page (R418). -/
def shootMine (cmd : Word) (ctx : Nat) : Bool := Word.field cmd 63 62 == 2 || Word.field cmd 59 48 == ctx
def shootPage (cmd va : Word) : Option Nat := if Word.field cmd 63 62 = 0 then some va.toNat else none

/-- The first request comes into service: its entries are dropped, and a context's new table comes into use (R407, R418). -/
def State.shootBegin (s : State) : State :=
  match s.shootQ with
  | [] => s
  | (cmd, va) :: _ =>
    let s := s.tlbDrop 7 0 (shootMine cmd) (shootPage cmd va)
    let s := if Word.field cmd 63 62 = 0 then s else
      { s with ctxs := s.ctxs.map fun (k, x) => (k, if shootMine cmd k then { x with pgroot := x.pgNew } else x) }
    { s with shootMark := 2 * s.seq }

/-- A request reaches the port (R418). -/
def State.shootAsk (s : State) (op : Nat) (cmd : Word) : State :=
  if Word.field cmd 63 62 ≠ op ∨ Word.field cmd 61 60 ≠ 0 ∨ Word.field cmd 47 0 ≠ 0 then s
  else
    let t := { s with shootQ := s.shootQ ++ [(cmd, s.shootVa)] }
    (if s.shootQ.isEmpty then t.shootBegin else t).wake

def execShootdownPage (cmd : Word) (s : State) : Out := .next (s.shootAsk 0 cmd)
def execShootdownContext (cmd : Word) (s : State) : Out := .next (s.shootAsk 1 cmd)
def execShootdownAll (cmd : Word) (s : State) : Out := .next (s.shootAsk 2 cmd)

/-- The request in service completes once every access by a dropped entry has closed (R416, R418): first such work must end, then
every agent must close the tick at which it had. -/
def execShootdownComplete (s : State) : Out :=
  match s.shootQ with
  | [] => .next s
  | (cmd, va) :: rest =>
    let m := s.shootMark
    if m % 2 = 0 ∧ s.inFlight 7 0 (shootMine cmd) (m / 2) (shootPage cmd va) then .next s
    else
      let t := if m % 2 = 1 then m / 2 else s.now
      if !s.frontOk 7 t 0 then .next { s with shootMark := 2 * t + 1 }
      else
        let s := { s with shootQ := rest, shootCount := s.shootCount + 1 }
        let id := Word.field s.shootId 10 0
        let s := if id = 0 then s else { s.sendMsi (Config.portMessage s.free).1 id with free := s.free + 1 }
        .next s.shootBegin.wake

-- The host

/-- An entry of the inbound map serves an offset (R420). -/
def inbServes (ws : List Word) (off : Nat) : Bool :=
  Word.bit (ws.getD 0 0) 63 && decide (Word.field (ws.getD 1 0) 39 0 ≤ off) &&
    decide (off < Word.field (ws.getD 1 0) 39 0 + Word.field (ws.getD 2 0) 40 0)

/-- The one entry that serves a request, if it allows it (bit 62 reads, 61 writes, 60 atomics): context and virtual address. -/
def State.inbound (s : State) (off n allow : Nat) : Option (Nat × Nat) :=
  match s.inb.filter fun (_, ws) => inbServes ws off with
  | [(_, ws)] =>
    if Word.bit (ws.getD 0 0) allow ∧ inbServes ws (off + n - 1) then
      some (Word.field (ws.getD 0 0) 59 48, Word.field (ws.getD 3 0) 51 0 + (off - Word.field (ws.getD 1 0) 39 0))
    else none
  | _ => none

/-- Places of the pieces of a host request, each checked as an access of its own in the mode of a chain (R413, R420). -/
def State.hostPlaces (s : State) (ctx : Nat) (write : Bool) : List (Nat × Nat) → State × Option (List (Loc × Word × Nat))
  | [] => (s, some [])
  | (a, n) :: t =>
    match s.enginePlace none ctx true (if write then .st else .ld n) a n with
    | (s, .error _) => (s, none)
    | (s, .ok (x, leaf)) =>
      match s.hostPlaces ctx write t with
      | (s, some xs) => (s, some ((x, leaf, n) :: xs))
      | r => r

/-- A refused host request is counted; one that is not posted completes with Unsupported Request (R420). -/
def State.hostRefuse (s : State) (posted : Bool) : State :=
  let s := s.count 0x0A29 1
  if posted then s else { s with hostOut := s.hostOut ++ [none] }

/-- The host's posted writes have closed (R420). -/
def State.hostClosed (s : State) : Bool := match s.hostWrote with | some t => s.frontOk 7 t 0 | none => true

def execHostRead (off size : Nat) (s : State) : Out :=
  if !s.hostClosed then .next s else
  match s.inbound off size 62 with
  | none => .next (s.hostRefuse false)
  | some (ctx, va) =>
    match s.hostPlaces ctx false (rowPieces va size) with
    | (t, none) => .next (t.hostRefuse false)
    | (t, some xs) =>
      if !(xs.all fun x => t.engineOpen ctx x.1) then .next s
      else
        let (bs, _, u) := t.readPieces ctx xs
        .next { u with hostOut := u.hostOut ++ [some bs] }

def execHostPostedWrite (off : Nat) (data : List Byte) (s : State) : Out :=
  match s.inbound off data.length 61 with
  | none => .next (s.hostRefuse true)
  | some (ctx, va) =>
    match s.hostPlaces ctx true (rowPieces va data.length) with
    | (t, none) => .next (t.hostRefuse true)
    | (t, some xs) =>
      if !(xs.all fun x => t.engineOpen ctx x.1) then .next s
      else
        let u := (xs.foldl (fun (acc : State × List Byte) (x, leaf, n) =>
          ((acc.1.engineWrite ⟨0, 0, 32⟩ 0 ctx x leaf .no (acc.2.take n) false).1, acc.2.drop n)) (t, data)).1
        .next { u with hostWrote := some s.now }.wake

/-- The type at which a host AtomicOp is performed (R255, R420): FetchAdd and Swap on 4 and 8 bytes, CAS on 16 too. -/
def hostType (op size : Nat) : Option Ty :=
  if op ≠ 0 ∧ op ≠ 7 ∧ op ≠ 8 then none
  else if size = 4 then some .n32 else if size = 8 then some .n64 else if size = 16 ∧ op = 8 then some .b128 else none

def execHostAtomicop (off size : Nat) (op : BitVec 4) (b c : BitVec 128) (s : State) : Out :=
  match s.inbound off size 60, hostType op.toNat size with
  | some (ctx, va), some t =>
    if va % size ≠ 0 then .next (s.hostRefuse false) else
    match s.enginePlace none ctx true .atomic va size with
    | (u, .error _) => .next (u.hostRefuse false)
    | (u, .ok (.host _, _)) | (u, .ok (.peer .., _)) => .next (u.hostRefuse false)
    | (u, .ok (x, leaf)) =>
      let (bs, bad) := u.valueAt ctx x size
      let write := fun (u : State) (v : Nat) => (u.engineWrite ⟨0, 0, 32⟩ 0 ctx x leaf .no (leBytes size v) false).1
      let u := if bad then u.count (0x10000 + (u.place x).agent) 1 else match atomNew op.toNat t t.width (leNat bs) (b.toNat % 2 ^ t.width) (c.toNat % 2 ^ t.width) with
        | some v => write u v
        | none => u
      .next { u with hostOut := u.hostOut ++ [some bs] }.wake
  | _, _ => .next (s.hostRefuse false)

-- Escalation

/-- ECTL 1 resumes the frozen lanes (R438). -/
def execEscalationResume (core slot : Nat) (s : State) : Out := .next (s.escResume core slot)

/-- ECTL 2 ends the frozen lanes at once (R438). -/
def execEscalationEndFrozen (core slot : Nat) (s : State) : Out := .next (s.escEndFrozen core slot)

/-- ECTL 3 ends every lane of the team (R438). -/
def execEscalationEndTeam (core slot : Nat) (s : State) : Out := .next (s.escEndTeam core slot)

/-- The service OS ends a resident team (R328). -/
def execServiceOsEndsTeam (core : Nat) (s : State) : Out :=
  .next (if (s.teams.find? core).isSome then (s.endTeam core).wake else s)

-- Registers of the Burzon die

/-- A field of a context block (R407). A context that becomes live starts with fresh state (R175, R422); of one that ceases to exist, no
queued step is adopted (R184). -/
def CtxSt.write (x : CtxSt) (o : Nat) (v : Word) : CtxSt :=
  match o with
  | 0 =>
    let live := Word.bit v 63
    let x := if live && !x.live then { x with step := 0, lam := [], pow := [], dstale := 0, collmode := 0 } else x
    let x := if live then x else { x with advs := [], next := none, swept := [], adopted := [] }
    { x with live := live, cmin := Word.field v 61 60 }
  | 8 => { x with pgNew := Word.field v 39 12 * 4096 }
  | 16 => { x with captab := v.toNat / 8192 * 8192 }
  | 24 => { x with tvec := v.toNat }
  | 32 => { x with trbase := v.toNat }
  | 40 => { x with factab := v.toNat }
  | 48 => { x with drainlim := max 10000 (Word.field v 39 0) }
  | _ => x

/-- A field of a chain's block, while the chain is disabled (R340). -/
def Chain.write (x : Chain) (o : Nat) (v : Word) : Chain :=
  if Word.bit x.ctl 63 then x else
  match o with
  | 0 => { x with seg := v.toNat }
  | 24 => { x with seqa := v.toNat }
  | 32 => { x with msia := v.toNat }
  | 40 => { x with msid := v }
  | 48 => { x with erra := v.toNat }
  | _ => x

/-- A field of a Palette block (R378); a new size sets the block up afresh. -/
def PalCtx.write (p : PalCtx) (o : Nat) (v : Word) : PalCtx :=
  match o with
  | 0 => { p with base := v.toNat }
  | 8 => { p with count := min v.toNat (2 ^ 24), used := [], queues := [], broken := false, reserve := List.range (min p.resv (min v.toNat (2 ^ 24))) }
  | 16 =>
    let free := (List.range p.count).filter fun i => !p.used.contains i && !p.reserve.contains i
    { p with resv := v.toNat, reserve := (p.reserve ++ free).take (min v.toNat p.count) }
  | 24 => { p with qbase := v.toNat }
  | _ => p

/-- Writes 8 bytes of a key block (R427). -/
def KeyBlk.write (k : KeyBlk) (o : Nat) (v : Word) : KeyBlk :=
  if 32 ≤ o ∧ o < 104 then
    { k with bytes := (List.range 8).foldl (fun t j => t.set (o + j) (BitVec.ofNat 8 (getE v 8 j))) k.bytes }
  else k

/-- A store of the service OS to a register of the Burzon range, by its offset there; what has no register keeps nothing. -/
def State.burzonReg (s : State) (o : Nat) (v : Word) : State :=
  if 0x100000 ≤ o ∧ o < 0x120000 then
    let j := (o - 0x100000) / 32
    match o % 32 with
    | 0 => s.semSet (.pkg j) v.toNat
    | 16 => s.semInc (.pkg j) v.toNat (frontier 7 s.now)
    -- the service OS assigns the semaphore to a context (R263, log entry 28)
    | 24 => { s with psemOwner := if Word.bit v 63 then s.psemOwner.set j (Word.field v 11 0) else s.psemOwner.erase j }
    | _ => s
  else if 0x200000 ≤ o ∧ o < 0x204000 then
    let k := (o - 0x200000) / 64
    { s with chains := s.chains.set k ((s.chains.get {} k).write (o % 64) v) }
  else if 0x300000 ≤ o ∧ o < 0x340000 then s.modPal ((o - 0x300000) / 64) fun p => p.write (o % 64) v
  else if 0x400000 ≤ o ∧ o < 0x480000 then s.modCtx ((o - 0x400000) / 128) fun x => x.write (o % 128) v
  else if o = 0x500008 then { s with shootVa := v }
  else if o = 0x500018 then { s with shootId := v }
  else if 0x700000 ≤ o ∧ o < 0x700200 ∧ o % 64 = 0 then { s with escid := s.escid.set ((o - 0x700000) / 64) (v &&& 0x7FF) }
  else if o = 0xA00008 then { s with hbeat := v.toNat }
  else if o = 0xA00010 then { s with fence := v.toNat }
  else if o = 0xA00018 then { s with jbase := v }
  else if o = 0xA00020 then { s with jhead := v }
  else if 0xB00000 ≤ o ∧ o < 0xB02000 then
    let i := (o - 0xB00000) / 32
    let old := s.inb.get [0, 0, 0, 0] i
    { s with inb := s.inb.set i (old.set (o % 32 / 8) v) }
  -- the module's power limit in watts, 2.0 to 5.2 kW (R28, log entry 79)
  else if o = 0xC00000 then (if 2000 ≤ v.toNat ∧ v.toNat ≤ 5200 then { s with powerLimit := v.toNat } else s)
  -- firmware raises the minimum version of a kind to that of its images (R428, log entry 79)
  else if o = 0xC00008 then { s with minVer := s.images.foldl (fun t x =>
      if x.1 / 8 = v.toNat ∧ t.get 0 v.toNat < x.2.1 then t.set v.toNat x.2.1 else t) s.minVer }
  else if 0x10000000 ≤ o ∧ o < 0x11000000 then s.modKey ((o - 0x10000000) / 256) fun k => k.write (o % 256) v
  else if 0x11000000 ≤ o ∧ o < 0x11400000 then
    let n := (o - 0x11000000) / 64
    if (s.conn n).opened then s else
    match o % 64 with
    | 0 => if Word.bit v 63 then s else s.modConn n fun k => { k with cctl := cctlHeld v }
    | 8 => s.modConn n fun k => { k with paddr := v }
    | 16 => s.modConn n fun k => { k with ccfg := v }
    | _ => s
  else s

/-- A service pair's store of 8 bytes to a physical address: HBM, a core's window, whose accesses succeed whichever team is there
(R419), or the Burzon range. A semaphore of a core without a team keeps nothing, since a team starts with them clear (R408). -/
def State.serviceWrite (s : State) (pa : Nat) (v : Word) : State :=
  let data := leBytes 8 v.toNat
  if pa < 2 ^ 40 then (s.breakQueues [.hbm pa]).agentWrite (s.place (.hbm pa)) data none none
  else if 0xF80000000000 ≤ pa then s.burzonReg (pa - 0xF80000000000) v
  else match if 0xF00000000000 ≤ pa then windowLoc (pa - 0xF00000000000) false .st 8 else none with
    | some (.sync c o) =>
      if (s.teams.find? c).isNone then s
      else if o < 0x400 then s.semSet (.core c (o / 16)) v.toNat else s.semInc (.core c ((o - 0x400) / 8)) v.toNat (frontier 7 s.now)
    | some (.control c o) => if 0x8000 ≤ o ∧ o < 0x8000 + 64 * 48 ∧ o % 64 = 8 then s.ectl c ((o - 0x8000) / 64) v.toNat else s
    | some x => if !s.absent.get false (x.agent - 0x200) then s.agentWrite x data none none else s
    | none => s

/-- The term of LEAD (R445). -/
def State.term (s : State) : Nat := Word.field s.lead 63 32

def State.modPair (s : State) (d : Nat) (f : PairSt → PairSt) : State := { s with pairs := s.pairs.set d (f (s.pairs.get {} d)) }

/-- A service pair's write to a register or to memory; one whose term is below FENCE is refused and counted, and the pair reads LEAD (R445). -/
def execRegisterWrite (die addr : Nat) (val : Word) (s : State) : Out :=
  if (s.pairs.get {} die).term < s.fence then .next ((s.count 0x0A26 1).modPair die fun x => { x with term := s.term })
  else if addr % 8 ≠ 0 then .next s
  else .next (s.serviceWrite addr val).wake

end Sys2Proof.Machine
end

