-- ==== Sys2Proof/Machine/Recovery.lean ====
section
/-! DEFINITION. Module reset, leadership, service pairs, attestation, sparing and lifetime records (R14, R15, R28-R30, R428, R429,
R443-R448). -/

namespace Sys2Proof.Machine

-- Module reset

/-- Images that verify and are not too old, by 8 times the kind plus the die (R428). -/
def State.imagesRun (s : State) (images : List (Nat × Nat × Bool)) : List (Nat × Nat × Bool) :=
  images.filter fun x => x.2.2 && decide (s.minVer.get 0 (x.1 / 8) ≤ x.2.1)

/-- A die's service pair works: it has an image, and every image of it runs (R428, R446). -/
def pairWorks (all ok : List (Nat × Nat × Bool)) (d : Nat) : Bool :=
  (all.any fun x => x.1 % 8 == d) && all.all fun x => x.1 % 8 != d || ok.contains x

/-- Cores of the dies with fewer than 192 working physical cores (R15): of those that left the factory working, all 200 on a die that is
not listed, the ones retired in the field are gone (R14). -/
def absentCores (spares : List Nat) (lost : Tab Nat) : Tab Bool :=
  (List.range 8).flatMap fun d => if spares.getD d 200 - lost.get 0 d < 192 then (List.range 192).map fun j => (192 * d + j, true) else []

/-- Module reset (R14, R15, R446): the sparing map is fixed, what cannot be reset stays, and the fault output is asserted if no pair
works. `spares` is the number of each die's physical cores that its fuses give as working; an image is 8 times its kind plus its die, its version, and
whether its signatures verify. -/
def execModuleReset (spares : List Nat) (images : List (Nat × Nat × Bool)) (s : State) : Out :=
  let ok := s.imagesRun images
  let pairs : Tab PairSt := (List.range 8).map fun d => (d, { working := pairWorks images ok d })
  let t : State := { State.reset with
    absent := absentCores spares s.lost
    lost := s.lost
    nv := s.nv, shutdowns := s.shutdowns, minVer := s.minVer, revoked := s.revoked, lanesUp := s.lanesUp
    images := ok, pairs := pairs, faultOut := pairs.all fun x => !x.2.working }
  .next (t.count 0x0A28 (images.length - ok.length))

-- Leadership (R445, R446)

/-- LEAD with a term and a leader. -/
def leadWord (term die : Nat) : Word := BitVec.ofNat 64 (term * 2 ^ 32 + 8 + die % 8)

/-- A pair can lead. -/
def State.pairUp (s : State) (d : Nat) : Bool := let x := s.pairs.get {} d; x.working && !x.failed

/-- A pair holds a new term: FENCE follows at every agent (R445). -/
def State.takeLead (s : State) (term die : Nat) : State :=
  ({ s with lead := leadWord term die, fence := term }.modPair die fun x => { x with term := term }).wake

/-- After 100 µs per die number, a pair claims if no pair leads; otherwise it follows (R446). -/
def execLeaderBootClaim (die : Nat) (s : State) : Out :=
  if 8 ≤ die ∨ !s.pairUp die ∨ s.now < 100000 * die then .next s
  else if s.lead = 0 then .next (s.takeLead 1 die)
  else .next (s.modPair die fun x => { x with term := s.term })

/-- Dies whose pair can claim, in ring order after the leader (R445). -/
def State.ring (s : State) : List Nat :=
  ((List.range 7).map fun j => (s.lead.toNat % 8 + j + 1) % 8).filter fun d => s.pairUp d && !s.absent.get false (192 * d)

/-- A pair claims leadership once HBEAT is too old for its distance; one whose view of LEAD is old reads it and follows (R445). -/
def execLeaderTakeoverClaim (die : Nat) (s : State) : Out :=
  if 8 ≤ die ∨ !s.pairUp die then .next s
  else if (s.pairs.get {} die).term < s.term then .next (s.modPair die fun x => { x with term := s.term })
  else match s.ring.findIdx? (· == die) with
    | some j =>
      if Word.bit s.lead 3 ∧ s.hbeat ≠ 0 ∧ s.hbeat + 10000000 + j * 2000000 ≤ s.now then
        .next ((s.takeLead (s.term + 1) die).count (0x0A00 + 4 * die + 3) 1)
      else .next s
    | none => .next s

/-- A pair commits a checkpoint (R444). -/
def execLockstepCheckpoint (die : Nat) (s : State) : Out :=
  .next (if die < 8 then s.modPair die fun x => { x with diverged := 0 } else s)

/-- A pair diverges: it reruns from its checkpoint, and a second time in one interval it fails (R444), which is reported (R443). -/
def execLockstepDivergence (die : Nat) (s : State) : Out :=
  if 8 ≤ die ∨ !s.pairUp die then .next s
  else
    let n := 0x0A00 + 4 * die
    let s := s.count n 1
    if (s.pairs.get {} die).diverged = 0 then .next ((s.count (n + 1) 1).modPair die fun x => { x with diverged := 1 })
    else .next (((s.count (n + 2) 1).modPair die fun x => { x with failed := true, diverged := 2 }).portReport)

/-- Firmware answers a nonce with a report: the counts of divergences and reruns, the minimum versions, the revoked key slots, and
signatures (R429, log entry 17). -/
def execAttestationReport (nonce : Nat) (s : State) : Out :=
  let sum := fun (o : Nat) => ((List.range 8).map fun d => s.nv.get 0 (0x0A00 + 4 * d + o)).sum
  let slots := (List.range 4).map fun j => if s.revoked.get false j then 1 else 0
  .next { s with reports := s.reports ++ [[nonce, sum 0, sum 1] ++ s.minVer.map (·.2) ++ slots ++ [Config.signature s.free]], free := s.free + 1 }

-- Power and temperature

/-- Clock steps of the cores and the HAs (R23, R28). -/
def execThrottle (coreStep haStep : Nat) (s : State) : Out := .next { s with coreStep := coreStep, haStep := haStep }

/-- A die at its shutdown threshold stops the module, which records it (R29). -/
def execThermalShutdown (die : Nat) (s : State) : Out := .next { s with stopped := true, shutdowns := s.shutdowns ++ [die] }

/-- A sample of a die's temperature, in °C (R448). -/
def execThermalSample (die temp : Nat) (s : State) : Out :=
  .next (if die < 8 then s.count (0x1000 + 64 * die + min 63 (temp / 2)) 1 else s)

/-- A window's lowest core supply, in mV below nominal (R448). -/
def execDroopWindow (die mv : Nat) (s : State) : Out :=
  .next (if die < 8 then s.count (0x1200 + 64 * die + min 63 (mv / 5)) 1 else s)

-- Errors and spares

/-- A correctable error is corrected and counted by its structure (R443, R448). -/
def execCorrectedError (die struct : Nat) (s : State) : Out :=
  .next (if die < 8 ∧ struct < 256 then s.count (256 * die + struct) 1 else s)

/-- Uncorrectable data marks its granule, in memory, counted by its channel, or in a scratchpad or register pool, at its place in the core's
window (R211, R443, R448). -/
def execPoisonCreate (addr : Nat) (s : State) : Out :=
  .next (if addr < 2 ^ 40 then (s.setBad true (s.place (.hbm addr))).count (0x0800 + haOf addr) 1
    else match windowLoc (addr - 0xF00000000000) false (.ld 8) 8 with
      | some x => if addr < 0xF00000000000 then s else s.setBad true x
      | none => s)

/-- A core fails: it is retired, and the node that holds it is executed again elsewhere (R447). -/
def execCoreFieldFailure (core : Nat) (s : State) : Out :=
  if 1536 ≤ core ∨ s.retired.contains core then .next s
  else
    let t := { s with retired := s.retired ++ [core], lost := s.lost.set (dieOf core) (s.lost.get 0 (dieOf core) + 1) }
    let held := (s.teams.find? core).map (·.key)
    let saved := (s.saved.find? fun x => x.core == core).map (·.team.key)
    .next ([held, saved].foldl (fun (s : State) k => match k with | some k => s.reExecute k | none => s) t).wake

/-- A failed HBM channel is reported; its spare takes over at the next reset (R447). -/
def execHbmChannelFailure (agent : Nat) (s : State) : Out :=
  .next (if agent < 512 ∧ !s.chanFail.contains agent then { s with chanFail := s.chanFail ++ [agent] }.portReport else s)

/-- A port retrains on its seven good lanes (R447). -/
def execLinkLaneFailure (port : Nat) (s : State) : Out :=
  .next (if port < 8 then { s with lanesUp := s.lanesUp.set port 7 } else s)

end Sys2Proof.Machine
end

