-- ==== Sys2Proof/Machine/Front.lean ====
section
/-! DEFINITION. The front of a core: lane groups, instruction fetch, loop buffers, and which instances a cycle of a sub-core issues
(R310-R319). -/

namespace Sys2Proof.Machine

-- Fetch

/-- The instruction cache of a core holds a line of its team's context (R409). -/
def State.icHas (s : State) (c line : Nat) : Bool :=
  match s.ic.find? (c * 2 ^ 40 + line) with
  | some x => x.ctx == (s.team c).ctx
  | none => false

/-- The word at a place of a line in the cache, or one that a fixed choice may still issue (R318). -/
def State.fetched (s : State) (c w : Nat) (pc : Word) (pa : Nat) : Option Word :=
  if s.icHas c (pa / 128) then some (s.wordAt c pa)
  else ((s.subs.get {} (c * 4 + w / 12)).kept.find? fun (v, p, _) => v == w && p == pc).map (·.2.2.1)

/-- Lines of an instruction cache: 64 KiB (R16). -/
def icLines : Nat := 512

/-- Makes room for a line in a core's instruction cache, where it is full (R16). -/
def State.icRoom (s : State) (c line : Nat) : State :=
  let own := s.ic.filter fun (k, _) => k / 2 ^ 40 == c
  if own.length < icLines || own.any (fun (k, _) => k % 2 ^ 40 == line) then s
  else match own[Config.victim s.free % own.length]? with
    | some (k, _) => { s with ic := s.ic.erase k, free := s.free + 1 }
    | none => s

/-- A line that a lane waits for arrives: the lanes of the core that stand at it go on, and so do those whose address translates no
longer (R310, R315). -/
def execInstructionFetchReturn (core line : Nat) (s : State) : Out :=
  let wants := fun (k : Nat) (x : LaneSt) => k / 2048 == core && x.park == .fetch &&
    match (s.fetchPlace core (k % 2048 / 32) (k % 32) x.pc).2 with | some pa => pa / 128 == line | none => true
  if !(s.lanes.any fun (k, x) => wants k x) then .next s
  else
    let y : IcLine := { ctx := (s.team core).ctx, bytes := s.bytes (s.place (.hbm (line * 128))) 128 }
    .next { s.icRoom core line with
      ic := (s.icRoom core line).ic.set (core * 2 ^ 40 + line) y
      lanes := s.lanes.map fun (k, x) => (k, if wants k x then { x with park := .none } else x) }

-- Loop buffers (R315)

/-- Key of a lane position's loop buffer. -/
def lbKey (c sub l : Nat) : Nat := c * 128 + sub * 32 + l

/-- The word that a lane's loop buffer holds at a PC of its warp. -/
def State.lbWord (s : State) (c w l : Nat) (pc : Word) : Option Word :=
  match s.lb.find? (lbKey c (w / 12) l) with
  | some x => if x.slot = w ∧ x.base ≤ pc.toNat ∧ pc.toNat % 8 = 0 then x.words[(pc.toNat - x.base) / 8]? else none
  | none => none

/-- Words of a window, up to the first that does not translate for the warp's team. -/
def State.windowWords (s : State) (c w l base : Nat) : List Word :=
  ((List.range 48).map fun j => (s.fetchPlace c w l (BitVec.ofNat 64 (base + 8 * j))).2.map (s.wordAt c)).takeWhile (·.isSome) |>.filterMap id

/-- A fill is started for a group of which a lane missed, unless one is on its way for each that did; it replaces the window of every
lane of the group. -/
def State.startFill (s : State) (c w : Nat) (ls : List Nat) (pc : Word) : State :=
  let base := pc.toNat / 64 * 64
  let miss := ls.filter fun l => (s.lbWord c w l pc).isNone &&
    !s.fills.any fun x => x.core == c && x.slot == w && x.base == base && x.lanes.has l
  if miss.isEmpty then s
  else { s with fills := s.fills ++ [{ core := c, sub := w / 12, slot := w, lanes := Mask.ofLanes ls, base := base }] }

/-- The oldest fill of a sub-core completes: the window of each lane of the group is replaced. -/
def execLoopBufferFill (core sub : Nat) (s : State) : Out :=
  match List.find? (fun (x : Fill) => x.core == core && x.sub == sub) s.fills with
  | none => .next s
  | some x =>
    let win : LoopWin := { slot := x.slot, base := x.base, words := s.windowWords core x.slot (x.lanes.lanes.headD 0) x.base }
    .next { s with fills := s.fills.erase x, lb := x.lanes.lanes.foldl (fun t l => t.set (lbKey core sub l) win) s.lb }

-- Lane groups (R311)

/-- A lane that nothing parks, holds or freezes (R310). -/
def State.open_ (s : State) (c w l : Nat) : Bool :=
  let x := s.lane c w l
  x.live && x.park == .none && !x.held && !(s.warp c w).frozen

/-- Unblocked lanes of a warp at one PC in one mode, and the word there; none where the fetch faults (R319). -/
structure Grp where
  pc : Word
  lanes : List Nat
  word : Option Word
  deriving DecidableEq, Repr

/-- Lanes of a warp at one PC in one mode, in rising order of PC, each group with its PC: none while the warp waits for a `stepadv`
(R184). -/
def State.standing (s : State) (c w : Nat) : List (Word × List Nat) :=
  let ls := if (List.range 32).any fun l => (s.lane c w l).park == .step then [] else (List.range 32).filter (s.open_ c w)
  let key := fun (l : Nat) => let x := s.lane c w l; 2 * x.pc.toNat + (if x.handler then 1 else 0)
  (rising (ls.map key)).map fun k => (BitVec.ofNat 64 (k / 2), ls.filter fun l => key l == k)

/-- The groups of a warp that could issue, lowest PC first (R311, R314). -/
def State.groups (s : State) (c w : Nat) : List Grp :=
  (s.standing c w).filterMap fun (pc, ls) =>
    match (s.fetchPlace c w (ls.headD 0) pc).2 with
    | none => some { pc := pc, lanes := ls, word := none }
    | some pa =>
      (s.fetched c w pc pa).bind fun word =>
      let go := match decode word with
        -- lanes at one PC wait together for writes (log entry 29)
        | .ok i => if ls.any (s.waitsWrite i c w) then [] else ls.filter fun l => !s.waits i c w l
        | .error _ => ls
      if go.isEmpty then none else some { pc := pc, lanes := go, word := some word }

/-- Warp slots of a sub-core that hold warps of the team (R308). -/
def State.slots (s : State) (c sub : Nat) : List Nat :=
  ((List.range 12).map (12 * sub + ·)).filter fun w => decide (w < (s.team c).nwarp)

/-- Lanes whose line is not in the instruction cache wait for it (R310). -/
def State.startFetches (s : State) (c sub : Nat) : State :=
  (s.slots c sub).foldl (fun s w =>
    (s.standing c w).foldl (fun s (pc, ls) =>
      match (s.fetchPlace c w (ls.headD 0) pc).2 with
      | some pa => if (s.fetched c w pc pa).isSome then s else s.forLanes ls fun l s => s.modLane c w l fun x => { x with park := .fetch }
      | none => s) s) s

-- A cycle (R312, R314, R316, R317)

/-- What a step does once the front has chosen. -/
inductive Job
  | idle
  | issue (x : Issue)
  | event (i : Instr)
  /-- A step of the part's own that is due. -/
  | own (f : State → Out)
  /-- Lanes whose next word cannot be fetched. -/
  | fetchFault (core slot : Nat) (lanes : List Nat)

/-- A warp is eligible in a cycle, as far as its sub-core knows (R311, R312). -/
def State.eligible (s : State) (c cycle w : Nat) : Bool := decide ((s.warp c w).ready ≤ cycle) && !(s.groups c w).isEmpty

/-- The next of a rising list after a number, round robin. -/
def nextAfter (ws : List Nat) (n : Nat) : Option Nat := (ws.find? fun w => decide (n < w)) <|> ws.head?

/-- The slot whose last issue is oldest; the lower of equals. -/
def oldest (last : Nat → Nat) : List Nat → Option Nat
  | [] => none
  | w :: t => match oldest last t with
    | some v => if last v < last w then some v else some w
    | none => some w

/-- The choice that a sub-core makes in a cycle for two cycles later (R312); no choice while its core is being cleared (R336). -/
def State.choose (s : State) (c sub : Nat) : Option Nat :=
  let x := s.subs.get {} (c * 4 + sub)
  let t := x.cycle + 2
  if s.expiredFor c then none else
  let ws := (s.slots c sub).filter (s.eligible c t)
  if t % 4 = 3 then oldest (fun w => if x.c2 = some (some w) then x.cycle + 1 else (s.warp c w).last) ws
  else match (s.team c).urgent.filter ws.contains with
    | some w => some w
    | none => nextAfter ws x.last

/-- A group's skip count (R316). -/
def State.skips (s : State) (c w : Nat) (g : Grp) : Nat := g.lanes.foldl (fun m l => max m (s.lane c w l).skip) 0

/-- The group with the highest count of at least 64; the lower PC of equals. -/
def State.promoted (s : State) (c w : Nat) : List Grp → Option Grp
  | [] => none
  | g :: t => match s.promoted c w t with
    | some h => if s.skips c w h ≤ s.skips c w g then some g else some h
    | none => if 64 ≤ s.skips c w g then some g else none

/-- The broadcast port's group, and the one that may take the loop-buffer port (R314, R316). -/
def State.ports (s : State) (c w : Nat) (gs : List Grp) : Option (Grp × Option Grp) :=
  match gs with
  | [] => none
  | g :: t =>
    match s.promoted c w gs with
    | some p => if p.pc = g.pc ∧ p.lanes = g.lanes then some (g, t.head?) else some (p, some g)
    | none => some (g, t.head?)

/-- The word of a group by the loop-buffer port: the same in each lane's own buffer. -/
def State.lbHit (s : State) (c w : Nat) (g : Grp) : Option Word :=
  match g.lanes.map fun l => s.lbWord c w l g.pc with
  | some x :: t => if g.word.isSome ∧ t.all (· == some x) then some x else none
  | _ => none

/-- Stall count of a word (R54, R69). -/
def wordStall (w : Word) : Nat := match decode w with | .ok i => i.stall | .error _ => 0

/-- What the chosen warp issues in a cycle: the state and the broadcast port's job; the other port's instance waits in `second`. -/
def State.issueFrom (s : State) (c w cycle : Nat) : State × Job :=
  let gs := s.groups c w
  match s.ports c w gs with
  | none => (s, .idle)
  | some (g, h) =>
    let other := h.bind fun x => (s.lbHit c w x).map fun word => (x, word)
    let out := g.lanes ++ (match other with | some (x, _) => x.lanes | none => [])
    let s := match h, other with | some x, none => (if x.word.isSome then s.startFill c w x.lanes x.pc else s) | _, _ => s
    let s := s.forLanes (gs.flatMap (·.lanes)) fun l s => s.modLane c w l fun x => { x with skip := if out.contains l then 0 else x.skip + 1 }
    let stall := max ((g.word.map wordStall).getD 0) ((other.map fun y => wordStall y.2).getD 0)
    let s := s.modWarp c w fun x => { x with ready := cycle + 1 + stall, last := cycle }
    let s := { s with second := other.map fun (x, word) => { core := c, slot := w, lanes := Mask.ofLanes x.lanes, lbp := true, word := word } }
    match g.word with
    | some word =>
      let s := (s.fetchPlace c w (g.lanes.headD 0) g.pc).1
      (s, .issue { core := c, slot := w, lanes := Mask.ofLanes g.lanes, lbp := false, word := word })
    | none => (s, .fetchFault c w g.lanes)

/-- The lane still waits at the word for which others wait (log entry 29). -/
def LaneSt.holds (x : LaneSt) : Bool := x.live && x.tied && !x.handler

/-- Lanes that waited for lanes of their group go on (log entry 29). -/
def State.untie (s : State) (c sub : Nat) : State :=
  (s.slots c sub).foldl (fun s w => s.forLanes (List.range 32) fun l s => match (s.lane c w l).park with
    | .together m => if m.lanes.any fun j => (s.lane c w j).holds then s else s.modLane c w l fun x => { x with park := .none }
    | _ => s) s

/-- One cycle of a sub-core: lanes that wait for their group go on, fetches start, the warp chosen two cycles ago issues, and the choice for two cycles later is made. -/
def State.cycle (s : State) (c sub : Nat) : State × Job :=
  let k := c * 4 + sub
  let s := (s.untie c sub).startFetches c sub
  let x := s.subs.get {} k
  let (s, job) := match x.c1 with
    | some (some w) =>
      if (s.slots c sub).contains w ∧ (s.warp c w).ready ≤ x.cycle then s.issueFrom c w x.cycle else (s, .idle)
    | _ => (s, .idle)
  let v := s.choose c sub
  ({ s with subs := s.subs.set k {
    cycle := x.cycle + 1, c1 := x.c2, c2 := some v, last := v.getD x.last
    kept := x.kept.filterMap fun (v, p, word, n) => if n ≤ 1 then none else some (v, p, word, n - 1) } }, job)

/-- The fetch fault of lanes at one PC (R319): recorded at the word that produced the PC, for the lanes that came from one word;
beside a running handler, or in a frozen warp, they are held. A handler's fetch fault is nested (R437). -/
def State.fetchFault (s : State) (c w : Nat) (ls : List Nat) : State :=
  let first := ls.headD 0
  if (s.lane c w first).handler then
    (if (s.warp c w).frozen then s else s.nestedFault c w 0x08 true)
  else if (s.warp c w).frozen || (List.range 32).any fun l => (s.lane c w l).handler then
    s.forLanes ls fun l s => s.modLane c w l fun x => { x with held := true }
  else
    let from_ := (s.lane c w first).prev
    let now := ls.filter fun l => (s.lane c w l).prev == from_
    let addr := (s.lane c w first).pc.toNat
    let word := match (s.fetchPlace c w first from_).2 with | some pa => s.wordAt c pa | none => 0
    let s := { s with cur := { core := c, slot := w, lanes := Mask.ofLanes now, lbp := false, word := word } }
    let s := s.forLanes now fun l s => s.modLane c w l fun x => { x with pc := x.prev }
    s.trapAll now 0x08 0 (fun _ => addr)

end Sys2Proof.Machine
end

