-- ==== Sys2Proof/Machine/Dispatch.lean ====
section
/-! DEFINITION. The meaning of each instruction and event, one arm each. -/

namespace Sys2Proof.Machine

/-- The meaning of an instruction or event in a state. -/
def exec (i : Instr) (s : State) : Host.Outcome State Fault Refusal :=
  match i with
  | .add f => Sys2Proof.Machine.execAdd f s
  | .sub f => Sys2Proof.Machine.execSub f s
  | .mul f => Sys2Proof.Machine.execMul f s
  | .mulh f => Sys2Proof.Machine.execMulh f s
  | .mad f => Sys2Proof.Machine.execMad f s
  | .div f => Sys2Proof.Machine.execDiv f s
  | .rem f => Sys2Proof.Machine.execRem f s
  | .min f => Sys2Proof.Machine.execMin f s
  | .max f => Sys2Proof.Machine.execMax f s
  | .abs f => Sys2Proof.Machine.execAbs f s
  | .neg f => Sys2Proof.Machine.execNeg f s
  | .addc f => Sys2Proof.Machine.execAddc f s
  | .subb f => Sys2Proof.Machine.execSubb f s
  | .sad f => Sys2Proof.Machine.execSad f s
  | .lea f => Sys2Proof.Machine.execLea f s
  | .dot4 f => Sys2Proof.Machine.execDot4 f s
  | .dot2 f => Sys2Proof.Machine.execDot2 f s
  | .addImm f => Sys2Proof.Machine.execAddImm f s
  | .subImm f => Sys2Proof.Machine.execSubImm f s
  | .mulImm f => Sys2Proof.Machine.execMulImm f s
  | .minImm f => Sys2Proof.Machine.execMinImm f s
  | .maxImm f => Sys2Proof.Machine.execMaxImm f s
  | .and f => Sys2Proof.Machine.execAnd f s
  | .or f => Sys2Proof.Machine.execOr f s
  | .xor f => Sys2Proof.Machine.execXor f s
  | .andn f => Sys2Proof.Machine.execAndn f s
  | .not f => Sys2Proof.Machine.execNot f s
  | .shl f => Sys2Proof.Machine.execShl f s
  | .shr f => Sys2Proof.Machine.execShr f s
  | .sar f => Sys2Proof.Machine.execSar f s
  | .rot f => Sys2Proof.Machine.execRot f s
  | .popc f => Sys2Proof.Machine.execPopc f s
  | .clz f => Sys2Proof.Machine.execClz f s
  | .ctz f => Sys2Proof.Machine.execCtz f s
  | .brev f => Sys2Proof.Machine.execBrev f s
  | .bfx f => Sys2Proof.Machine.execBfx f s
  | .bfi f => Sys2Proof.Machine.execBfi f s
  | .sel f => Sys2Proof.Machine.execSel f s
  | .mov f => Sys2Proof.Machine.execMov f s
  | .movw f => Sys2Proof.Machine.execMovw f s
  | .andImm f => Sys2Proof.Machine.execAndImm f s
  | .orImm f => Sys2Proof.Machine.execOrImm f s
  | .xorImm f => Sys2Proof.Machine.execXorImm f s
  | .shlImm f => Sys2Proof.Machine.execShlImm f s
  | .shrImm f => Sys2Proof.Machine.execShrImm f s
  | .sarImm f => Sys2Proof.Machine.execSarImm f s
  | .rotImm f => Sys2Proof.Machine.execRotImm f s
  | .cmp f => Sys2Proof.Machine.execCmp f s
  | .fcmp f => Sys2Proof.Machine.execFcmp f s
  | .plop f => Sys2Proof.Machine.execPlop f s
  | .pmov f => Sys2Proof.Machine.execPmov f s
  | .fadd f => Sys2Proof.Machine.execFadd f s
  | .fsub f => Sys2Proof.Machine.execFsub f s
  | .fmul f => Sys2Proof.Machine.execFmul f s
  | .fma f => Sys2Proof.Machine.execFma f s
  | .fmin f => Sys2Proof.Machine.execFmin f s
  | .fmax f => Sys2Proof.Machine.execFmax f s
  | .fcls f => Sys2Proof.Machine.execFcls f s
  | .fscale f => Sys2Proof.Machine.execFscale f s
  | .fract f => Sys2Proof.Machine.execFract f s
  | .frnd f => Sys2Proof.Machine.execFrnd f s
  | .fdot2 f => Sys2Proof.Machine.execFdot2 f s
  | .cvt f => Sys2Proof.Machine.execCvt f s
  | .frcp f => Sys2Proof.Machine.execFrcp f s
  | .frsq f => Sys2Proof.Machine.execFrsq f s
  | .fsqrt f => Sys2Proof.Machine.execFsqrt f s
  | .fdiv f => Sys2Proof.Machine.execFdiv f s
  | .fexp2 f => Sys2Proof.Machine.execFexp2 f s
  | .flog2 f => Sys2Proof.Machine.execFlog2 f s
  | .fsin f => Sys2Proof.Machine.execFsin f s
  | .fcos f => Sys2Proof.Machine.execFcos f s
  | .xfm f => Sys2Proof.Machine.execXfm f s
  | .shfl f => Sys2Proof.Machine.execShfl f s
  | .vote f => Sys2Proof.Machine.execVote f s
  | .redux f => Sys2Proof.Machine.execRedux f s
  | .perm f => Sys2Proof.Machine.execPerm f s
  | .rdln f => Sys2Proof.Machine.execRdln f s
  | .wrln f => Sys2Proof.Machine.execWrln f s
  | .scan f => Sys2Proof.Machine.execScan f s
  | .pairAdd f => Sys2Proof.Machine.execPairAdd f s
  | .pairSub f => Sys2Proof.Machine.execPairSub f s
  | .pairMul f => Sys2Proof.Machine.execPairMul f s
  | .pairMin f => Sys2Proof.Machine.execPairMin f s
  | .pairMax f => Sys2Proof.Machine.execPairMax f s
  | .pairAnd f => Sys2Proof.Machine.execPairAnd f s
  | .pairOr f => Sys2Proof.Machine.execPairOr f s
  | .pairXor f => Sys2Proof.Machine.execPairXor f s
  | .pairAndn f => Sys2Proof.Machine.execPairAndn f s
  | .pairShl f => Sys2Proof.Machine.execPairShl f s
  | .pairShr f => Sys2Proof.Machine.execPairShr f s
  | .pairSar f => Sys2Proof.Machine.execPairSar f s
  | .pairMov f => Sys2Proof.Machine.execPairMov f s
  | .pairFadd f => Sys2Proof.Machine.execPairFadd f s
  | .pairFsub f => Sys2Proof.Machine.execPairFsub f s
  | .pairFmul f => Sys2Proof.Machine.execPairFmul f s
  | .pairFmin f => Sys2Proof.Machine.execPairFmin f s
  | .pairFmax f => Sys2Proof.Machine.execPairFmax f s
  | .ldG f => Sys2Proof.Machine.execLdG f s
  | .ldSp f => Sys2Proof.Machine.execLdSp f s
  | .ldGs f => Sys2Proof.Machine.execLdGs f s
  | .stG f => Sys2Proof.Machine.execStG f s
  | .stSp f => Sys2Proof.Machine.execStSp f s
  | .stGs f => Sys2Proof.Machine.execStGs f s
  | .ldwG f => Sys2Proof.Machine.execLdwG f s
  | .ldwSp f => Sys2Proof.Machine.execLdwSp f s
  | .ldwGs f => Sys2Proof.Machine.execLdwGs f s
  | .stp f => Sys2Proof.Machine.execStp f s
  | .pfl f => Sys2Proof.Machine.execPfl f s
  | .cwb f => Sys2Proof.Machine.execCwb f s
  | .cinv f => Sys2Proof.Machine.execCinv f s
  | .icinv f => Sys2Proof.Machine.execIcinv f s
  | .spmapMap f => Sys2Proof.Machine.execSpmapMap f s
  | .spmapUnmap f => Sys2Proof.Machine.execSpmapUnmap f s
  | .spmapFlush f => Sys2Proof.Machine.execSpmapFlush f s
  | .spmapInval f => Sys2Proof.Machine.execSpmapInval f s
  | .lfen f => Sys2Proof.Machine.execLfen f s
  | .wmrg f => Sys2Proof.Machine.execWmrg f s
  | .wtst f => Sys2Proof.Machine.execWtst f s
  | .wwait f => Sys2Proof.Machine.execWwait f s
  | .wfen f => Sys2Proof.Machine.execWfen f s
  | .wscp f => Sys2Proof.Machine.execWscp f s
  | .wloc f => Sys2Proof.Machine.execWloc f s
  | .atomG f => Sys2Proof.Machine.execAtomG f s
  | .atomSp f => Sys2Proof.Machine.execAtomSp f s
  | .atomGs f => Sys2Proof.Machine.execAtomGs f s
  | .atomr f => Sys2Proof.Machine.execAtomr f s
  | .mwait f => Sys2Proof.Machine.execMwait f s
  | .seminc f => Sys2Proof.Machine.execSeminc f s
  | .semwGe f => Sys2Proof.Machine.execSemwGe f s
  | .semwTake f => Sys2Proof.Machine.execSemwTake f s
  | .semrd f => Sys2Proof.Machine.execSemrd f s
  | .semset f => Sys2Proof.Machine.execSemset f s
  | .ldd f => Sys2Proof.Machine.execLdd f s
  | .std f => Sys2Proof.Machine.execStd f s
  | .atomdAdd f => Sys2Proof.Machine.execAtomdAdd f s
  | .atomdMrg f => Sys2Proof.Machine.execAtomdMrg f s
  | .dcvt f => Sys2Proof.Machine.execDcvt f s
  | .stepadv f => Sys2Proof.Machine.execStepadv f s
  | .steprd f => Sys2Proof.Machine.execSteprd f s
  | .kdecl f => Sys2Proof.Machine.execKdecl f s
  | .mma f => Sys2Proof.Machine.execMma f s
  | .mmaa f => Sys2Proof.Machine.execMmaa f s
  | .vxm f => Sys2Proof.Machine.execVxm f s
  | .mzero f => Sys2Proof.Machine.execMzero f s
  | .mld f => Sys2Proof.Machine.execMld f s
  | .mst f => Sys2Proof.Machine.execMst f s
  | .mrd f => Sys2Proof.Machine.execMrd f s
  | .mwr f => Sys2Proof.Machine.execMwr f s
  | .mvbnd f => Sys2Proof.Machine.execMvbnd f s
  | .matrixEngineOpStart core => Sys2Proof.Machine.execMatrixEngineOpStart core s
  | .cpy f => Sys2Proof.Machine.execCpy f s
  | .cpyw f => Sys2Proof.Machine.execCpyw f s
  | .cpyg f => Sys2Proof.Machine.execCpyg f s
  | .chn f => Sys2Proof.Machine.execChn f s
  | .qfen f => Sys2Proof.Machine.execQfen f s
  | .qtail f => Sys2Proof.Machine.execQtail f s
  | .qpop f => Sys2Proof.Machine.execQpop f s
  | .qpush f => Sys2Proof.Machine.execQpush f s
  | .millRd f => Sys2Proof.Machine.execMillRd f s
  | .millClr f => Sys2Proof.Machine.execMillClr f s
  | .fwait f => Sys2Proof.Machine.execFwait f s
  | .ftst f => Sys2Proof.Machine.execFtst f s
  | .fcan f => Sys2Proof.Machine.execFcan f s
  | .fmov f => Sys2Proof.Machine.execFmov f s
  | .fst f => Sys2Proof.Machine.execFst f s
  | .fld f => Sys2Proof.Machine.execFld f s
  | .trav f => Sys2Proof.Machine.execTrav f s
  | .tvis f => Sys2Proof.Machine.execTvis f s
  | .psget f => Sys2Proof.Machine.execPsget f s
  | .psput f => Sys2Proof.Machine.execPsput f s
  | .psq f => Sys2Proof.Machine.execPsq f s
  | .psdq f => Sys2Proof.Machine.execPsdq f s
  | .amp f => Sys2Proof.Machine.execAmp f s
  | .occq f => Sys2Proof.Machine.execOccq f s
  | .smp f => Sys2Proof.Machine.execSmp f s
  | .send f => Sys2Proof.Machine.execSend f s
  | .rget f => Sys2Proof.Machine.execRget f s
  | .rput f => Sys2Proof.Machine.execRput f s
  | .ratom f => Sys2Proof.Machine.execRatom f s
  | .coll f => Sys2Proof.Machine.execColl f s
  | .bkt f => Sys2Proof.Machine.execBkt f s
  | .bra f => Sys2Proof.Machine.execBra f s
  | .brx f => Sys2Proof.Machine.execBrx f s
  | .call f => Sys2Proof.Machine.execCall f s
  | .calx f => Sys2Proof.Machine.execCalx f s
  | .ret f => Sys2Proof.Machine.execRet f s
  | .land f => Sys2Proof.Machine.execLand f s
  | .hlp f => Sys2Proof.Machine.execHlp f s
  | .exit f => Sys2Proof.Machine.execExit f s
  | .kill f => Sys2Proof.Machine.execKill f s
  | .teamEnd core => Sys2Proof.Machine.execTeamEnd core s
  | .bar f => Sys2Proof.Machine.execBar f s
  | .barg f => Sys2Proof.Machine.execBarg f s
  | .nap f => Sys2Proof.Machine.execNap f s
  | .napExpiry core slot => Sys2Proof.Machine.execNapExpiry core slot s
  | .trap f => Sys2Proof.Machine.execTrap f s
  | .brk f => Sys2Proof.Machine.execBrk f s
  | .tret f => Sys2Proof.Machine.execTret f s
  | .rdsys f => Sys2Proof.Machine.execRdsys f s
  | .wrsys f => Sys2Proof.Machine.execWrsys f s
  | .dfacWrite f => Sys2Proof.Machine.execDfacWrite f s
  | .srseedWrite f => Sys2Proof.Machine.execSrseedWrite f s
  | .tlbiPg f => Sys2Proof.Machine.execTlbiPg f s
  | .tlbiCtx f => Sys2Proof.Machine.execTlbiCtx f s
  | .capw f => Sys2Proof.Machine.execCapw f s
  | .capi f => Sys2Proof.Machine.execCapi f s
  | .registerWriteback core k => Sys2Proof.Machine.execRegisterWriteback core k s
  | .loopBufferFill core sub => Sys2Proof.Machine.execLoopBufferFill core sub s
  | .trapEntry cause detail => Sys2Proof.Machine.execTrapEntry cause detail s
  | .haRequestPerform k => Sys2Proof.Machine.execHaRequestPerform k s
  | .scratchpadPortPerform k => Sys2Proof.Machine.execScratchpadPortPerform k s
  | .monitorDeadline k => Sys2Proof.Machine.execMonitorDeadline k s
  | .monitorPoll k => Sys2Proof.Machine.execMonitorPoll k s
  | .monitorSwapOut core => Sys2Proof.Machine.execMonitorSwapOut core s
  | .barrierTimeout core slot lane => Sys2Proof.Machine.execBarrierTimeout core slot lane s
  | .closedTickPublish agent => Sys2Proof.Machine.execClosedTickPublish agent s
  | .accessCloseTimeout k => Sys2Proof.Machine.execAccessCloseTimeout k s
  | .l2Writeback line rep compress => Sys2Proof.Machine.execL2Writeback line rep compress s
  | .futureResolve core ent => Sys2Proof.Machine.execFutureResolve core ent s
  | .queueEntryStart q => Sys2Proof.Machine.execQueueEntryStart q s
  | .chainNop k => Sys2Proof.Machine.execChainNop k s
  | .chainCopy k => Sys2Proof.Machine.execChainCopy k s
  | .chainFill k => Sys2Proof.Machine.execChainFill k s
  | .chainGather k => Sys2Proof.Machine.execChainGather k s
  | .chainSeminc k => Sys2Proof.Machine.execChainSeminc k s
  | .chainSemwait k => Sys2Proof.Machine.execChainSemwait k s
  | .chainWaitseq k => Sys2Proof.Machine.execChainWaitseq k s
  | .chainSubmit k => Sys2Proof.Machine.execChainSubmit k s
  | .chainLink k => Sys2Proof.Machine.execChainLink k s
  | .chainWaitMet k => Sys2Proof.Machine.execChainWaitMet k s
  | .chainEntryComplete k => Sys2Proof.Machine.execChainEntryComplete k s
  | .chainEnable k ctl => Sys2Proof.Machine.execChainEnable k ctl s
  | .chainTailWrite k tail => Sys2Proof.Machine.execChainTailWrite k tail s
  | .millChainStart core => Sys2Proof.Machine.execMillChainStart core s
  | .iuInstanceStart core => Sys2Proof.Machine.execIuInstanceStart core s
  | .nodeDispatch node => Sys2Proof.Machine.execNodeDispatch node s
  | .drainLimitExpiry node => Sys2Proof.Machine.execDrainLimitExpiry node s
  | .backfillStop cls => Sys2Proof.Machine.execBackfillStop cls s
  | .forcedSave core => Sys2Proof.Machine.execForcedSave core s
  | .nodeComplete node => Sys2Proof.Machine.execNodeComplete node s
  | .reExecutionRequest ctx nid => Sys2Proof.Machine.execReExecutionRequest ctx nid s
  | .packetReceive conn seq epoch p => Sys2Proof.Machine.execPacketReceive conn seq epoch p s
  | .fencedMessagePerform conn seq => Sys2Proof.Machine.execFencedMessagePerform conn seq s
  | .recordPlace k => Sys2Proof.Machine.execRecordPlace k s
  | .ackReceive conn seq r => Sys2Proof.Machine.execAckReceive conn seq r s
  | .packetRetransmit conn seq => Sys2Proof.Machine.execPacketRetransmit conn seq s
  | .connectionFail conn => Sys2Proof.Machine.execConnectionFail conn s
  | .connectionOpen conn cctl => Sys2Proof.Machine.execConnectionOpen conn cctl s
  | .connectionUp conn => Sys2Proof.Machine.execConnectionUp conn s
  | .connectionClose conn => Sys2Proof.Machine.execConnectionClose conn s
  | .connectionClosed conn => Sys2Proof.Machine.execConnectionClosed conn s
  | .receiveEndpointWrite e dw0 dw1 => Sys2Proof.Machine.execReceiveEndpointWrite e dw0 dw1 s
  | .keyEpochInstall conn kctl => Sys2Proof.Machine.execKeyEpochInstall conn kctl s
  | .keyEpochRetire conn kctl => Sys2Proof.Machine.execKeyEpochRetire conn kctl s
  | .rrcFetchComplete k line bad => Sys2Proof.Machine.execRrcFetchComplete k line bad s
  | .collectivePerform k others agree => Sys2Proof.Machine.execCollectivePerform k others agree s
  | .collectiveYield k => Sys2Proof.Machine.execCollectiveYield k s
  | .collectiveSemWaitMet k => Sys2Proof.Machine.execCollectiveSemWaitMet k s
  | .imsicMessage k => Sys2Proof.Machine.execImsicMessage k s
  | .shootdownPage cmd => Sys2Proof.Machine.execShootdownPage cmd s
  | .shootdownContext cmd => Sys2Proof.Machine.execShootdownContext cmd s
  | .shootdownAll cmd => Sys2Proof.Machine.execShootdownAll cmd s
  | .shootdownComplete => Sys2Proof.Machine.execShootdownComplete s
  | .hostRead off size => Sys2Proof.Machine.execHostRead off size s
  | .hostPostedWrite off data => Sys2Proof.Machine.execHostPostedWrite off data s
  | .hostAtomicop off size op b c => Sys2Proof.Machine.execHostAtomicop off size op b c s
  | .semVStore k => Sys2Proof.Machine.execSemVStore k s
  | .semIncrementPort k => Sys2Proof.Machine.execSemIncrementPort k s
  | .escalationResume core slot => Sys2Proof.Machine.execEscalationResume core slot s
  | .escalationEndFrozen core slot => Sys2Proof.Machine.execEscalationEndFrozen core slot s
  | .escalationEndTeam core slot => Sys2Proof.Machine.execEscalationEndTeam core slot s
  | .registerWrite die addr val => Sys2Proof.Machine.execRegisterWrite die addr val s
  | .moduleReset spares images => Sys2Proof.Machine.execModuleReset spares images s
  | .leaderBootClaim die => Sys2Proof.Machine.execLeaderBootClaim die s
  | .leaderTakeoverClaim die => Sys2Proof.Machine.execLeaderTakeoverClaim die s
  | .lockstepCheckpoint die => Sys2Proof.Machine.execLockstepCheckpoint die s
  | .lockstepDivergence die => Sys2Proof.Machine.execLockstepDivergence die s
  | .attestationReport nonce => Sys2Proof.Machine.execAttestationReport nonce s
  | .throttle coreStep haStep => Sys2Proof.Machine.execThrottle coreStep haStep s
  | .thermalShutdown die => Sys2Proof.Machine.execThermalShutdown die s
  | .thermalSample die temp => Sys2Proof.Machine.execThermalSample die temp s
  | .droopWindow die mv => Sys2Proof.Machine.execDroopWindow die mv s
  | .correctedError die struct => Sys2Proof.Machine.execCorrectedError die struct s
  | .poisonCreate addr => Sys2Proof.Machine.execPoisonCreate addr s
  | .coreFieldFailure core => Sys2Proof.Machine.execCoreFieldFailure core s
  | .hbmChannelFailure agent => Sys2Proof.Machine.execHbmChannelFailure agent s
  | .linkLaneFailure port => Sys2Proof.Machine.execLinkLaneFailure port s
  | .instructionFetchReturn core line => Sys2Proof.Machine.execInstructionFetchReturn core line s
  | .serviceOsEndsTeam core => Sys2Proof.Machine.execServiceOsEndsTeam core s

end Sys2Proof.Machine
end

