-- ==== Sys2Proof/Machine/Agenda.lean ====
section
/-! DEFINITION. What a step does next: the schedule's moves, and the order taken where the schedule is empty (log entry 4); issuing
an instance's word. -/

namespace Sys2Proof.Machine

/-- The row is an instruction word's, not an event's. -/
def isWord (i : Instr) : Bool := match i.form with | .event => false | _ => true

/-- Cause and DETAIL of the trap of a word that does not decode, in the mode of its lanes (R82). -/
def decodeTrap (user : Bool) (w : Word) (e : DecodeError) : Nat × Nat :=
  match e with
  | .form => (0x01, 1)
  | .opcode => (0x01, 2)
  | .field => if forbidden user w.toNat then (0x02, 0) else (0x01, 4)
  | .pair => (0x01, 5)

/-- The state in which an instance's word is executed: the instance is current, and its lanes have issued the word. -/
def State.load (s : State) (x : Issue) : State :=
  { s with cur := x }.forLanes x.lanes.lanes fun l s => s.modLane x.core x.slot l fun y => { y with word := x.word, lbp := x.lbp }

/-- A word whose lanes may wait at it for what ends by itself: the lanes that issue it go past it together (log entry 29). -/
def staysWhole (i : Instr) : Bool :=
  match i with
  | .ldwG _ | .ldwSp _ | .ldwGs _ | .ldd _ | .lfen _ | .wmrg _ | .wscp _ | .wwait _ | .wfen _ | .wloc _ | .atomdAdd _ | .atomdMrg _
  | .seminc _ | .stepadv _ | .tlbiPg _ | .tlbiCtx _ | .mvbnd _ => true
  | _ => false

/-- Lanes that have gone past such a word wait for those of their instance that have not (log entry 29). -/
def State.tie (i : Instr) (x : Issue) (s t : State) : State :=
  if !staysWhole i then t else
  let at_ := fun (l : Nat) => let y := t.lane x.core x.slot l; y.live && (match y.park with | .retry | .replies _ => true | _ => false)
  let m := x.lanes.lanes.filter at_
  if m.isEmpty then t else
  t.forLanes x.lanes.lanes fun l u => u.modLane x.core x.slot l fun y =>
    if at_ l then { y with tied := true }
    else if y.live && y.park == .none && !y.held && y.handler == (s.lane x.core x.slot l).handler then { y with park := .together (Mask.ofLanes m) } else y

/-- Issues an instance: the meaning of its word, or the trap of a word that does not decode (R82). -/
def issueWord (x : Issue) (s : State) : Out :=
  let s := s.load x
  match decode x.word with
  | .ok i => Out.andThen (exec i s) (State.tie i x s)
  | .error e =>
    let user := !(x.lanes.lanes.any fun l => (s.lane x.core x.slot l).handler)
    exec (.trapEntry (decodeTrap user x.word e).1 (decodeTrap user x.word e).2) s

-- Where the schedule is empty

/-- Requests by class, those of the lower core first, each core's oldest first (R17, R27). -/
def State.reqOrder (s : State) : List Nat :=
  (List.range 4).flatMap fun p =>
    let rs := s.reqs.filter fun (_, r) => r.cls == p
    (rising (rs.map fun (_, r) => r.who.core)).flatMap fun c => (rs.filter fun (_, r) => r.who.core == c).map (·.1)

/-- Dirty lines that full slices give up for writes that wait there (R18). -/
def State.crowded (s : State) : List Nat :=
  s.reqs.filterMap fun (_, r) => match s.place r.loc with
    | .hbm pa => if r.op.isWrite && !s.l2Room (.hbm pa) then (s.dirty.filter fun (k, _) => haOf (k * 128) == haOf pa).head?.map (·.1) else none
    | _ => none

/-- Steps of the part's own that may be due: the meaning of every row of the table that no word starts and no outside party brings,
for each place where it could happen. -/
def State.due (s : State) : List (State → Out) :=
  let cores := s.teams.map (·.1)
  let chain := fun (k : Nat) => [execQueueEntryStart (.chain k), execChainNop k, execChainCopy k, execChainFill k, execChainGather k,
    execChainSeminc k, execChainSemwait k, execChainWaitseq k, execChainSubmit k, execChainLink k, execChainWaitMet k, execChainEntryComplete k]
  let live := s.lanes.filter fun (_, x) => x.live
  let warps := (live.map fun (k, _) => k / 32).eraseDups
  let done := fun (t : Tab FutSt) => (t.filter fun (_, e) => e.busy && e.result.isSome).map fun (k, _) => execFutureResolve (k / 512) (k % 512)
  [execClosedTickPublish none] ++
  s.replies.map (fun (k, r) => execRegisterWriteback r.who.core k) ++
  s.reqOrder.flatMap (fun k => [execHaRequestPerform k, execScratchpadPortPerform k, execSemVStore k, execSemIncrementPort k]) ++
  s.crowded.map (fun k => execL2Writeback k none false) ++
  done s.fut ++ s.saved.flatMap (fun x => done x.img.fut) ++
  s.mx.map (fun (c, _) => execMatrixEngineOpStart c) ++ s.iu.map (fun (c, _) => execIuInstanceStart c) ++
  s.cq.map (fun (k, _) => execQueueEntryStart (.copy (k / 4) (k % 4))) ++ cores.map execMillChainStart ++
  s.chains.flatMap (fun (k, _) => chain k) ++
  s.mons.flatMap (fun (k, _) => [execMonitorDeadline k, execMonitorPoll k]) ++
  warps.map (fun k => execNapExpiry (k / 64) (k % 64)) ++
  (live.filter fun (_, x) => x.park == .fetch).filterMap (fun (k, x) =>
    (s.fetchPlace (k / 2048) (k % 2048 / 32) (k % 32) x.pc).2.map fun pa => execInstructionFetchReturn (k / 2048) (pa / 128)) ++
  s.fills.map (fun x => execLoopBufferFill x.core x.sub) ++
  (live ++ s.saved.flatMap fun x => x.img.lanes.filter fun (_, y) => y.live).map (fun (k, _) => execBarrierTimeout (k / 2048) (k % 2048 / 32) (k % 32)) ++
  s.imsg.map (fun (k, _) => execImsicMessage k) ++ s.reexec.map (fun x => execReExecutionRequest x.1 x.2) ++
  s.inbox.map (fun (k, _) => execRecordPlace k) ++
  s.conns.flatMap (fun (n, k) => k.held.map fun h => execFencedMessagePerform n h.1) ++ s.conns.map (fun (n, _) => execConnectionClosed n) ++
  s.colls.flatMap (fun (k, _) => [execCollectiveSemWaitMet k, execCollectiveYield k]) ++ [execShootdownComplete] ++
  cores.map execTeamEnd ++ s.saved.map (fun x => execTeamEnd x.core) ++
  (s.nodes.filter fun (_, n) => n.type != 2 || n.endAt.isSome).map (fun (k, _) => execNodeComplete k) ++
  s.pool_.map execNodeDispatch ++ s.saved.map (fun x => execNodeDispatch x.team.key) ++
  s.drains.map (fun d => execDrainLimitExpiry d.node) ++ (List.range 4).map execBackfillStop ++
  cores.map execForcedSave ++ cores.map execMonitorSwapOut

/-- A step changes the state. -/
def State.changes (s : State) (f : State → Out) : Bool :=
  match f s with
  | .next t => t != s
  | _ => true

/-- With no schedule, the first step of the part's own that is due happens; else sub-cores take their cycles in turn. -/
def State.policy (s : State) : State × Job :=
  match s.due.find? s.changes with
  | some f => (s, .own f)
  | none =>
    let cores := s.teams.map (·.1)
    match cores[s.turn % (4 * cores.length) / 4]? with
    | some c => { s with turn := (s.turn + 1) % (4 * cores.length) }.cycle c (s.turn % 4)
    | none => (s, .idle)

/-- The next move (log entry 4): the loop-buffer port's instance of a cycle, the schedule's first move, or what is due. -/
def State.front (s : State) : State × Job :=
  match s.second with
  | some x => ({ s with second := none }, .issue x)
  | none => match s.agenda with
    | .event i :: rest => ({ s with agenda := rest }, if isWord i then .idle else .event i)
    | .cycle c sub :: rest => { s with agenda := rest }.cycle c sub
    | .pass ns :: rest => ({ s with agenda := rest, now := s.now + ns }, .idle)
    | [] => { s with cur := {} }.policy

/-- A lane waits in a monitor or semaphore wait, as R262 counts them. -/
def Park.waits : Park → Bool
  | .monitor _ | .sem | .semGot .. | .queue | .allowance => true
  | _ => false

/-- Notes since when every live lane of each team has waited in a monitor or semaphore wait (R262). -/
def State.noteIdle (s : State) : State :=
  { s with teams := s.teams.map fun (c, t) =>
      let ls := s.lanes.filter fun (k, x) => k / 2048 == c && x.live
      let idle := if ls.isEmpty || ls.any fun (_, x) => !x.park.waits then none else some (t.idle.getD s.now)
      (c, { t with idle := idle }) }

/-- Does a job. -/
def runJob (j : Job) (s : State) : Out :=
  match j with
  | .idle => .next s
  | .event i => exec i { s with cur := {} }
  | .own f => f s
  | .issue x => issueWord x s
  | .fetchFault c w ls => .next (s.fetchFault c w ls).wake

/-- A word where the first lane of a team fetches it: a team of context 0 on core 0, whose one lane is at address 0 of a page that
may be fetched, with the word in memory there and in the instruction cache; its sub-core has chosen the warp (log entry 3). -/
def State.placeWord (s : State) (word : Nat) : State :=
  let bytes := leBytes 8 (word % 2 ^ 64)
  let table := fun (m : Memory) (a v : Nat) => m.write a (leBytes 8 v)
  let mem := table (table (table (table (s.mem.write 0 bytes) 0x10000 0x11001) 0x11000 0x12001) 0x12000 0x13001) 0x13000 0x3B
  { s with
    mem := mem
    stopped := false, second := none, agenda := [.cycle 0 0]
    tlb := s.tlb.filter fun x => !x.hits 0 0 0
    dtlb := s.dtlb.filter fun x => !x.hits 0 0 0
    ctxs := s.ctxs.set 0 { s.ctxs.get {} 0 with live := true, pgroot := 0x10000 }
    teams := s.teams.set 0 { nid := 0, nwarp := 1, nreg := 128 }
    warps := s.warps.set 0 { bnd := 128 }
    lanes := Tab.set (s.lanes.filter fun (k, _) => decide (2048 ≤ k)) 0 { live := true }
    subs := s.subs.set 0 { c1 := some (some 0), c2 := some none }
    ic := s.ic.set 0 { ctx := 0, bytes := bytes ++ (mem.read 8 120) } }

end Sys2Proof.Machine
end

