-- ==== Sys2Proof/Machine/Step.lean ====
section
/-! DEFINITION. One step of the machine, and a word placed where the next step fetches it. -/

namespace Sys2Proof.Machine

/-- One step: time passes by a nanosecond, and the next move is made (log entry 4). -/
def step (s : State) : Host.Outcome State Fault Refusal :=
  if s.stopped then .fault .moduleStopped
  else
    let x := State.front { s with now := s.now + 1 }
    Out.andThen (runJob x.2 x.1) State.noteIdle

/-- The state with an instruction stored where `step` fetches its next one: bit 0 is the least significant bit of its word. -/
def State.withFetchWord (s : State) (_nbits w : Nat) : State := s.placeWord w

end Sys2Proof.Machine
end

