-- ==== Sys2Proof/Safety.lean ====
section
/-! DEFINITION. What the claims call a good state and a safe run, and the terms in which they say what a word does. -/

namespace Sys2Proof.Machine

/-- The form of the data that every step keeps: HBM and the scratchpads are in their canonical form. -/
def State.wf (s : State) : Prop := s.mem.wf = true ∧ s.sp.wf = true

/-- Some warp of the package has taken a nested fault and stands frozen (R437). -/
def State.someFrozen (s : State) : Bool := s.warps.any fun (_, x) => x.frozen

/-- A state from which the machine goes on: the module has not stopped, and no warp is frozen. -/
def State.safe (s : State) : Prop := s.stopped = false ∧ s.someFrozen = false

/-- A run of n steps that stays safe ends in a state. -/
def SafeRun : Nat → State → State → Prop
  | 0, s, t => s.safe ∧ s = t
  | n + 1, s, t => s.safe ∧ ∃ u, step s = .next u ∧ SafeRun n u t

-- The terms of the claims about one word: `s` is the state at its issue, `s.cur` the issuing instance.

/-- M of the issuing instance: the lanes that issue the word and where some guard of it holds (R43). -/
def State.lanesM (s : State) (i : Instr) : List Nat := (s.issuing i).filter (s.inM i s.cur.core s.cur.slot)

/-- The word passes the checks of R82 in the lanes that issue it. -/
abbrev State.passes (s : State) (i : Instr) : Prop := s.check i (s.issuing i) = none

/-- No source that the word reads brings a fault to a lane of M: no poison, no fault kept for a first reader (R211). -/
abbrev State.sound (s : State) (i : Instr) : Prop :=
  ∀ l ∈ s.lanesM i, s.sourceFault s.cur.core s.cur.slot l (s.needs i s.cur.core s.cur.slot l) = none

/-- The word executes: it passes its checks, and its sources are sound. -/
abbrev State.clear (s : State) (i : Instr) : Prop := s.passes i ∧ s.sound i

/-- From s to t, a word that the lanes `ls` of a warp issue has changed nothing but the registers `ds` in its lanes `ms`, their
generators where `sr` says so, and where each issuing lane stands: at its next word, with its outstanding results nearer (R74). -/
structure LanesOnly (c w : Nat) (ls ms ds : List Nat) (sr : Bool) (s t : State) : Prop where
  /-- Every other field of the state, all memory among them, is as it was. -/
  rest : t = { s with pool := t.pool, marks := t.marks, ureg := t.ureg, umarks := t.umarks, lanes := t.lanes }
  vector : ∀ k, (∀ l ∈ ms, ∀ r ∈ ds, r < 128 → k ≠ s.poolKey c w r l) →
    t.pool.get 0 k = s.pool.get 0 k ∧ t.marks.get {} k = s.marks.get {} k
  uniform : ∀ k, (∀ r ∈ ds, 128 ≤ r → r < 192 → k ≠ uregKey c w (r - 128)) →
    t.ureg.get 0 k = s.ureg.get 0 k ∧ t.umarks.get {} k = s.umarks.get {} k
  others : ∀ k, (∀ l ∈ ls, k ≠ laneKey c w l) → t.lanes.get {} k = s.lanes.get {} k
  stands : ∀ l ∈ ls, ∃ p g sh, t.lane c w l = { (s.lane c w l).next with preds := p, gen := g, shadow := sh }
  preds : ∀ l ∈ ls, ∀ p < 8, (256 + p ∉ ds ∨ l ∉ ms) → (t.lane c w l).preds.getLsbD p = (s.lane c w l).preds.getLsbD p
  gens : ∀ l ∈ ls, (sr = false ∨ l ∉ ms) → (t.lane c w l).gen = (s.lane c w l).gen

/-- `LanesOnly` of the issuing instance of s. -/
def OnlyRegs (s t : State) (i : Instr) (ds : List Nat) (sr : Bool) : Prop :=
  LanesOnly s.cur.core s.cur.slot (s.issuing i) (s.lanesM i) ds sr s t

/-- The lanes of M that write a destination register: every one its own vector register or predicate, and the lowest of them a
uniform register (R56). -/
def State.writers (s : State) (i : Instr) (r : Nat) : List Nat :=
  if 128 ≤ r ∧ r < 192 then (s.lanesM i).take 1 else s.lanesM i

/-- The n registers that a destination byte names: none for `nil` (R47, R56). -/
def dsts (d : BitVec 8) (n : Nat) : List Nat := if d.toNat < 192 then (List.range n).map (d.toNat + ·) else []

/-- The j-th register that D names holds `v l` in t, for each lane l of the instance of s that writes it. -/
def Gives (s t : State) (i : Instr) (d : BitVec 8) (j : Nat) (v : Nat → Word) : Prop :=
  d.toNat < 192 → ∀ l ∈ s.writers i (d.toNat + j), t.reg s.cur.core s.cur.slot l (d.toNat + j) = v l

/-- The word goes on in every lane of M: it leaves `v l` in D and changes nothing else (`sr`: the generators of M may step). -/
def Computes (s : State) (i : Instr) (d : BitVec 8) (sr : Bool) (v : Nat → Word) : Prop :=
  ∃ t, exec i s = .next t ∧ OnlyRegs s t i (dsts d 1) sr ∧ Gives s t i d 0 v

/-- Lane l alone issues the word, and it executes there. -/
structure State.Alone (s : State) (i : Instr) (l : Nat) : Prop where
  clear : s.clear i
  issues : s.issuing i = [l]
  guarded : s.lanesM i = [l]

/-- From u to t, lane l of a warp has gone past its word, and its registers `ds` wait for reply k (R78). Requests and replies aside,
nothing else has changed. -/
structure Waits (c w l : Nat) (ds : List Nat) (k : Nat) (u t : State) : Prop where
  rest : t = { u with marks := t.marks, umarks := t.umarks, lanes := t.lanes, reqs := t.reqs, replies := t.replies, seq := t.seq }
  waits : ∀ r ∈ ds, r < 192 → (t.mark c w l r).pend = k + 1
  vector : ∀ x, (∀ r ∈ ds, r < 128 → x ≠ u.poolKey c w r l) → t.marks.get {} x = u.marks.get {} x
  uniform : ∀ x, (∀ r ∈ ds, 128 ≤ r → r < 192 → x ≠ uregKey c w (r - 128)) → t.umarks.get {} x = u.umarks.get {} x
  others : ∀ x, x ≠ laneKey c w l → t.lanes.get {} x = u.lanes.get {} x
  stands : ∃ sh, t.lane c w l = { (u.lane c w l).next with shadow := sh }

end Sys2Proof.Machine
end

