-- ==== Sys2Proof/Certificates/Slice0/Obligations.lean ====
section
/-! DEFINITION. The statements for the provers, each with the terms that it alone uses. `s.clear i` (Safety.lean) says that the
instance of s executes i: the checks of R82 pass and no source brings a fault. -/

open Sys2Proof Sys2Proof.Machine

namespace Sys2Proof.Claims

-- Computation in registers

/-- The number that an integer type gives a code, and subelement e of a register (R66, R113). -/
def codeInt (t : Ty) (c : Nat) : Int := if t.signed && decide (2 ^ (t.width - 1) ≤ c) then (c : Int) - 2 ^ t.width else c
def elemInt (t : Ty) (x : Word) (e : Nat) : Int := codeInt t (getE x t.width e)

/-- How R114 writes an exact integer result: mod 2^w, or the nearest value of the type under `.sat`. -/
def written (t : Ty) (sat : Bool) (x : Int) : Int :=
  let y := if !sat then x
    else if t.signed then max (-2 ^ (t.width - 1)) (min x (2 ^ (t.width - 1) - 1))
    else max 0 (min x (2 ^ t.width - 1))
  y % 2 ^ t.width

/-- A value that an ALU word leaves in D, subelement by subelement: the function's where the word computes, and D's own where `.lo`
leaves it (R109, R110). -/
def eachElem (s : State) (f : Alu) (w l : Nat) (v : Word) (g : Nat → Int) : Prop :=
  ∀ e < 64 / w, (getE v w e : Int) =
    if f.lo && e != 0 then (getE (s.op64 s.cur.core s.cur.slot l f.d) w e : Int) else g e

/-- Source operands A, B and C of an ALU word in lane l; A through its selector (R57). -/
def srcA (s : State) (f : Alu) (l : Nat) : Word := s.opA s.cur.core s.cur.slot l f f.ty
def srcB (s : State) (f : Alu) (l : Nat) : Word := s.opnd s.cur.core s.cur.slot l f.ty f.b
def srcC (s : State) (f : Alu) (l : Nat) : Word := s.opnd s.cur.core s.cur.slot l f.ty f.c

/-- Two-operand integer words: the instruction, whether it saturates, its exact effect (R113, R115). -/
def intWords (f : Alu) : List (Instr × Bool × (Int → Int → Int)) :=
  [(.add f, f.sat, fun a b => a + b), (.sub f, f.sat, fun a b => a - b), (.mul f, f.sat, fun a b => a * b),
   (.mulh f, false, fun a b => a * b / 2 ^ f.ty.width), (.min f, false, fun a b => min a b), (.max f, false, fun a b => max a b),
   (.abs f, f.sat, fun a _ => |a|), (.neg f, f.sat, fun a _ => -a)]

/-- Quotient and remainder (R115): of division towards zero, or of a zero divisor. -/
def divisionWords (f : Alu) : List (Instr × (Int → Int → Int)) :=
  [(.div f, fun a b => if b = 0 then 2 ^ f.ty.width - 1 else a.tdiv b), (.rem f, fun a b => if b = 0 then a else a - a.tdiv b * b)]

/-- The word raises an illegal-instruction trap in whatever state it is issued (R82). -/
def Illegal (i : Instr) : Prop := i.wf = false ∧ ∀ (s : State) (ls : List Nat), ∃ detail, s.check i ls = some (0x01, detail)

/-- The immediate forms and the number that IMM16 supplies: sign-extended (R118). -/
def immWords (f : Imm) : List (Instr × (Int → Int → Int)) :=
  [(.addImm f, fun a b => a + b), (.subImm f, fun a b => a - b), (.mulImm f, fun a b => a * b),
   (.minImm f, fun a b => min a b), (.maxImm f, fun a b => max a b)]

/-- Words on bit patterns: bit j of a result subelement from the bits of A, of B, of C and of D as it stood (R119-R121). -/
def bitWords (f : Alu) : List (Instr × (Nat → Nat → Nat → Nat → Bool)) :=
  let w := f.ty.width
  [(.and f, fun a b _ j => a.testBit j && b.testBit j),
   (.or f, fun a b _ j => a.testBit j || b.testBit j),
   (.xor f, fun a b _ j => a.testBit j != b.testBit j),
   (.andn f, fun a b _ j => a.testBit j && !b.testBit j),
   (.not f, fun a _ _ j => !a.testBit j),
   (.shl f, fun a b _ j => decide (b ≤ j) && a.testBit (j - b)),
   (.shr f, fun a b _ j => a.testBit (j + b)),
   (.sar f, fun a b _ j => a.testBit (Nat.min (j + b) (w - 1))),
   (.rot f, fun a b _ j => a.testBit ((j + w - b % w) % w)),
   (.brev f, fun a _ _ j => a.testBit (w - 1 - j)),
   (.bfx f, fun a b _ j =>
     let pos := b % 256
     let len := Nat.min (b / 256 % 256) (w - pos)
     if w ≤ pos ∨ len = 0 then false else if j < len then a.testBit (pos + j) else f.ty.signed && a.testBit (pos + len - 1)),
   (.bfi f, fun a b c j =>
     let pos := b % 256
     let len := Nat.min (b / 256 % 256) (w - pos)
     if pos ≤ j ∧ j < pos + len then a.testBit (j - pos) else c.testBit j)]

/-- Immediate forms on bit patterns: B is IMM16, zero-extended for the logic words, sign-extended and then unsigned for the
shifts (R119). -/
def bitImmWords (f : Imm) : List (Instr × Bool × (Nat → Nat → Nat → Bool)) :=
  let w := f.ty.width
  [(.andImm f, false, fun a b j => a.testBit j && b.testBit j),
   (.orImm f, false, fun a b j => a.testBit j || b.testBit j),
   (.xorImm f, false, fun a b j => a.testBit j != b.testBit j),
   (.shlImm f, true, fun a b j => decide (b ≤ j) && a.testBit (j - b)),
   (.shrImm f, true, fun a b j => a.testBit (j + b)),
   (.sarImm f, true, fun a b j => a.testBit (Nat.min (j + b) (w - 1))),
   (.rotImm f, true, fun a b j => a.testBit ((j + w - b % w) % w))]

/-- Counting words, as what the count says of the bits of A (R119). -/
def countWords (f : Alu) : List (Instr × (Nat → Nat → Prop)) :=
  let w := f.ty.width
  [(.popc f, fun a n => n = (List.range w).countP fun j => a.testBit j),
   (.clz f, fun a n => n ≤ w ∧ (∀ j < n, a.testBit (w - 1 - j) = false) ∧ (n < w → a.testBit (w - 1 - n) = true)),
   (.ctz f, fun a n => n ≤ w ∧ (∀ j < n, a.testBit j = false) ∧ (n < w → a.testBit n = true))]

end Sys2Proof.Claims

open Sys2Proof.Claims

/-- R113, R114: the integer words of one or two operands leave their exact result, written by R114, in each subelement that they
compute, and change nothing but D and where the lanes stand. -/
def Sys2Proof.Claims.Integer_words : Prop := ∀ (s : State) (f : Alu), ∀ x ∈ intWords f, s.clear x.1 →
  ∃ v, Computes s x.1 f.d false v ∧ ∀ l ∈ s.lanesM x.1,
    eachElem s f f.ty.width l (v l) fun e =>
      written f.ty x.2.1 (x.2.2 (elemInt f.ty (srcA s f l) e) (elemInt f.ty (srcB s f l) e))

/-- R115: division truncates towards zero; a zero divisor gives all ones as the quotient and the dividend as the remainder. -/
def Sys2Proof.Claims.Division_words : Prop := ∀ (s : State) (f : Alu), ∀ x ∈ divisionWords f, s.clear x.1 →
  ∃ v, Computes s x.1 f.d false v ∧ ∀ l ∈ s.lanesM x.1, eachElem s f f.ty.width l (v l) fun e =>
    x.2 (elemInt f.ty (srcA s f l) e) (elemInt f.ty (srcB s f l) e) % 2 ^ f.ty.width

/-- R113, R117: the words with three sources, `lea` and `sad`. -/
def Sys2Proof.Claims.Multiply_add_words : Prop := ∀ (s : State) (f : Alu),
  (s.clear (.mad f) → ∃ v, Computes s (.mad f) f.d false v ∧ ∀ l ∈ s.lanesM (.mad f),
    eachElem s f f.ty.width l (v l) fun e => written f.ty f.sat
      (elemInt f.ty (s.opnd s.cur.core s.cur.slot l f.ty f.a) e * elemInt f.ty (srcB s f l) e + elemInt f.ty (srcC s f l) e)) ∧
  (s.clear (.dot4 f) → ∃ v, Computes s (.dot4 f) f.d false v ∧ ∀ l ∈ s.lanesM (.dot4 f),
    eachElem s f f.ty.width l (v l) fun j => written f.ty f.sat (elemInt f.ty (srcC s f l) j +
      ((List.range (f.ty.width / 8)).map fun i =>
        let t : Ty := if f.ty.signed then .i8 else .n8
        elemInt t (s.opnd s.cur.core s.cur.slot l f.ty f.a) (f.ty.width / 8 * j + i) *
          elemInt t (srcB s f l) (f.ty.width / 8 * j + i)).sum)) ∧
  (s.clear (.dot2 f) → ∃ v, Computes s (.dot2 f) f.d false v ∧ ∀ l ∈ s.lanesM (.dot2 f),
    eachElem s f f.ty.width l (v l) fun j => written f.ty f.sat (elemInt f.ty (srcC s f l) j +
      ((List.range (f.ty.width / 16)).map fun i =>
        let t : Ty := if f.ty.signed then .i16 else .n16
        elemInt t (s.opnd s.cur.core s.cur.slot l f.ty f.a) (f.ty.width / 16 * j + i) *
          elemInt t (srcB s f l) (f.ty.width / 16 * j + i)).sum)) ∧
  (s.clear (.lea f) → Computes s (.lea f) f.d false fun l =>
    BitVec.ofNat 64 ((srcA s f l).toNat + (srcB s f l).toNat * 2 ^ f.opx.toNat)) ∧
  (s.clear (.sad f) → Computes s (.sad f) f.d false fun l =>
    BitVec.ofNat 64 ((s.op64 s.cur.core s.cur.slot l f.c).toNat +
      ((List.range (if f.lo then 1 else 64 / f.ty.width)).map fun e =>
        (elemInt f.ty (s.opnd s.cur.core s.cur.slot l f.ty f.a) e - elemInt f.ty (srcB s f l) e).natAbs).sum))


/-- R118: the immediate forms take IMM16, sign-extended to the subelement width, as B; where that width is 8, an IMM16 that is no sign
extension is illegal. -/
def Sys2Proof.Claims.Immediate_words : Prop := ∀ (s : State) (f : Imm), ∀ x ∈ immWords f,
  (s.clear x.1 → ∃ v, Computes s x.1 f.d false v ∧ ∀ l ∈ s.lanesM x.1, ∀ e < 64 / f.ty.width,
    (getE (v l) f.ty.width e : Int) = x.2 (elemInt f.ty (s.opnd s.cur.core s.cur.slot l f.ty f.a) e)
      (codeInt f.ty (f.imm.toInt % 2 ^ f.ty.width).toNat) % 2 ^ f.ty.width) ∧
  (f.ty.width = 8 → ¬(-2 ^ 7 ≤ f.imm.toInt ∧ f.imm.toInt < 2 ^ 7) → Illegal x.1)

/-- R119, R120, R121: the words on bit patterns, bit by bit; the counting words; the immediate forms. -/
def Sys2Proof.Claims.Bit_words : Prop :=
  (∀ (s : State) (f : Alu), ∀ x ∈ bitWords f, s.clear x.1 → ∃ v, Computes s x.1 f.d false v ∧ ∀ l ∈ s.lanesM x.1,
    ∀ e < 64 / f.ty.width, ∀ j < f.ty.width, (getE (v l) f.ty.width e).testBit j =
      if f.lo && e != 0 then (getE (s.op64 s.cur.core s.cur.slot l f.d) f.ty.width e).testBit j
      else x.2 (getE (srcA s f l) f.ty.width e) (getE (srcB s f l) f.ty.width e) (getE (srcC s f l) f.ty.width e) j) ∧
  (∀ (s : State) (f : Alu), ∀ x ∈ countWords f, s.clear x.1 → ∃ v, Computes s x.1 f.d false v ∧ ∀ l ∈ s.lanesM x.1,
    ∀ e < 64 / f.ty.width,
      if f.lo && e != 0 then getE (v l) f.ty.width e = getE (s.op64 s.cur.core s.cur.slot l f.d) f.ty.width e
      else x.2 (getE (srcA s f l) f.ty.width e) (getE (v l) f.ty.width e)) ∧
  (∀ (s : State) (f : Imm), ∀ x ∈ bitImmWords f, s.clear x.1 → ∃ v, Computes s x.1 f.d false v ∧ ∀ l ∈ s.lanesM x.1,
    ∀ e < 64 / f.ty.width, ∀ j < f.ty.width, (getE (v l) f.ty.width e).testBit j =
      x.2.2 (getE (s.opnd s.cur.core s.cur.slot l f.ty f.a) f.ty.width e)
        (if x.2.1 then (f.imm.toInt % 2 ^ f.ty.width).toNat else f.imm.toNat) j)

/-- R119, R122: selecting and moving; `mov.b128` copies two registers, and `movw` one halfword. -/
def Sys2Proof.Claims.Move_words : Prop := ∀ (s : State),
  (∀ f : Alu, s.clear (.sel f) → ∃ v, Computes s (.sel f) f.d false v ∧ ∀ l ∈ s.lanesM (.sel f),
    eachElem s f f.ty.width l (v l) fun e =>
      if s.rdPred s.cur.core s.cur.slot l f.c.toNat then (getE (s.opnd s.cur.core s.cur.slot l f.ty f.a) f.ty.width e : Int)
      else getE (srcB s f l) f.ty.width e) ∧
  (∀ f : Alu, f.ty ≠ .b128 → s.clear (.mov f) → ∃ v, Computes s (.mov f) f.d false v ∧ ∀ l ∈ s.lanesM (.mov f),
    eachElem s f f.ty.width l (v l) fun e => (getE (srcA s f l) f.ty.width e : Int)) ∧
  (∀ f : Alu, f.ty = .b128 → s.clear (.mov f) → ∃ t, exec (.mov f) s = .next t ∧ OnlyRegs s t (.mov f) (dsts f.d 2) false ∧
    Gives s t (.mov f) f.d 0 (fun l => s.opnd s.cur.core s.cur.slot l .b128 f.a) ∧
    Gives s t (.mov f) f.d 1 (fun l => s.opndAt s.cur.core s.cur.slot l f.a 1)) ∧
  (∀ f : Imm, s.clear (.movw f) → ∃ v, Computes s (.movw f) f.d false v ∧ ∀ l ∈ s.lanesM (.movw f), ∀ e < 4,
    getE (v l) 16 e = if e = f.a.toNat then f.imm.toNat else getE (s.op64 s.cur.core s.cur.slot l f.d) 16 e)

/-- R116: sum and difference with a carry or borrow, which D+1 receives. -/
def Sys2Proof.Claims.Carry_words : Prop := ∀ (s : State) (f : Alu),
  ∀ x ∈ [(Instr.addc f, fun (a b k : Int) => (a + b + k, decide (2 ^ f.ty.width ≤ a + b + k))),
         (Instr.subb f, fun (a b k : Int) => (a - b - k, decide (a - b - k < 0)))],
  (¬(f.d.toNat < 192 ∧ f.d.toNat ≠ 127 ∧ f.d.toNat ≠ 191) → Illegal x.1) ∧
  (s.clear x.1 → ∃ t v u, exec x.1 s = .next t ∧ OnlyRegs s t x.1 (dsts f.d 2) false ∧ Gives s t x.1 f.d 0 v ∧ Gives s t x.1 f.d 1 u ∧
    ∀ l ∈ s.lanesM x.1, ∀ e < 64 / f.ty.width,
      let r := x.2 (getE (s.opnd s.cur.core s.cur.slot l f.ty f.a) f.ty.width e) (getE (srcB s f l) f.ty.width e)
        (getE (srcC s f l) f.ty.width e % 2 : Nat)
      (getE (v l) f.ty.width e : Int) =
        (if f.lo && e != 0 then (getE (s.op64 s.cur.core s.cur.slot l f.d) f.ty.width e : Int) else r.1 % 2 ^ f.ty.width) ∧
      getE (u l) f.ty.width e =
        if f.lo && e != 0 then getE (s.opndAt s.cur.core s.cur.slot l f.d 1) f.ty.width e else if r.2 then 1 else 0)

namespace Sys2Proof.Claims

/-- A word that writes predicate D alone: in each lane of M it leaves the truth of `v l`, discarded where D is p7 (R59). -/
def Decides (s : State) (i : Instr) (d : BitVec 8) (v : Nat → Prop) : Prop :=
  ∃ t, exec i s = .next t ∧ OnlyRegs s t i [256 + d.toNat % 8] false ∧
    (d.toNat % 8 ≠ 7 → ∀ l ∈ s.lanesM i, ((t.lane s.cur.core s.cur.slot l).preds.getLsbD (d.toNat % 8) = true ↔ v l))

/-- The six conditions of `cmp` (R123). -/
def condition (op : Nat) (a b : Int) : Prop :=
  match op with
  | 0 => a = b | 1 => a ≠ b | 2 => a < b | 3 => a ≤ b | 4 => b < a | _ => b ≤ a

/-- The eight operations of `plop` and the four of `pmov` (R124). -/
def predOp (op : Nat) (a b : Prop) : Prop :=
  match op with
  | 0 => a ∧ b | 1 => a ∨ b | 2 => ¬(a ↔ b) | 3 => a ∧ ¬b | 4 => ¬(a ∧ b) | 5 => ¬(a ∨ b) | 6 => (a ↔ b) | _ => a ∨ ¬b
def predMove (op : Nat) (a : Prop) : Prop :=
  match op with
  | 0 => a | 1 => ¬a | 2 => True | _ => False

end Sys2Proof.Claims


namespace Sys2Proof.Claims

-- Floating results in real numbers: a rational value here, rounding and overflow by the model's RND (R97, R100)

/-- A floating operand or exact result: NaN, an infinity, or a rational with the sign that it has where it is zero. -/
inductive ExtQ
  | nan
  | inf (neg : Bool)
  | val (x : ℚ) (neg : Bool)

/-- The value of a code's reading. -/
def extQ : FV → ExtQ
  | .nan => .nan
  | .inf n => .inf n
  | .fin n m e => .val ((if n then -1 else 1) * (m : ℚ) * (2 : ℚ) ^ e) n

/-- The value of subelement e of a register in a floating type. -/
def elemExt (t : Ty) (x : Word) (e : Nat) : ExtQ := extQ ((tyFlt t).val (getE x t.width e))

def ExtQ.isNan : ExtQ → Bool
  | .nan => true
  | _ => false
def ExtQ.isInf (neg : Bool) : ExtQ → Bool
  | .inf n => n == neg
  | _ => false
/-- A zero of a sign. -/
def ExtQ.isZero (neg : Bool) : ExtQ → Bool
  | .val x n => decide (x = 0) && n == neg
  | _ => false
def ExtQ.rat : ExtQ → ℚ
  | .val x _ => x
  | _ => 0
def ExtQ.sign : ExtQ → Bool
  | .nan => false
  | .inf n | .val _ n => n

/-- A sum of terms: NaN beside any NaN and for ∞ − ∞, and the sign of a zero sum by R126. -/
def sumR (rm : Rm) (ts : List ExtQ) : ExtQ :=
  if ts.any ExtQ.isNan || (ts.any (ExtQ.isInf true) && ts.any (ExtQ.isInf false)) then .nan
  else if ts.any (ExtQ.isInf true) then .inf true
  else if ts.any (ExtQ.isInf false) then .inf false
  else .val (ts.map ExtQ.rat).sum
    (if ts.all (ExtQ.isZero true) then true else if ts.all (ExtQ.isZero false) then false else rm == .rdn)

/-- A product: NaN beside any NaN and for 0 × ∞; its sign by XOR. -/
def mulR (a b : ExtQ) : ExtQ :=
  match a, b with
  | .nan, _ | _, .nan => .nan
  | .inf s, .inf t => .inf (s != t)
  | .inf s, .val y t | .val y t, .inf s => if y = 0 then .nan else .inf (s != t)
  | .val x s, .val y t => .val (x * y) (s != t)

/-- A quotient, with the operands of R130's table. -/
def divR (a b : ExtQ) : ExtQ :=
  match a, b with
  | .nan, _ | _, .nan => .nan
  | .inf _, .inf _ => .nan
  | .inf s, .val _ t => .inf (s != t)
  | .val _ s, .inf t => .val 0 (s != t)
  | .val x s, .val y t => if y = 0 then (if x = 0 then .nan else .inf (s != t)) else .val (x / y) (s != t)

def negR : ExtQ → ExtQ
  | .nan => .nan
  | .inf n => .inf !n
  | .val x n => .val (-x) !n

/-- The exact value of what RND takes. -/
def exactQ : XV → Option (ℚ × Bool)
  | .num n a d e => some ((if n then -1 else 1) * (a : ℚ) / d * (2 : ℚ) ^ e, n)
  | _ => none

/-- Code c of a format is the exact result r, rounded once (R125): the canonical NaN, an infinite result (R100), or RND of a value
that equals it, whose sign matters where it is zero; only `.sr` takes a draw. -/
def once (t : Fmt) (rm : Rm) (sat : Bool) (c : Nat) (r : ExtQ) : Prop :=
  match r with
  | .nan => c = t.nanCode
  | .inf n => c = t.infinite sat n
  | .val x n => ∃ q y m u, exactQ q = some (y, m) ∧ y = x ∧ (x = 0 → m = n) ∧ u < 2 ^ 32 ∧ (rm ≠ .sr → u = 0) ∧ c = t.round rm sat u q

/-- A floating word goes on in every lane of M: each subelement of width w that it computes meets g, `.lo` keeps the others, one
generator step is taken for each computed subelement under `.sr` (R98), and nothing else changes. -/
def Floats (s : State) (i : Instr) (f : Alu) (w : Nat) (g : Nat → Nat → Nat → Prop) : Prop :=
  ∃ t v, exec i s = .next t ∧ OnlyRegs s t i (dsts f.d 1) (f.rm == .sr) ∧ Gives s t i f.d 0 v ∧
    (∀ l ∈ s.lanesM i, (t.lane s.cur.core s.cur.slot l).gen =
      srStep^[if f.rm = .sr then (if f.lo then 1 else 64 / w) else 0] (s.lane s.cur.core s.cur.slot l).gen) ∧
    ∀ l ∈ s.lanesM i, ∀ e < 64 / w,
      if f.lo && e != 0 then getE (v l) w e = getE (s.op64 s.cur.core s.cur.slot l f.d) w e else g l e (getE (v l) w e)

/-- The values of the sources in subelement e. -/
def valA (s : State) (f : Alu) (l e : Nat) : ExtQ := elemExt f.ty (srcA s f l) e
def valB (s : State) (f : Alu) (l e : Nat) : ExtQ := elemExt f.ty (srcB s f l) e

/-- Floating words of two sources and their exact results (R127, R130). -/
def floatWords (f : Alu) : List (Instr × (ExtQ → ExtQ → ExtQ)) :=
  [(.fadd f, fun a b => sumR f.rm [a, b]), (.fsub f, fun a b => sumR f.rm [a, negR b]), (.fmul f, mulR), (.fdiv f, divR),
   (.frcp f, fun a _ => divR (.val 1 false) a)]

/-- r is x rounded to an integer (R97); `.sr` takes either neighbour. -/
def roundsTo (rm : Rm) (x : ℚ) (r : Int) : Prop :=
  match rm with
  | .rtz => |(r : ℚ)| ≤ |x| ∧ |x| < |(r : ℚ)| + 1 ∧ 0 ≤ x * r
  | .rdn => r = ⌊x⌋
  | .rup => r = ⌈x⌉
  | .rne => |x - r| ≤ 1 / 2 ∧ (|x - r| = 1 / 2 → r % 2 = 0)
  | .rna => |x - r| ≤ 1 / 2 ∧ (|x - r| = 1 / 2 → |x| < |(r : ℚ)|)
  | .sr => r = ⌊x⌋ ∨ r = ⌈x⌉

/-- Order of values with −0 below +0 (R128). -/
def leR : ExtQ → ExtQ → Prop
  | .nan, _ | _, .nan => False
  | .inf true, _ | _, .inf false => True
  | _, .inf true | .inf false, _ => False
  | .val x m, .val y n => x < y ∨ (x = y ∧ (x = 0 → m = false → n = false))

/-- c is the lesser, or with `mx` the greater, of the codes a and b; a NaN yields the other, two NaNs the canonical one (R128). -/
def isMinMax (t : Fmt) (mx : Bool) (a b c : Nat) : Prop :=
  let v := fun x => extQ (t.val x)
  match (v a).isNan, (v b).isNan with
  | true, true => c = t.nanCode
  | true, false => c = b
  | false, true => c = a
  | false, false => (c = a ∨ c = b) ∧ if mx then leR (v a) (v c) ∧ leR (v b) (v c) else leR (v c) (v a) ∧ leR (v c) (v b)

/-- The conditions of `fcmp` (R123); −0 equals +0. -/
def fcondition (op : Nat) (a b : ExtQ) : Prop :=
  let ord := a.isNan = false ∧ b.isNan = false
  let lt := fun (a b : ExtQ) => match a, b with
    | .nan, _ | _, .nan => False
    | .inf m, .inf n => m = true ∧ n = false
    | .inf m, .val .. => m = true
    | .val .., .inf n => n = false
    | .val x _, .val y _ => x < y
  match op with
  | 0 => ord ∧ ¬lt a b ∧ ¬lt b a
  | 1 => ¬(ord ∧ ¬lt a b ∧ ¬lt b a)
  | 2 => lt a b
  | 3 => ord ∧ ¬lt b a
  | 4 => lt b a
  | 5 => ord ∧ ¬lt a b
  | 6 => ¬ord
  | _ => ord

/-- The bit that `fcls` sets (R128). -/
def classBit (t : Fmt) (r : ExtQ) : Nat :=
  match r with
  | .nan => 0
  | .inf n => if n then 1 else 8
  | .val x n =>
    if x = 0 then (if n then 4 else 5)
    else if |x| < (2 : ℚ) ^ (1 - (t.B : Int)) then (if n then 3 else 6) else if n then 2 else 7

end Sys2Proof.Claims

/-- R125, R126, R127, R130: sums, differences, products and quotients are the exact result of the operands, rounded once.
A generator step for NaN and infinite results is the model's reading: log entry 84. -/
def Sys2Proof.Claims.Float_arithmetic : Prop := ∀ (s : State) (f : Alu),
  (∀ x ∈ floatWords f, s.clear x.1 → Floats s x.1 f f.ty.width fun l e c =>
    once (tyFlt f.ty) f.rm f.sat c (x.2 (valA s f l e) (valB s f l e))) ∧
  (s.clear (.fma f) → Floats s (.fma f) f f.ty.width fun l e c =>
    once (tyFlt f.ty) f.rm f.sat c (sumR f.rm
      [mulR (elemExt f.ty (s.opnd s.cur.core s.cur.slot l f.ty f.a) e) (valB s f l e), elemExt f.ty (srcC s f l) e])) ∧
  (s.clear (.fdot2 f) → Floats s (.fdot2 f) f 32 fun l j c =>
    let a := fun i => elemExt f.ty (s.opnd s.cur.core s.cur.slot l f.ty f.a) i
    once f32 f.rm f.sat c (sumR f.rm [extQ (f32.val (getE (s.opnd s.cur.core s.cur.slot l .f32 f.c) 32 j)),
      mulR (a (2 * j)) (valB s f l (2 * j)), mulR (a (2 * j + 1)) (valB s f l (2 * j + 1))]))

/-- R123, R124: `cmp`, `fcmp`, `plop` and `pmov` write predicate D in each lane of M; p7 discards (R59). The forms that the rules do not
allow are illegal. -/
def Obligations.Predicate_words : Prop := ∀ (s : State) (f : Alu),
  (s.clear (.cmp f) → Decides s (.cmp f) f.d fun l => ∀ e < (if f.lo then 1 else 64 / f.ty.width),
    condition f.opx.toNat (elemInt f.ty (srcA s f l) e) (elemInt f.ty (srcB s f l) e)) ∧
  (s.clear (.fcmp f) → Decides s (.fcmp f) f.d fun l => ∀ e < (if f.lo then 1 else 64 / f.ty.width),
    fcondition f.opx.toNat (valA s f l e) (valB s f l e)) ∧
  (f.opx.toNat = 6 ∨ f.opx.toNat = 7 ∨ f.rm ≠ .rne ∨ f.sat = true → Illegal (.cmp f)) ∧
  (f.rm ≠ .rne ∨ f.sat = true → Illegal (.fcmp f)) ∧
  (s.clear (.plop f) → Decides s (.plop f) f.d fun l => predOp f.opx.toNat
    (s.rdPred s.cur.core s.cur.slot l f.a.toNat = true) (s.rdPred s.cur.core s.cur.slot l f.b.toNat = true)) ∧
  (s.clear (.pmov f) → Decides s (.pmov f) f.d fun l => predMove f.opx.toNat (s.rdPred s.cur.core s.cur.slot l f.a.toNat = true)) ∧
  (f.ty ≠ .n64 → Illegal (.plop f) ∧ Illegal (.pmov f)) ∧
  (4 ≤ f.opx.toNat ∨ f.b ≠ 0xC0 → Illegal (.pmov f))

/-- R127: scaling, fractions and rounding to an integer. -/
def Sys2Proof.Claims.Float_scale_and_round : Prop := ∀ (s : State) (f : Alu),
  (s.clear (.fscale f) → Floats s (.fscale f) f f.ty.width fun l e c =>
    let b := intVal true f.ty.width (getE (s.opnd s.cur.core s.cur.slot l (intTy f.ty) f.b) f.ty.width e)
    once (tyFlt f.ty) f.rm f.sat c (match valA s f l e with
      | .val x n => .val (x * (2 : ℚ) ^ (max (-5000) (min 5000 b))) n
      | r => r)) ∧
  (s.clear (.fract f) → Floats s (.fract f) f f.ty.width fun l e c =>
    once (tyFlt f.ty) f.rm f.sat c (match valA s f l e with | .val x _ => .val (x - ⌊x⌋) false | _ => .nan)) ∧
  (s.clear (.frnd f) → Floats s (.frnd f) f f.ty.width fun l e c =>
    match valA s f l e with
    | .val x n => ∃ r : Int, roundsTo f.rm x r ∧ once (tyFlt f.ty) .rne f.sat c (.val r n)
    | r => once (tyFlt f.ty) .rne f.sat c r)

/-- R128: minimum and maximum, classes. -/
def Sys2Proof.Claims.Float_order : Prop := ∀ (s : State) (f : Alu),
  (∀ x ∈ [(Instr.fmin f, false), (Instr.fmax f, true)], s.clear x.1 → ∃ v, Computes s x.1 f.d false v ∧ ∀ l ∈ s.lanesM x.1,
    ∀ e < 64 / f.ty.width, let c := getE (v l) f.ty.width e
      if f.lo && e != 0 then c = getE (s.op64 s.cur.core s.cur.slot l f.d) f.ty.width e
      else isMinMax (tyFlt f.ty) x.2 (getE (srcA s f l) f.ty.width e) (getE (srcB s f l) f.ty.width e) c) ∧
  (s.clear (.fcls f) → ∃ v, Computes s (.fcls f) f.d false v ∧ ∀ l ∈ s.lanesM (.fcls f),
    eachElem s f f.ty.width l (v l) fun e => 2 ^ classBit (tyFlt f.ty) (valA s f l e))

namespace Sys2Proof.Claims

/-- Words of R130 and R132 with the operands that their tables list; `none` where the algorithm or the root decides. -/
def specialResult (i : Instr) (r : ExtQ) : Option ExtQ :=
  match i, r with
  | .fsqrt _, .nan | .frsq _, .nan | .fexp2 _, .nan | .flog2 _, .nan | .fsin _, .nan | .fcos _, .nan => some .nan
  | .fsqrt _, .inf n => some (if n then .nan else .inf false)
  | .frsq _, .inf n => some (if n then .nan else .val 0 false)
  | .fexp2 _, .inf n => some (if n then .val 0 false else .inf false)
  | .flog2 _, .inf n => some (if n then .nan else .inf false)
  | .fsin _, .inf _ | .fcos _, .inf _ => some .nan
  | .fsqrt _, .val x n => if x = 0 then some (.val 0 n) else if x < 0 then some .nan else none
  | .frsq _, .val x n => if x = 0 then some (.inf n) else if x < 0 then some .nan else none
  | .flog2 _, .val x _ => if x = 0 then some (.inf true) else if x < 0 then some .nan else none
  | .fexp2 _, .val x _ | .fcos _, .val x _ => if x = 0 then some (.val 1 false) else none
  | .fsin _, .val x n => if x = 0 then some (.val 0 n) else none
  | _, _ => none

end Sys2Proof.Claims

/-- R130, R131, R132: roots, exponential, logarithm, sine and cosine: one rounding of a value that the operand alone determines, and
the listed operands. -/
def Sys2Proof.Claims.Float_functions : Prop := ∀ (s : State) (f : Alu),
  ∀ x ∈ [(Instr.fsqrt f, FV.sqrt), (Instr.frsq f, FV.rsqrt), (Instr.fexp2 f, FV.exp2), (Instr.flog2 f, FV.log2),
         (Instr.fsin f, FV.sincos 0), (Instr.fcos f, FV.sincos 1)],
  s.clear x.1 → Floats s x.1 f f.ty.width fun l e c =>
    (∃ u, u < 2 ^ 32 ∧ (f.rm ≠ .sr → u = 0) ∧
      c = (tyFlt f.ty).round f.rm f.sat u (x.2 ((tyFlt f.ty).val (getE (srcA s f l) f.ty.width e)))) ∧
    ∀ r, specialResult x.1 (valA s f l e) = some r → once (tyFlt f.ty) f.rm f.sat c r

/-- R129: which source subelement `cvt` converts into which subelement of D, and what becomes of the others. -/
def Sys2Proof.Claims.Conversion_words : Prop := ∀ (s : State) (f : Alu) (src : Ty), f.cvtSrc = some src → s.clear (.cvt f) →
  ∃ t v, exec (.cvt f) s = .next t ∧ OnlyRegs s t (.cvt f) (dsts f.d 1) (f.rm == .sr) ∧ Gives s t (.cvt f) f.d 0 v ∧
    ∀ l ∈ s.lanesM (.cvt f),
      let a := s.opnd s.cur.core s.cur.slot l src f.a
      let n := 64 / max src.width f.ty.width
      let wide := decide (src.width < f.ty.width)
      let first := if f.hi && !wide then n else 0
      ∀ e < 64 / f.ty.width, let c := getE (v l) f.ty.width e
        if (f.lo && e != first) || (f.hi && !wide && decide (e < n)) then c = getE (s.op64 s.cur.core s.cur.slot l f.d) f.ty.width e
        else if e < first ∨ first + n ≤ e then c = 0
        else ∃ u, u < 2 ^ 32 ∧ (f.rm ≠ .sr → u = 0) ∧
          c = cvt (tyNum src (f.opx.getLsbD 0) (f.opx.getLsbD 1)) (tyNum f.ty (f.opx.getLsbD 0) (f.opx.getLsbD 1)) f.rm f.sat u
            (getE a src.width (if f.hi && wide then n + (e - first) else e - first)) % 2 ^ f.ty.width

/-- R102, R104: conversions into integers clamp, send NaN to 0, and between integers saturate or truncate. -/
def Sys2Proof.Claims.Integer_conversion : Prop :=
  (∀ (g : Fmt) (sg : Bool) (w : Nat) (rm : Rm) (sat : Bool) (u c : Nat), 0 < w →
    let y := cvt (.flt g) (.int sg w) rm sat u c
    match extQ (g.val c) with
    | .nan => y = 0
    | .inf n => (y : Int) = (if n then intMin sg w else intMax sg w) % 2 ^ w
    | .val x _ => ∃ r : Int, (rm = .sr ∨ roundsTo rm x r) ∧ (rm = .sr → r = ⌊x⌋ ∨ r = ⌈x⌉) ∧
        (y : Int) = max (intMin sg w) (min (intMax sg w) r) % 2 ^ w) ∧
  (∀ (sg sg' : Bool) (w w' : Nat) (rm : Rm) (sat : Bool) (u c : Nat), 0 < w → 0 < w' →
    let x := intVal sg w c
    (cvt (.int sg w) (.int sg' w') rm sat u c : Int) =
      (if sat then max (intMin sg' w') (min (intMax sg' w') x) else x) % 2 ^ w')

/-- R133: `xfm` leaves the position relative to the camera in two vector registers, and 1.0 beside it. -/
def Sys2Proof.Claims.Camera_transform : Prop := ∀ (s : State) (f : Alu), s.clear (.xfm f) →
  ∃ t v u, exec (.xfm f) s = .next t ∧ OnlyRegs s t (.xfm f) (dsts f.d 2) false ∧ Gives s t (.xfm f) f.d 0 v ∧ Gives s t (.xfm f) f.d 1 u ∧
    ∀ l ∈ s.lanesM (.xfm f),
      let a := fun j => s.opndAt s.cur.core s.cur.slot l f.a j
      let b := fun j => s.opndAt s.cur.core s.cur.slot l f.b j
      let ex := fun j => f32.val (f32.round .rne false 0 (f64.rne (sumFV .rne [f64.val (a j).toNat, (f64.val (b j).toNat).neg]).x).x)
      let q := fun i j => f32.val (getE (b (3 + (4 * i + j) / 2)) 32 ((4 * i + j) % 2))
      let row := fun i => f32.rne (sumFV .rne [(q i 2).mul (ex 2),
        f32.rne (sumFV .rne [(q i 1).mul (ex 1), f32.rne (sumFV .rne [(q i 0).mul (ex 0), q i 3]).x]).x]).x
      f32.val (getE (v l) 32 0) = row 0 ∧ f32.val (getE (v l) 32 1) = row 1 ∧ f32.val (getE (u l) 32 0) = row 2 ∧
        getE (u l) 32 1 = 0x3F800000


namespace Sys2Proof.Claims

/-- The first half of each pair word (R70). -/
def pairWords (f : Pair) : List (Instr × HOp) :=
  [(.pairAdd f, .add), (.pairSub f, .sub), (.pairMul f, .mul), (.pairMin f, .min), (.pairMax f, .max), (.pairAnd f, .and),
   (.pairOr f, .or), (.pairXor f, .xor), (.pairAndn f, .andn), (.pairShl f, .shl), (.pairShr f, .shr), (.pairSar f, .sar),
   (.pairMov f, .mov), (.pairFadd f, .fadd), (.pairFsub f, .fsub), (.pairFmul f, .fmul), (.pairFmin f, .fmin), (.pairFmax f, .fmax)]

/-- A half's operation on codes of D and S: that of the F-form word `op.type D, D, S` with RM, SAT, LO and OPX 0 (R71). -/
def halfSpec (o : HOp) (t : Ty) (a b c : Nat) : Prop :=
  let w := t.width
  let int := fun (x : Int) => (c : Int) = written t false x
  let bits := fun (g : Nat → Bool) => ∀ j < w, c.testBit j = g j
  let v := fun x => extQ ((tyFlt t).val x)
  match o with
  | .add => int (codeInt t a + codeInt t b)
  | .sub => int (codeInt t a - codeInt t b)
  | .mul => int (codeInt t a * codeInt t b)
  | .min => int (min (codeInt t a) (codeInt t b))
  | .max => int (max (codeInt t a) (codeInt t b))
  | .and => bits fun j => a.testBit j && b.testBit j
  | .or => bits fun j => a.testBit j || b.testBit j
  | .xor => bits fun j => a.testBit j != b.testBit j
  | .andn => bits fun j => a.testBit j && !b.testBit j
  | .shl => bits fun j => decide (b ≤ j) && a.testBit (j - b)
  | .shr => bits fun j => a.testBit (j + b)
  | .sar => bits fun j => a.testBit (Nat.min (j + b) (w - 1))
  | .mov => c = b
  | .fadd => once (tyFlt t) .rne false c (sumR .rne [v a, v b])
  | .fsub => once (tyFlt t) .rne false c (sumR .rne [v a, negR (v b)])
  | .fmul => once (tyFlt t) .rne false c (mulR (v a) (v b))
  | .fmin => isMinMax (tyFlt t) false a b c
  | .fmax => isMinMax (tyFlt t) true a b c

/-- Code b is what S of a half supplies in subelement e: the register's, or imm8, sign-extended in integer types and that integer's
value in float types (R71). -/
def halfSource (s : State) (c w l : Nat) (h : Half) (e b : Nat) : Prop :=
  if !h.imm then b = getE (s.rd c w l h.s.toNat) h.ty.ty.width e
  else if h.ty.ty.isI then b = (h.s.toInt % 2 ^ h.ty.ty.width).toNat
  else match extQ ((tyFlt h.ty.ty).val b) with | .val x _ => x = h.s.toInt | _ => False

end Sys2Proof.Claims

/-- R69, R71, R73: each half of a pair has the effect of its operation on registers as they stood at issue, under its own guard;
nothing else changes. -/
def Obligations.Pair_words : Prop := ∀ (s : State) (f : Pair), ∀ x ∈ pairWords f, s.clear x.1 →
  ∃ t, exec x.1 s = .next t ∧ OnlyRegs s t x.1 [f.h1.d.toNat, f.h2.d.toNat] false ∧
    ∀ l ∈ s.lanesM x.1, ∀ p ∈ [(f.h1, x.2), (f.h2, f.op2)],
      let r := t.reg s.cur.core s.cur.slot l p.1.d.toNat
      if s.guard s.cur.core s.cur.slot l (p.1.gp, p.1.gneg) then
        ∀ e < 64 / p.1.ty.ty.width, ∃ b, halfSource s s.cur.core s.cur.slot l p.1 e b ∧
          halfSpec p.2 p.1.ty.ty (getE (s.rd s.cur.core s.cur.slot l p.1.d.toNat) p.1.ty.ty.width e) b (getE r p.1.ty.ty.width e)
      else r = s.reg s.cur.core s.cur.slot l p.1.d.toNat


namespace Sys2Proof.Claims

-- Cross-lane words

/-- The member mask of a cross-lane word: bits 31:0 of C (R135). -/
def members (s : State) (i : Instr) (C : BitVec 8) : Mask := (s.op64 s.cur.core s.cur.slot ((s.issuing i).headD 0) C).setWidth 32

/-- What each member contributes, by lane: its newest register; with mask 0 the lanes of M; else every member, one that does not
execute the word false to a vote (R135, R136, R142). -/
def contributions (s : State) (i : Instr) (C : BitVec 8) : List (Nat × Word) :=
  if members s i C = 0 then (s.lanesM i).map fun l => (l, s.gives i s.cur.core s.cur.slot l)
  else (members s i C).lanes.map fun m =>
    (m, if m ∈ s.lanesM i then s.gives i s.cur.core s.cur.slot m else s.givesIdle i s.cur.core s.cur.slot m)

/-- Every member stands at the word or has ended, none brings a fault, and no instance of the team is open: the word performs at
once (R136). -/
abbrev gathered (s : State) (i : Instr) (C A : BitVec 8) : Prop :=
  s.clear i ∧ s.issuing i ≠ [] ∧ (s.team s.cur.core).cross = [] ∧ (∀ l ∈ s.lanesM i, s.sourceFault s.cur.core s.cur.slot l i.reads = none) ∧
    (members s i C ≠ 0 → ∀ m ∈ (members s i C).lanes, (m ∈ s.issuing i ∨ (s.lane s.cur.core s.cur.slot m).live = false) ∧
      s.operandFault s.cur.core s.cur.slot m A = 0 ∧ s.pendingIn s.cur.core s.cur.slot m A = false)

/-- From s to t the word has performed: D of the lanes of M and where the issuing lanes stand have changed, and nothing else. -/
structure Performed (s t : State) (i : Instr) (ds : List Nat) : Prop where
  rest : t = { s with pool := t.pool, marks := t.marks, ureg := t.ureg, umarks := t.umarks, lanes := t.lanes, teams := t.teams }
  team : t.team s.cur.core = s.team s.cur.core ∧ ∀ c, c ≠ s.cur.core → t.team c = s.team c
  vector : ∀ k, (∀ l ∈ s.lanesM i, ∀ r ∈ ds, r < 128 → k ≠ s.poolKey s.cur.core s.cur.slot r l) → t.pool.get 0 k = s.pool.get 0 k
  uniform : ∀ k, (∀ r ∈ ds, 128 ≤ r → r < 192 → k ≠ uregKey s.cur.core s.cur.slot (r - 128)) → t.ureg.get 0 k = s.ureg.get 0 k
  others : ∀ k, (∀ l ∈ s.issuing i, k ≠ laneKey s.cur.core s.cur.slot l) → t.lanes.get {} k = s.lanes.get {} k
  stands : ∀ l ∈ s.issuing i, (t.lane s.cur.core s.cur.slot l).pc = (s.lane s.cur.core s.cur.slot l).next.pc ∧
    (t.lane s.cur.core s.cur.slot l).park = .none ∧ (t.lane s.cur.core s.cur.slot l).live = true
  preds : ∀ l ∈ s.issuing i, ∀ p < 8, (256 + p ∉ ds ∨ l ∉ s.lanesM i) →
    (t.lane s.cur.core s.cur.slot l).preds.getLsbD p = (s.lane s.cur.core s.cur.slot l).preds.getLsbD p

/-- Lane and subelement that `shfl` takes for index i and count b, n subelements to a register; none keeps the lane's own (R137). -/
def shuffled (mode n i b : Nat) : Option Nat :=
  let j : Int := match mode with
    | 0 => (b % (32 * n) : Nat) | 1 => (i : Int) - b | 2 => (i : Int) + b | _ => ((i ^^^ b : Nat) : Int)
  if j < 0 ∨ 32 * n ≤ j then none else some j.toNat

/-- Combination of two float codes (R139, R128). -/
def combineFloat (t : Fmt) (rm : Rm) (sat : Bool) (op a b : Nat) : Nat :=
  match op with
  | 1 => t.minmax false a b
  | 2 => t.minmax true a b
  | _ => t.round rm sat 0 (sumFV rm [t.val a, t.val b]).x

/-- The fixed tree of `redux`: at stage s+1 position j takes the combination of j and j + 2^s; one without a member is skipped
(R139). -/
def treeAt (f : Nat → Nat → Nat) (con : Nat → Option Nat) : Nat → Nat → Option Nat
  | 0, j => con j
  | s + 1, j => match treeAt f con s j, treeAt f con s (j + 2 ^ s) with
    | some a, some b => some (f a b)
    | some a, none => some a
    | none, b => b

/-- A lone contribution: under `.sat` an infinity is the greatest finite value of its sign (R125). -/
def lone (t : Fmt) (sat : Bool) (a : Nat) : Nat := match t.val a with | .inf s => t.infinite sat s | _ => a

/-- A combination of integer codes, whatever the order (R139). -/
def combined (t : Ty) (sat : Bool) (op : Nat) (xs : List Nat) (c : Nat) : Prop :=
  match op with
  | 0 | 6 => (c : Int) = written t sat (xs.map (codeInt t)).sum
  | 1 => xs ≠ [] → c ∈ xs ∧ ∀ x ∈ xs, codeInt t c ≤ codeInt t x
  | 2 => xs ≠ [] → c ∈ xs ∧ ∀ x ∈ xs, codeInt t x ≤ codeInt t c
  | 3 => xs ≠ [] → ∀ j < t.width, c.testBit j = xs.all fun x => x.testBit j
  | 4 => ∀ j < t.width, c.testBit j = xs.any fun x => x.testBit j
  | _ => ∀ j < t.width, c.testBit j = decide ((xs.countP fun x => x.testBit j) % 2 = 1)

end Sys2Proof.Claims

/-- R135, R136, R137: `shfl` once its members stand at it.
Members whose guard is false: log entry 42; joining lanes, log entry 77; the type of a constant index, log entry 90. -/
def Sys2Proof.Claims.Shuffle : Prop := ∀ (s : State) (f : Alu), gathered s (.shfl f) f.c f.a →
  ∃ t v, exec (.shfl f) s = .next t ∧ Performed s t (.shfl f) (dsts f.d 1) ∧ Gives s t (.shfl f) f.d 0 v ∧
    ∀ l ∈ s.lanesM (.shfl f), ∀ e < 64 / f.ty.width,
      let n := 64 / f.ty.width
      getE (v l) f.ty.width e = match shuffled f.opx.toNat n (l * n + e)
          (getE (s.opnd s.cur.core s.cur.slot l (intTy f.ty) f.b) f.ty.width e) with
        | none => getE (s.opnd s.cur.core s.cur.slot l f.ty f.a) f.ty.width e
        | some j => match List.lookup (j / n) (contributions s (.shfl f) f.c) with
          | some x => getE (if j / n = l then s.opnd s.cur.core s.cur.slot l f.ty f.a else x) f.ty.width (j % n)
          | none => 0

/-- R138: `vote` once its members stand at it: all, any, all equal into a predicate, the ballot into a register.
Members whose guard is false: log entry 42; joining lanes, log entry 77. -/
def Sys2Proof.Claims.Vote : Prop := ∀ (s : State) (f : Alu), gathered s (.vote f) f.c f.a →
  ∃ t, exec (.vote f) s = .next t ∧
    let con := (contributions s (.vote f) f.c)
    if f.opx = 3 then Performed s t (.vote f) (dsts f.d 1) ∧ Gives s t (.vote f) f.d 0 fun _ =>
      BitVec.ofNat 64 ((con.filter fun x => x.2 != 0).map fun x => 2 ^ x.1).sum
    else Performed s t (.vote f) [256 + f.d.toNat % 8] ∧ (f.d.toNat % 8 ≠ 7 → ∀ l ∈ s.lanesM (.vote f),
      ((t.lane s.cur.core s.cur.slot l).preds.getLsbD (f.d.toNat % 8) = true ↔
        match f.opx.toNat with
        | 0 => ∀ x ∈ con, x.2 ≠ 0
        | 1 => ∃ x ∈ con, x.2 ≠ 0
        | _ => ∀ x ∈ con, ∀ y ∈ con, (x.2 = 0 ↔ y.2 = 0)))

/-- R139: `redux` and `scan` once their members stand at them: integers in any order, float sums by the fixed tree and in ascending
lane order.
Members whose guard is false: log entry 42; joining lanes, log entry 77; .sat on .xadd, log entry 87. -/
def Sys2Proof.Claims.Reduce_and_scan : Prop := ∀ (s : State) (f : Alu),
  (gathered s (.redux f) f.c f.a →
    ∃ t v, exec (.redux f) s = .next t ∧ Performed s t (.redux f) (dsts f.d 1) ∧ Gives s t (.redux f) f.d 0 v ∧
    ∀ l ∈ s.lanesM (.redux f), ∀ e < 64 / f.ty.width,
      let con := (contributions s (.redux f) f.c).map fun x => (x.1, getE x.2 f.ty.width e)
      let c := getE (v l) f.ty.width e
      if f.ty.isI then combined f.ty f.sat f.opx.toNat (con.map (·.2)) c
      else ∀ a, treeAt (combineFloat (tyFlt f.ty) f.rm f.sat f.opx.toNat) (fun j => List.lookup j con) 5 0 = some a →
        extQ ((tyFlt f.ty).val c) = extQ ((tyFlt f.ty).val (lone (tyFlt f.ty) f.sat a))) ∧
  (gathered s (.scan f) f.c f.a →
    ∃ t v, exec (.scan f) s = .next t ∧ Performed s t (.scan f) (dsts f.d 1) ∧ Gives s t (.scan f) f.d 0 v ∧
    ∀ l ∈ s.lanesM (.scan f), ∀ e < 64 / f.ty.width,
      let con := ((contributions s (.scan f) f.c).filter fun x => decide (x.1 < l) || (f.opx != 6 && x.1 == l)).map
        fun x => getE x.2 f.ty.width e
      let c := getE (v l) f.ty.width e
      match con with
      | [] => c = 0
      | a :: as => if f.ty.isI then combined f.ty f.sat f.opx.toNat con c
        else extQ ((tyFlt f.ty).val c) = extQ ((tyFlt f.ty).val
          (lone (tyFlt f.ty) f.sat (as.foldl (combineFloat (tyFlt f.ty) f.rm f.sat (if f.opx = 6 then 0 else f.opx.toNat)) a))))

/-- R140, R141, R142: `perm` within a lane, and one lane's register read or written without waiting. -/
def Sys2Proof.Claims.Lane_registers : Prop := ∀ (s : State) (f : Alu),
  (s.clear (.perm f) → ∃ v, Computes s (.perm f) f.d false v ∧ ∀ l ∈ s.lanesM (.perm f),
    eachElem s f 8 l (v l) fun e =>
      let k := getE (s.opnd s.cur.core s.cur.slot l .n8 f.b) 8 e
      let bytes := (List.range 8).map (getE (s.opnd s.cur.core s.cur.slot l .n8 f.a) 8) ++
        (List.range 8).map (getE (s.opnd s.cur.core s.cur.slot l .n8 f.c) 8)
      if 128 ≤ k then 0 else (bytes.getD (k % 16) 0 : Nat)) ∧
  (let n := 64 / f.ty.width
   let i := fun (l : Nat) => (s.op64 s.cur.core s.cur.slot l f.b).toNat % (32 * n)
   (s.passes (.rdln f) → (∀ l ∈ s.lanesM (.rdln f), s.sourceFault s.cur.core s.cur.slot l
        ((s.needs (.rdln f) s.cur.core s.cur.slot l).filter fun r => !((Use.src f.ty 1).regs f.a).contains r) = none ∧
        s.pendingIn s.cur.core s.cur.slot (i l / n) f.a = false ∧ s.operandFault s.cur.core s.cur.slot (i l / n) f.a = 0) →
      ∃ v, Computes s (.rdln f) f.d false v ∧ ∀ l ∈ s.lanesM (.rdln f), ∀ e < n,
        getE (v l) f.ty.width e = getE (s.newest s.cur.core s.cur.slot (i l / n) f.ty f.a) f.ty.width (i l % n)) ∧
   (s.clear (.wrln f) → ∀ low rest, s.lanesM (.wrln f) = low :: rest → (s.lane s.cur.core s.cur.slot (i low / n)).live = true →
      s.pendingIn s.cur.core s.cur.slot (i low / n) f.d = false →
      ∃ t, exec (.wrln f) s = .next t ∧ t.mem = s.mem ∧ (∀ l ∈ s.issuing (.wrln f),
          (t.lane s.cur.core s.cur.slot l).pc = (s.lane s.cur.core s.cur.slot l).next.pc) ∧
        (∀ k, k ≠ s.poolKey s.cur.core s.cur.slot f.d.toNat (i low / n) → t.pool.get 0 k = s.pool.get 0 k) ∧
        ∀ e < n, getE (t.reg s.cur.core s.cur.slot (i low / n) f.d.toNat) f.ty.width e =
          if e = i low % n then getE (s.opnd s.cur.core s.cur.slot low f.ty f.a) f.ty.width 0
          else getE (s.reg s.cur.core s.cur.slot (i low / n) f.d.toNat) f.ty.width e))


namespace Sys2Proof.Claims

-- Memory

/-- Places whose accesses wait for an agent; the Burzon die, the host and the peers have rules of their own. -/
def asked : Loc → Bool
  | .burzon _ | .host _ | .peer .. => false
  | _ => true

/-- The load words: space, and whether the load waits for B as a witness (R79, R214). -/
def loadWords (f : Mem) : List (Instr × Space × Bool) :=
  [(.ldG f, .g, false), (.ldSp f, .sp, false), (.ldGs f, .gs, false), (.ldwG f, .g, true), (.ldwSp f, .sp, true), (.ldwGs f, .gs, true)]

def storeWords (f : Mem) : List (Instr × Space) := [(.stG f, .g), (.stSp f, .sp), (.stGs f, .gs)]

/-- The atomics, and whether they return the old value (R251, R256). -/
def atomWords (f : Eng) : List (Instr × Space × Bool) :=
  [(.atomG f, .g, true), (.atomSp f, .sp, true), (.atomGs f, .gs, true), (.atomr f, .g, false)]

/-- The address of a memory-class word of element size n in lane l: A plus IMM12 times n, mod 2^64 (R214). -/
def addrOf (s : State) (f : Mem) (l n : Nat) : Nat :=
  ((((s.op64 s.cur.core s.cur.slot l f.a).toNat : Int) + f.imm.toInt * n) % 2 ^ 64).toNat

/-- The n bytes that a register operand gives a store: its own low bytes, and those of the next register above 8 (R215). -/
def bytesOf (s : State) (l : Nat) (t : Ty) (b : BitVec 8) : List Byte :=
  (List.range t.bytes).map fun j =>
    let x := if t = .b128 then (if j < 8 then s.op64 s.cur.core s.cur.slot l b else s.opndAt s.cur.core s.cur.slot l b 1)
      else s.opnd s.cur.core s.cur.slot l t b
    BitVec.ofNat 8 (x.toNat / 2 ^ (8 * (j % 8)))

/-- A lane's place of an access: what translation answers, and the state that it leaves (R192, R198, R212, R413). -/
abbrev placeOf (s : State) (l : Nat) (p : Space) (acc : Acc) (a n : Nat) : State × Except Nat (Loc × Word) :=
  s.locate s.cur.core (s.isUser s.cur.core s.cur.slot l) p acc a n

/-- The request that lane l of the issuing instance sends from state u. -/
def requestOf (s u : State) (l : Nat) (y : Loc) (leaf : Word) (op : ReqOp) (d : BitVec 8) : Req :=
  { who := ⟨s.cur.core, s.cur.slot, l⟩, lanes := Mask.one l, team := u.ownKey s.cur.core, own := false, ord := u.seq, inst := 0
    ctx := (u.team s.cur.core).ctx, cls := u.laneClass s.cur.core s.cur.slot l, loc := y, op := op, dst := (dsts d 1).head?
    path := none, leaf := leaf, join := none, since := u.now }

/-- A value of a type that these bytes load, in the registers from d on, with the poison of each granule (R211, R214). -/
def loadedRegs (d : Option Nat) (t : Ty) (bs : List Byte) (bad : Nat → Bool) : List (Nat × Word × Mark) :=
  match d with
  | none => []
  | some d => if t = .b128 then
      [(d, BitVec.ofNat 64 (leNat (bs.take 8)), { bad := bad 0 }), (d + 1, BitVec.ofNat 64 (leNat (bs.drop 8)), { bad := bad 8 })]
    else [(d, BitVec.ofInt 64 (codeInt t (leNat bs)), { bad := bad 0 })]

/-- A reply that sets out from u at once for lane l, to a load. -/
def loadReply (s u : State) (l : Nat) (regs : List (Nat × Word × Mark)) : Machine.Reply :=
  { who := ⟨s.cur.core, s.cur.slot, l⟩, team := u.ownKey s.cur.core, regs := regs, load := true, id := u.seq }

/-- Lane l goes on from u: it has sent request r, whose reply its registers `ds` await, and nothing else has changed. -/
def Sends (s t u : State) (l : Nat) (ds : List Nat) (r : Req) : Prop :=
  Waits s.cur.core s.cur.slot l ds u.seq u t ∧ t.seq = u.seq + 1 ∧ t.replies = u.replies ∧ t.reqs = u.reqs.set u.seq r

/-- The lane alone, at this word, takes a trap from u (R430-R432). -/
def Traps (s u : State) (i : Instr) (l cause addr aux : Nat) : Prop :=
  exec i s = .next (u.takeTrap s.cur.core s.cur.slot (Mask.one l) 0 [(l, cause, addr)] 0 aux)

/-- Accesses whose place a word finds before it does anything else: the word, space, kind of access, address and size. -/
def firstAccess (s : State) (f : Mem) (e : Eng) (l : Nat) : List (Instr × Space × Acc × Nat × Nat) :=
  let n := f.ty.bytes
  let a := (s.op64 s.cur.core s.cur.slot l e.a).toNat
  [(.ldG f, .g, .ld n, addrOf s f l n, n), (.ldSp f, .sp, .ld n, addrOf s f l n, n), (.ldGs f, .gs, .ld n, addrOf s f l n, n),
   (.stG f, .g, .st, addrOf s f l n, n), (.stSp f, .sp, .st, addrOf s f l n, n), (.stGs f, .gs, .st, addrOf s f l n, n),
   (.cinv f, .g, .cache, addrOf s f l 8, 8), (.cwb f, .g, .cache, addrOf s f l 8, 8), (.icinv f, .g, .cache, addrOf s f l 8, 8),
   (.atomG e, .g, .atomic, a, e.ty.bytes), (.atomSp e, .sp, .atomic, a, e.ty.bytes), (.atomGs e, .gs, .atomic, a, e.ty.bytes),
   (.atomr e, .g, .atomic, a, e.ty.bytes), (.mwait e, .g, .mwait e.ty.bytes, a, e.ty.bytes)]

end Sys2Proof.Claims

/-- R212, R413: an access whose address is not a multiple of its size takes the alignment fault 0x0A with the address, before any
translation; one whose translation or target fails takes the fault that it names. -/
def Sys2Proof.Claims.Access_faults : Prop := ∀ (s : State) (f : Mem) (e : Eng) (l : Nat), ∀ x ∈ firstAccess s f e l, s.Alone x.1 l →
  s.drainFull s.cur.core = false →
  (x.2.2.2.1 % x.2.2.2.2 ≠ 0 → Traps s s x.1 l 0x0A x.2.2.2.1 0) ∧
  ∀ u k, placeOf s l x.2.1 x.2.2.1 x.2.2.2.1 x.2.2.2.2 = (u, .error k) → Traps s u x.1 l k x.2.2.2.1 0

/-- R203, R214, R78: a load, once its witness is satisfied where it has one, finds its bytes in a valid line of its context in the core's L1,
or sends a request for its place; D waits for the reply. -/
def Sys2Proof.Claims.Loads_ask : Prop := ∀ (s : State) (f : Mem), ∀ x ∈ loadWords f, ∀ l, s.Alone x.1 l → ∀ g,
  (if x.2.2 then s.waitWit s.cur.core s.cur.slot l (s.op64 s.cur.core s.cur.slot l f.b) = .go g else g = s) → ∀ u y leaf,
  g.locate s.cur.core (g.isUser s.cur.core s.cur.slot l) x.2.1 (.ld f.ty.bytes) (addrOf s f l f.ty.bytes) f.ty.bytes =
    (u, .ok (y, leaf)) → asked y →
  (u.l1Hit s.cur.core s.cur.slot l leaf y f.ty.bytes = none → ∃ t, exec x.1 s = .next t ∧
    Sends s t u l (dsts f.d f.ty.regs) { requestOf s u l y leaf (.load f.ty) f.d with own := x.2.1 != .g }) ∧
  ∀ bs bad, u.l1Hit s.cur.core s.cur.slot l leaf y f.ty.bytes = some (bs, bad) →
    (∃ pa line, y = .hbm pa ∧ u.l1.find? (s.cur.core * 2 ^ 40 + pa / 128) = some line ∧ line.ctx = (u.team s.cur.core).ctx ∧
      bs = (line.bytes.drop (pa % 128)).take f.ty.bytes ∧ u.registered pa = none ∧ leaf.getLsbD 13 = false ∧
      ∀ j < f.ty.bytes, pa % 128 + j < 128 → line.valid.getLsbD ((pa % 128 + j) / 4) = true) ∧
    ∃ t, exec x.1 s = .next t ∧ Waits s.cur.core s.cur.slot l (dsts f.d f.ty.regs) u.seq u t ∧
      t.replies.find? (u.seq + 1) = some (loadReply s u l (loadedRegs (dsts f.d 1).head? f.ty bs bad))

/-- R215: a store sends the low bytes of B (of B and B+1 for 16 bytes) to its place, and D waits for the witness. -/
def Sys2Proof.Claims.Stores_ask : Prop := ∀ (s : State) (f : Mem), ∀ x ∈ storeWords f, ∀ l, s.Alone x.1 l → ∀ u y leaf,
  placeOf s l x.2 .st (addrOf s f l f.ty.bytes) f.ty.bytes = (u, .ok (y, leaf)) → asked y → ∃ t, exec x.1 s = .next t ∧
  Sends s t u l (dsts f.d 1) { requestOf s u l y leaf (.store (bytesOf s l f.ty f.b) f.sc) f.d with own := x.2 != .g }

/-- R251, R252, R256, R249: an atomic sends its operands to its place by the core's drain path; D, or D with the old value and the
register after it, waits. -/
def Sys2Proof.Claims.Atomics_ask : Prop := ∀ (s : State) (f : Eng), ∀ x ∈ atomWords f, ∀ l, s.Alone x.1 l → s.drainFull s.cur.core = false →
  ∀ u y leaf, placeOf s l x.2.1 .atomic (s.op64 s.cur.core s.cur.slot l f.a).toNat f.ty.bytes = (u, .ok (y, leaf)) → asked y →
  ∃ t, exec x.1 s = .next t ∧ Sends s t u l (dsts f.d (if x.2.2 then f.ty.regs + 1 else 1))
    { requestOf s u l y leaf (.atomic f.mod.toNat f.ty (leNat (bytesOf s l f.ty f.b))
        (if f.mod = 8 then leNat (bytesOf s l f.ty f.c) else 0) f.sc x.2.2) f.d with
      own := x.2.1 != .g, path := some s.cur.core, inst := s.seq + 1 }

namespace Sys2Proof.Claims

-- Agents

/-- Where a request's place keeps bytes: HBM, a registered granule, or a core of which the issuing team's own (or, through a window, any
team of the context) is resident (R195, R199, R419). -/
def standsHere (s : State) (r : Req) : Prop :=
  (match s.place r.loc with
    | .hbm _ => True
    | .sp c _ | .pool c _ => c < 0x600
    | _ => False) ∧
  match r.loc with
  | .sp c _ | .pool c _ => ∃ t, s.teams.find? c = some t ∧ if r.own then t.key = r.team ∧ t.nid < 65536 ∧ t.ctx = r.ctx else t.ctx = r.ctx
  | _ => True

/-- The step in which request k is performed at its agent (R17, R197, R199). -/
def performStep (s : State) (k : Nat) (r : Req) : Instr :=
  match s.place r.loc with
  | .hbm _ => .haRequestPerform k
  | _ => .scratchpadPortPerform k

/-- Request k stands first at its agent, and its place keeps bytes. -/
def Ready (s : State) (k : Nat) (r : Req) : Prop := s.reqs.find? k = some r ∧ s.canPerform r ∧ standsHere s r ∧ s.pal = []

/-- Places that hold bytes, within their ranges (R193, R195). -/
def holdsBytes : Loc → Prop
  | .hbm _ => True
  | .sp _ o => o < 0x60000
  | .pool _ o => o < 0x80000
  | _ => False

/-- A pool word that belongs to a warp of the resident team; others discard what is written (R196). -/
def writable (s : State) : Loc → Prop
  | .pool c o => o / 256 < (s.team c).nwarp * s.share c
  | _ => True

/-- From s to t the data have been written at x, and no other byte of HBM, of a scratchpad or of a register pool has changed; where
monitors stand, a pool may also have changed by one that finishes (R259). -/
def Wrote (s t : State) (x : Loc) (data : List Byte) : Prop :=
  (∀ j (h : j < data.length), writable s (x.add j) → t.byte (x.add j) = data[j]) ∧
  ∀ y, holdsBytes y → (s.mons = [] ∨ ∀ c o, y ≠ .pool c o) → (∀ j < data.length, y ≠ x.add j ∨ ¬writable s y) → t.byte y = s.byte y

/-- What the bytes at a place load. -/
def loaded (s : State) (d : Option Nat) (t : Ty) (x : Loc) : List (Nat × Word × Mark) :=
  loadedRegs d t (s.bytes x t.bytes) fun j => s.bad (x.add j)

/-- A reply for lane `who`, whose registers wait for request k. -/
def replyOf (r : Req) (k : Nat) (regs : List (Nat × Word × Mark)) : Machine.Reply := { who := r.who, team := r.team, regs := regs, load := false, id := k }

/-- The new code of an atomic's element (R250, R253). -/
def atomResult (t : Ty) (op old b c new : Nat) : Prop :=
  let w := t.width
  match op with
  | 0 => if t.isI then new = (old + b) % 2 ^ w
    else once (tyFlt t) .rne false new (sumR .rne [extQ ((tyFlt t).val old), extQ ((tyFlt t).val b)])
  | 1 => (new : Int) = ((old : Int) - b) % 2 ^ w
  | 2 | 3 => if t.isI then (new = old ∨ new = b) ∧
        codeInt t new = (if op = 2 then min (codeInt t old) (codeInt t b) else max (codeInt t old) (codeInt t b))
      else isMinMax (tyFlt t) (op == 3) old b new
  | 4 => ∀ j, new.testBit j = (old.testBit j && b.testBit j)
  | 5 => ∀ j, new.testBit j = (old.testBit j || b.testBit j)
  | 6 => ∀ j, new.testBit j = (old.testBit j != b.testBit j)
  | 7 => new = b
  | 8 => new = if old = b then c else old
  | _ => new = if b ≤ old then 0 else old + 1

/-- Lane l of a warp of the resident team with this number. -/
def residentTeam (s : State) (c key : Nat) : Prop := ∃ t, s.teams.find? c = some t ∧ t.key = key ∧ t.nid < 65536

end Sys2Proof.Claims

/-- R199, R211, R214, R222: a load performed at its agent returns the bytes that stand there and their poison, and changes no byte. -/
def Sys2Proof.Claims.Loads_perform : Prop := ∀ (s : State) (k : Nat) (r : Req) (t : Ty), Ready s k r → r.op = .load t →
  (s.place r.loc).pos.2 % t.bytes = 0 → t.width ≠ 4 →
  ∃ u, exec (performStep s k r) s = .next u ∧ u.reqs = s.reqs.erase k ∧
    u.replies = s.replies.set s.seq { replyOf r k (loaded s r.dst t (s.place r.loc)) with load := true } ∧
    u = { s with reqs := u.reqs, replies := u.replies, seq := s.seq + 1, l1 := u.l1, free := u.free, lanes := s.wake.lanes }

/-- R211, R215, R223, R240: a store performed at its agent writes its bytes there and no other byte; a whole granule loses its poison;
its lane's stamp is noted, and D's witness is the point of the agent at the tick of the order. -/
def Sys2Proof.Claims.Stores_perform : Prop := ∀ (s : State) (k : Nat) (r : Req) (data : List Byte) (sc : Scope), s.wf → Ready s k r →
  r.op = .store data sc → data ≠ [] → (∀ j < data.length, holdsBytes ((s.place r.loc).add j)) →
  r.join = none → r.lanes = Mask.one r.who.lane → r.who.lane < 32 →
  let x := s.place r.loc
  ∃ u, exec (performStep s k r) s = .next u ∧ u.reqs = s.reqs.erase k ∧ Wrote s u x data ∧
    u.replies = (match r.dst with
      | some d => s.replies.set s.seq (replyOf r k [(d, point x.agent sc.code.toNat s.now, {})])
      | none => s.replies) ∧
    (8 ≤ data.length → x.pos.2 % data.length = 0 → Tab.sortedFrom 0 s.poison = true → Tab.sortedFrom 0 s.spPoison = true → writable s x →
      u.bad x = false) ∧
    (residentTeam s r.who.core r.team → (u.lane r.who.core r.who.slot r.who.lane).wrote.get 0 x.agent = s.now)

/-- R250, R251, R253, R257: an atomic at its agent replaces the old value by R250's result in one step and returns the old value where it
is asked for; a poisoned operand in memory is left as it is, and the refusal counted. -/
def Sys2Proof.Claims.Atomics_perform : Prop := ∀ (s : State) (k : Nat) (r : Req) (op : Nat) (t : Ty) (b c : Nat) (sc : Scope) (old : Bool),
  s.wf → Ready s k r → r.op = .atomic op t b c sc old → (∀ i o, s.place r.loc ≠ .pool i o) →
  (∃ f : Eng, f.mod.toNat = op ∧ f.ty = t ∧ (Instr.atomG f).fieldsOk = true) → b < 2 ^ t.width → c < 2 ^ t.width →
  (∀ j < t.bytes, holdsBytes ((s.place r.loc).add j)) → (s.place r.loc).pos.2 % t.bytes = 0 →
  r.join = none → r.lanes = Mask.one r.who.lane → r.who.lane < 32 →
  let x := s.place r.loc
  let bad := s.badIn x t.bytes
  ∃ u new, exec (performStep s k r) s = .next u ∧ u.reqs = s.reqs.erase k ∧
    (if bad then s.mem = u.mem ∧ s.sp = u.sp else Wrote s u x (leBytes t.bytes new)) ∧ new < 2 ^ t.width ∧
    atomResult t op (leNat (s.bytes x t.bytes)) b c new ∧
    (bad = true → u.nv.get 0 (0x10000 + x.agent) = min (s.nv.get 0 (0x10000 + x.agent) + 1) (2 ^ 64 - 1)) ∧
    ∀ d, r.dst = some d → bad = false → u.replies = s.replies.set s.seq
      (if old then { replyOf r k (loaded s (some d) t x ++ [(d + t.regs, point x.agent sc.code.toNat s.now, ({} : Mark))]) with load := true }
      else replyOf r k [(d, point x.agent sc.code.toNat s.now, {})])

/-- R78: a reply writes the registers that still wait for it, each with its poison, and no other register. -/
def Sys2Proof.Claims.Replies_land : Prop := ∀ (s : State) (k : Nat) (r : Machine.Reply), s.replies.find? k = some r → r.kind = 0 → r.join = none →
  residentTeam s r.who.core r.team → (s.lane r.who.core r.who.slot r.who.lane).live = true →
  (r.regs.map (·.1)).Nodup → (∀ x ∈ r.regs, x.1 < 192) →
  let (c, w, l) := (r.who.core, r.who.slot, r.who.lane)
  let awaits := fun d => (s.mark c w l d).pend = r.id + 1
  ∃ t, exec (.registerWriteback c k) s = .next t ∧
    (∀ x ∈ r.regs, if awaits x.1 then t.reg c w l x.1 = x.2.1 ∧ t.mark c w l x.1 = x.2.2
      else t.reg c w l x.1 = s.reg c w l x.1 ∧ t.mark c w l x.1 = s.mark c w l x.1) ∧
    (∀ key, (∀ x ∈ r.regs, x.1 < 128 → key ≠ s.poolKey c w x.1 l) →
      t.pool.get 0 key = s.pool.get 0 key ∧ t.marks.get {} key = s.marks.get {} key) ∧
    (∀ key, (∀ x ∈ r.regs, 128 ≤ x.1 → key ≠ uregKey c w (x.1 - 128)) →
      t.ureg.get 0 key = s.ureg.get 0 key ∧ t.umarks.get {} key = s.umarks.get {} key) ∧
    t = { s with replies := s.replies.erase k, pool := t.pool, marks := t.marks, ureg := t.ureg, umarks := t.umarks, lanes := s.wake.lanes }

namespace Sys2Proof.Claims

/-- From u, lane l has gone past its word with v in D, and nothing else has changed. -/
def Leaves (s : State) (l : Nat) (d : BitVec 8) (v : Word) (u t : State) : Prop :=
  LanesOnly s.cur.core s.cur.slot [l] [l] (dsts d 1) false u t ∧ (d.toNat < 192 → t.reg s.cur.core s.cur.slot l d.toNat = v)

/-- From u, lane l has gone past its word, and nothing else has changed. -/
def GoesPast (s : State) (l : Nat) (u t : State) : Prop := LanesOnly s.cur.core s.cur.slot [l] [l] [] false u t

/-- Lane l stays at its word until something wakes it (R310); nothing else has changed since u. -/
def Retries (s : State) (i : Instr) (l : Nat) (u : State) : Prop :=
  exec i s = .next (u.modLane s.cur.core s.cur.slot l fun x => { x with park := .retry })

/-- Every lane that issues the word executes it. -/
def Whole (s : State) (i : Instr) : Prop := s.clear i ∧ s.issuing i = s.lanesM i ∧ s.lanesM i ≠ []

/-- From u, every lane of the instance has gone past its word with v in D (a uniform D once), and nothing else has changed. -/
def AllLeave (s : State) (i : Instr) (d : BitVec 8) (v : Word) (u t : State) : Prop :=
  LanesOnly s.cur.core s.cur.slot (s.issuing i) (s.lanesM i) (dsts d 1) false u t ∧ Gives s t i d 0 fun _ => v

/-- The scratchpad words: space, operation of a lane, and how many registers from D on wait. -/
def scratchWords (s : State) (f : Mem) : List (Instr × Bool × (Nat → ReqOp) × Nat) :=
  [(.ldSp f, false, fun _ => .load f.ty, f.ty.regs), (.ldGs f, true, fun _ => .load f.ty, f.ty.regs),
   (.stSp f, false, fun l => .store (bytesOf s l f.ty f.b) f.sc, 1), (.stGs f, true, fun l => .store (bytesOf s l f.ty f.b) f.sc, 1)]

/-- The place of a scratchpad address: the own core's, or a member's of the gang by its index (R198). -/
def scratchPlace (s : State) (gang : Bool) (a : Nat) : Option Loc :=
  if 0x60000 ≤ a % 0x80000 then none
  else if gang then
    if a < 0x4000000 then (s.gang s.cur.core)[a / 0x80000]?.map fun c => .sp c (a % 0x80000) else none
  else if a < 0x80000 then some (.sp s.cur.core a) else none

end Sys2Proof.Claims

/-- R198, R199, R214, R215, in all lanes of an instance: each lane of M sends its request to its own place, in ascending order; a
uniform D takes the first lane's reply alone. -/
def Sys2Proof.Claims.Scratchpad_lanes : Prop := ∀ (s : State) (f : Mem), ∀ x ∈ scratchWords s f, s.clear x.1 →
  (∀ l ∈ s.lanesM x.1, addrOf s f l f.ty.bytes % f.ty.bytes = 0 ∧ (scratchPlace s x.2.1 (addrOf s f l f.ty.bytes)).isSome) →
  ∃ t, exec x.1 s = .next t ∧ t.seq = s.seq + (s.lanesM x.1).length ∧
    (∀ k, k < s.seq ∨ t.seq ≤ k → t.reqs.find? k = s.reqs.find? k) ∧
    (∀ j l, (s.lanesM x.1)[j]? = some l → ∃ y, scratchPlace s x.2.1 (addrOf s f l f.ty.bytes) = some y ∧
      t.reqs.find? (s.seq + j) = some { requestOf s s l y 0 (x.2.2.1 l) f.d with
        own := true, ord := s.seq + j, dst := (dsts f.d 1).head?.filter fun r => r < 128 ∨ j = 0 } ∧
      ∀ r ∈ dsts f.d x.2.2.2, (r < 128 ∨ j = 0) → (t.mark s.cur.core s.cur.slot l r).pend = s.seq + j + 1) ∧
    (∀ l ∈ s.issuing x.1, ∃ sh, t.lane s.cur.core s.cur.slot l = { (s.lane s.cur.core s.cur.slot l).next with shadow := sh }) ∧
    (∀ key, (∀ l ∈ s.issuing x.1, key ≠ laneKey s.cur.core s.cur.slot l) → t.lanes.get {} key = s.lanes.get {} key) ∧
    t = { s with marks := t.marks, umarks := t.umarks, lanes := t.lanes, reqs := t.reqs, seq := t.seq }

/-- R194, R212, R215, R255, R263, R270: loads of a package semaphore's V and W, and of the host, whose bytes come from outside; stores to a
chain's TAIL (R340) and to the host. -/
def Sys2Proof.Claims.Accesses_elsewhere : Prop := ∀ (s u : State) (f : Mem) (l : Nat) (leaf : Word),
  (s.Alone (.ldG f) l →
    (∀ j h, j < 4096 → h < 2 → f.ty.bytes = 8 →
      placeOf s l .g (.ld 8) (addrOf s f l 8) 8 = (u, .ok (.burzon (0x100000 + 32 * j + 8 * h), leaf)) →
      if u.laneBusy s.cur.core s.cur.slot l (.burzon (0x100000 + 32 * j + 8 * h)) 8 then Retries s (.ldG f) l u else
      ∃ t, exec (.ldG f) s = .next t ∧ Waits s.cur.core s.cur.slot l (dsts f.d 1) u.seq u t ∧
        t.replies.find? (u.seq + 1) = some (loadReply s u l
          ((dsts f.d 1).map fun d => (d, if h = 0 then BitVec.ofNat 64 (u.psems.get {} j).v else (u.psems.get {} j).w, {})))) ∧
    (∀ a, placeOf s l .g (.ld f.ty.bytes) (addrOf s f l f.ty.bytes) f.ty.bytes = (u, .ok (.host a, leaf)) →
      ∃ t, exec (.ldG f) s = .next t ∧ Waits s.cur.core s.cur.slot l (dsts f.d f.ty.regs) u.seq { u with free := u.free + f.ty.bytes } t ∧
        t.replies.find? (u.seq + 1) = some (loadReply s u l (loadedRegs (dsts f.d 1).head? f.ty
          ((List.range f.ty.bytes).map fun j => Config.outsideByte (u.free + j)) fun _ => false)))) ∧
  (s.Alone (.stG f) l →
    (∀ k, k < 256 → f.ty.bytes = 8 → placeOf s l .g .st (addrOf s f l 8) 8 = (u, .ok (.burzon (0x200000 + 64 * k + 8), leaf)) →
      ∃ t, exec (.stG f) s = .next t ∧
        (let tail := (s.op64 s.cur.core s.cur.slot l f.b).toNat
         t.chains.get {} k = { u.chains.get {} k with tail := tail, gates := (u.chains.get {} k).gates ++ [(tail, 0, 0)] }) ∧
        (∀ j, j ≠ k → t.chains.get {} j = u.chains.get {} j) ∧
        Leaves s l f.d (frontier 7 u.now) ({ u with chains := t.chains }.noteStamp ⟨s.cur.core, s.cur.slot, l⟩ 0x800 u.now) t) ∧
    (∀ a, placeOf s l .g .st (addrOf s f l f.ty.bytes) f.ty.bytes = (u, .ok (.host a, leaf)) →
      ∃ t, exec (.stG f) s = .next t ∧ Leaves s l f.d (frontier 8 u.now)
        ({ u with outbox := u.outbox ++ (let data := (bytesOf s l f.ty f.b).map BitVec.toNat
            if f.ty = Ty.b128 then [0 :: a :: data.take 8, 0 :: (a + 8) :: data.drop 8] else [0 :: a :: data]) }.noteStamp
          ⟨s.cur.core, s.cur.slot, l⟩ 0x801 u.now) t))


/-- R216: `stp` checks its descriptor, finds both places, and sends one write to the plain one; that place's agent writes the element and
forwards it to the transposed place, or writes both where they are its own. -/
def Sys2Proof.Claims.Transposed_store : Prop := ∀ (s : State) (f : Mem) (l : Nat), s.Alone (.stp f) l →
  let reg := fun j => (s.opndAt s.cur.core s.cur.slot l f.a j).toNat
  let ij := (s.opndAt s.cur.core s.cur.slot l f.b 1).toNat
  let p := reg 0 + (ij % 2 ^ 32 * (reg 2 % 2 ^ 32) + ij / 2 ^ 32) * f.ty.bytes
  let q := reg 1 + (ij / 2 ^ 32 * (reg 2 / 2 ^ 32) + ij % 2 ^ 32) * f.ty.bytes
  ((2 ^ 52 ≤ reg 0 ∨ 2 ^ 52 ≤ reg 1 ∨ reg 2 % 2 ^ 32 = 0 ∨ reg 2 / 2 ^ 32 = 0) → Traps s s (.stp f) l 0x05 0 0) ∧
  (reg 0 < 2 ^ 52 → reg 1 < 2 ^ 52 → reg 2 % 2 ^ 32 ≠ 0 → reg 2 / 2 ^ 32 ≠ 0 →
    (∀ u k, placeOf s l .g .stp p f.ty.bytes = (u, .error k) → Traps s u (.stp f) l k p 0) ∧
    ∀ u x leaf, placeOf s l .g .stp p f.ty.bytes = (u, .ok (x, leaf)) →
      if x.plain = false then Traps s u (.stp f) l 0x0C p 0 else
      (∀ v k, u.locate s.cur.core (u.isUser s.cur.core s.cur.slot l) .g .stp q f.ty.bytes = (v, .error k) → Traps s v (.stp f) l k q 0) ∧
      ∀ v y leaf', u.locate s.cur.core (u.isUser s.cur.core s.cur.slot l) .g .stp q f.ty.bytes = (v, .ok (y, leaf')) →
        if y.plain = false then Traps s v (.stp f) l 0x0C q 0 else ∃ t, exec (.stp f) s = .next t ∧
          Sends s t v l (dsts f.d 1) (requestOf s v l x leaf (.stp (bytesOf s l f.ty f.b) y f.sc leaf') f.d)) ∧
  ∀ (k : Nat) (r : Req) (data : List Byte) (x y : Nat) (sc : Scope) (leaf : Word), s.wf → Ready s k r → data ≠ [] → data.length ≤ 8 →
    r.op = .stp data (.hbm y) sc leaf → r.loc = .hbm x → s.place (.hbm x) = .hbm x → s.place (.hbm y) = .hbm y →
    (x = y ∨ x + data.length ≤ y ∨ y + data.length ≤ x) →
    ∃ u, exec (.haRequestPerform k) s = .next u ∧
      if haOf x = haOf y then
        (∀ j (h : j < data.length), u.mem.get (x + j) = data[j] ∧ u.mem.get (y + j) = data[j]) ∧
        ∀ a, (a < x ∨ x + data.length ≤ a) → (a < y ∨ y + data.length ≤ a) → u.mem.get a = s.mem.get a
      else Wrote s u (.hbm x) data ∧ ∃ r', u.reqs = (s.reqs.erase k).set (s.seq + 1) r' ∧ r'.loc = .hbm y ∧ r'.op = .store data sc

/-- R217, R218, R219, R205, R209: the cache words bring, drop and write back lines without changing any byte, but for a line of a TOL page,
which takes the bytes of a representative within reach that its HA holds;
`pfl` never faults; `icinv` leaves no copy of the line in the caches of its scope; a write-back of any other page changes no byte. -/
def Sys2Proof.Claims.Cache_words : Prop := ∀ (s u : State) (f : Mem) (l pa : Nat) (leaf : Word),
  (s.Alone (.pfl f) l → ∃ t, exec (.pfl f) s = .next t ∧
    GoesPast s l { (s.xlate (some s.cur.core) (s.team s.cur.core).ctx (s.isUser s.cur.core s.cur.slot l) .cache
      (addrOf s f l f.ty.bytes) 1).1 with l1 := t.l1, free := t.free } t) ∧
  (s.Alone (.cinv f) l → placeOf s l .g .cache (addrOf s f l 8) 8 = (u, .ok (.hbm pa, leaf)) → leaf.getLsbD 12 = false →
    ∃ t, exec (.cinv f) s = .next t ∧ GoesPast s l { u with l1 := t.l1, dirty := t.dirty, free := t.free } t ∧
      (Tab.sortedFrom 0 u.l1 = true → t.l1.find? (s.cur.core * 2 ^ 40 + pa / 128) = none)) ∧
  (s.Alone (.icinv f) l → placeOf s l .g .cache (addrOf s f l 8) 8 = (u, .ok (.hbm pa, leaf)) →
    ∃ t, exec (.icinv f) s = .next t ∧ Leaves s l f.d (frontier f.sc.code.toNat u.now)
        { u with ic := t.ic, lb := t.lb, fills := t.fills, subs := t.subs } t ∧
      (∀ k, t.subs.get {} k = { u.subs.get {} k with kept := (t.subs.get {} k).kept }) ∧
      ∀ c, c < 1536 → inScope f.sc.code.toNat s.cur.core (0x200 + c) = true → pa < 2 ^ 40 → ∀ y, (c * 2 ^ 40 + pa / 128, y) ∉ t.ic) ∧
  (s.Alone (.cwb f) l → placeOf s l .g .cache (addrOf s f l 8) 8 = (u, .ok (.hbm pa, leaf)) →
    ∃ t, exec (.cwb f) s = .next t ∧ Sends s t u l (dsts f.d 1) (requestOf s u l (.hbm (pa / 128 * 128)) leaf (.cwb f.sc) f.d)) ∧
  (∀ k r sc, Ready s k r → r.op = .cwb sc → r.loc = .hbm pa → s.registered pa = none → r.leaf.getLsbD 12 = false → r.join = none →
    r.lanes = Mask.one r.who.lane → r.who.lane < 32 →
    ∃ t, exec (.haRequestPerform k) s = .next t ∧ (∀ y, t.byte y = s.byte y) ∧ t.reqs = s.reqs.erase k ∧
      ∀ d, r.dst = some d → t.replies = s.replies.set s.seq (replyOf r k [(d, point (haOf pa) sc.code.toNat s.now, {})])) ∧
  ∀ line rep compress, s.dirty.get false line = true →
    (s.lineTol line = none → ∃ t, exec (.l2Writeback line rep compress) s = .next t ∧ t = { s with dirty := s.dirty.erase line, comp := t.comp }) ∧
    ∀ g j r, s.lineTol line = some g → (s.repsNear g line)[j]? = some r → r.bytes.length = 128 →
      (r.ha = haOf (line * 128) ∧ r.et = g / 32 ∧ r.t = g % 32 ∧ tolNear r.et r.t (s.lineBytes line) r.bytes = true) ∧
      ∃ t, exec (.l2Writeback line (some j) compress) s = .next t ∧
        ∀ a, t.mem.get a = if line * 128 ≤ a ∧ a < line * 128 + 128 then r.bytes.getD (a - line * 128) 0 else s.mem.get a

namespace Sys2Proof.Claims

/-- The operand B of `spmap` for an entry, a granule and FILL (R221). -/
def mapWord (e gr : Nat) (fill : Bool) : Word := BitVec.ofNat 64 ((if fill then 2 ^ 16 else 0) + e * 2 ^ 8 + gr)

end Sys2Proof.Claims

/-- R199, R200, R201, R221: `spmap` registers a granule, so that its addresses are performed at the scratchpad, with the memory's bytes
under FILL; `.unmap` and `.flush` write a dirty granule's bytes back; `.inval` does not.
FILL outside .map is ignored: log entry 38. -/
def Obligations.Scratchpad_map : Prop := ∀ (s : State) (f : Eng) (l e gr : Nat) (fill : Bool), s.wf → e < 64 → gr < 96 → s.mons = [] →
  (s.op64 s.cur.core s.cur.slot l f.b = mapWord e gr fill) →
  let v := frontier f.sc.code.toNat s.now
  let unmapped := fun (u' : State) => u' = { s with
    mem := u'.mem, poison := u'.poison, tags := u'.tags, dirty := u'.dirty, comp := u'.comp, l1 := u'.l1, teams := u'.teams
    lanes := s.wake.lanes }
  (Whole s (.spmapMap f) → (s.lanesM (.spmapMap f)).head? = some l → (s.team s.cur.core).map.find? e = none →
    (∀ x ∈ (s.team s.cur.core).map, x.2.gr ≠ gr) → ∀ u pa leaf,
    placeOf s l .g .map (s.op64 s.cur.core s.cur.slot l f.a).toNat 4096 = (u, .ok (.hbm pa, leaf)) → u.registered pa = none →
    pa % 4096 = 0 → (s.teams.find? s.cur.core).isSome → u.mons = [] → u.now = s.now → u.teams = s.teams → u.wf →
    ∃ t u', exec (.spmapMap f) s = .next t ∧ AllLeave s (.spmapMap f) f.d v u' t ∧
      u' = { u with sp := u'.sp, spPoison := u'.spPoison, comp := u'.comp, l1 := u'.l1, teams := u'.teams } ∧
      (∀ a, u'.sp.get a = if fill ∧ spKey s.cur.core (4096 * gr) ≤ a ∧ a < spKey s.cur.core (4096 * gr) + 4096
        then u.mem.get (pa + (a - spKey s.cur.core (4096 * gr))) else u.sp.get a) ∧
      ∀ j < 4096, t.place (.hbm (pa + j)) = .sp s.cur.core (4096 * gr + j)) ∧
  ∀ m, (s.team s.cur.core).map.find? e = some m → (s.lanesM (.spmapUnmap f)).head? = some l → m.gr < 96 →
    (Whole s (.spmapUnmap f) → ∃ t u', exec (.spmapUnmap f) s = .next t ∧ AllLeave s (.spmapUnmap f) f.d v u' t ∧ unmapped u' ∧
      (u'.team s.cur.core).map = (s.team s.cur.core).map.erase e ∧
      ∀ a, u'.mem.get a = if m.dirty ∧ m.pa ≤ a ∧ a < m.pa + 4096 then s.sp.get (spKey s.cur.core (4096 * m.gr) + (a - m.pa)) else s.mem.get a) ∧
    (Whole s (.spmapFlush f) → ∃ t u', exec (.spmapFlush f) s = .next t ∧ AllLeave s (.spmapFlush f) f.d v u' t ∧ unmapped u' ∧
      (u'.team s.cur.core).map = (s.team s.cur.core).map.set e { m with dirty := false } ∧
      ∀ a, u'.mem.get a = if m.dirty ∧ m.pa ≤ a ∧ a < m.pa + 4096 then s.sp.get (spKey s.cur.core (4096 * m.gr) + (a - m.pa)) else s.mem.get a) ∧
    (Whole s (.spmapInval f) → ∃ t u', exec (.spmapInval f) s = .next t ∧ AllLeave s (.spmapInval f) f.d v u' t ∧ unmapped u' ∧ u'.mem = s.mem ∧
      (u'.team s.cur.core).map = (s.team s.cur.core).map.erase e)

namespace Sys2Proof.Claims

-- Witnesses

/-- Fields of a witness (R229). -/
def wKind (w : Word) : Nat := w.toNat / 2 ^ 60
def wScope (w : Word) : Nat := w.toNat / 2 ^ 56 % 16
def wAgent (w : Word) : Nat := w.toNat / 2 ^ 44 % 4096
def wTick (w : Word) : Nat := w.toNat % 2 ^ 44
def wConn (w : Word) : Nat := w.toNat / 2 ^ 40 % 65536
def wSeq (w : Word) : Nat := w.toNat % 2 ^ 40

/-- TICKGE (R225). -/
def tickAtLeast (a b : Nat) : Prop := ((a : Int) - b) % 2 ^ 44 < 2 ^ 43

/-- A value that can be read as a witness in a context (R230). -/
def Witness (s : State) (ctx : Nat) (w : Word) : Prop :=
  w = 0 ∨ (wKind w = 1 ∧ 1 ≤ wScope w ∧ wScope w ≤ 11 ∧ wAgent w < 0x800) ∨
  (wKind w = 2 ∧ 1 ≤ wScope w ∧ wScope w ≤ 11 ∧ wAgent w = 0xFFF) ∨
  (wKind w = 3 ∧ 9 ≤ wScope w ∧ wScope w ≤ 11 ∧
    ∃ k, s.conns.find? (wConn w) = some k ∧ k.opened = true ∧ k.cctl.toNat / 2 ^ 44 % 4096 = ctx) ∨ wKind w = 0xE

/-- AGENTS(sc, c) holds agent a (R226). -/
def inAgents (sc c a : Nat) : Prop :=
  let ha := a < 0x200 ∧ a / 64 = c / 192
  let sp := fun (p : Nat → Prop) => ∃ k < 1536, a = 0x200 + k ∧ p k
  match sc with
  | 0 | 1 | 2 | 3 => ha ∨ sp fun k => k = c
  | 4 => ha ∨ sp fun k => gxOf k / 2 = gxOf c / 2 ∧ gyOf k / 2 = gyOf c / 2
  | 5 => ha ∨ sp fun k => gxOf k / 4 = gxOf c / 4 ∧ gyOf k / 4 = gyOf c / 4
  | 6 => ha ∨ sp fun k => k / 192 = c / 192
  | 8 => a ≤ 0x801
  | _ => a ≤ 0x800

/-- A tick has expired: its age lies in the range of R231. -/
def Expired (s : State) (tick : Nat) : Prop :=
  let age := ((s.now : Int) - tick) % 2 ^ 44
  2 ^ 43 ≤ age ∧ age < 2 ^ 44 - 1024

/-- Every agent of a scope has closed a tick. -/
def Closed (s : State) (sc c tick : Nat) : Prop := Expired s tick ∨ ∀ a, inAgents sc c a → tickAtLeast (s.ctOf a) tick

/-- SATISFIED(w, c) (R231), for a value that is no handle. -/
def Satisfied (s : State) (c : Nat) (w : Word) : Prop :=
  w = 0 ∨ (wKind w = 1 ∧ (Expired s (wTick w) ∨ tickAtLeast (s.ctOf (wAgent w)) (wTick w))) ∨
  (wKind w = 2 ∧ Closed s (wScope w) c (wTick w)) ∨
  (wKind w = 3 ∧ ∃ tc, s.linkDone (wConn w) (wSeq w) = some tc ∧ Closed s 7 c tc)

/-- r is the later of two ticks (R225). -/
def laterTick (a b r : Nat) : Prop := (r = a ∧ tickAtLeast a b) ∨ (r = b ∧ ¬tickAtLeast a b)

/-- The merge of two witnesses around core c (R237), one row after another; `done` gives TC of a link that is done. -/
def Merged (done : Word → Option Nat) (c : Nat) (a b r : Word) : Prop :=
  (a = 0 → r = b) ∧ (b = 0 → r = a) ∧
  (wKind a = 1 → wKind b = 1 → wAgent a = wAgent b → wKind r = 1 ∧ wAgent r = wAgent a ∧ wScope r = max (wScope a) (wScope b) ∧
    laterTick (wTick a) (wTick b) (wTick r)) ∧
  (let wide := fun w => if wKind w = 1 then max (wScope w) (ext (wAgent w) c) else wScope w
   (wKind a = 1 ∨ wKind a = 2) → (wKind b = 1 ∨ wKind b = 2) → ¬(wKind a = 1 ∧ wKind b = 1 ∧ wAgent a = wAgent b) →
    wKind r = 2 ∧ wAgent r = 0xFFF ∧ wScope r = max (wide a) (wide b) ∧ laterTick (wTick a) (wTick b) (wTick r)) ∧
  (wKind a = 3 → wKind b = 3 → wConn a = wConn b → wKind r = 3 ∧ wConn r = wConn a ∧ wScope r = max (wScope a) (wScope b) ∧
    wSeq r = max (wSeq a) (wSeq b)) ∧
  ∀ t u, a ≠ 0 → b ≠ 0 → (wKind a = 3 ∨ wKind b = 3) → ¬(wKind a = 3 ∧ wKind b = 3 ∧ wConn a = wConn b) →
    (if wKind a = 3 then done a = some t else t = wTick a) → (if wKind b = 3 then done b = some u else u = wTick b) → t < 2 ^ 44 → u < 2 ^ 44 →
    wKind r = 2 ∧ wAgent r = 0xFFF ∧ wScope r = max (wScope a) (wScope b) ∧ laterTick t u (wTick r)

/-- `wscp` (R241). -/
def Widened (sc : Nat) (w r : Word) (tc : Option Nat) : Prop :=
  (w = 0 → r = 0) ∧
  (wKind w = 1 ∨ wKind w = 2 → wKind r = wKind w ∧ wAgent r = wAgent w ∧ wTick r = wTick w ∧ wScope r = max (wScope w) sc) ∧
  (wKind w = 3 → if 9 ≤ sc then wKind r = 3 ∧ wConn r = wConn w ∧ wSeq r = wSeq w ∧ wScope r = max (wScope w) sc
    else ∃ t, tc = some t ∧ r = frontier (if sc ≤ 7 then 7 else 8) t)

/-- A link that the word would wait for is not done. -/
def lateLink (s : State) (w : Word) : Prop := wKind w = 3 ∧ s.linkDone (wConn w) (wSeq w) = none

end Sys2Proof.Claims

/-- R226, R227: the agents of a scope around a core, and the narrowest scope that holds an agent. -/
def Sys2Proof.Claims.Scopes : Prop := ∀ sc c a, 1 ≤ sc → sc ≤ 11 → c < 1536 →
  (a ∈ agents sc c ↔ inAgents sc c a) ∧
  (a ≤ 0x801 → inAgents (ext a c) c a ∧ ext a c ∈ [3, 4, 5, 6, 7, 8] ∧ ∀ x ∈ [3, 4, 5, 6, 7, 8], inAgents x c a → ext a c ≤ x)

/-- R225, R231, R232, R238, R239: `wtst` writes whether its witness is satisfied; `wwait` goes on once it is, waits at its word while it is
not, and a loss of its link is a fault (R282). -/
def Sys2Proof.Claims.Witness_tests : Prop := ∀ (s : State) (f : Alu) (l : Nat), s.cur.core < 1536 →
  let (c, w) := (s.cur.core, s.cur.slot)
  let x := s.opnd c w l .wt f.a
  Witness s (s.team c).ctx x → wKind x ≠ 0xE →
  (s.Alone (.wtst f) l → ∃ t u, exec (.wtst f) s = .next t ∧ u = { s with nv := u.nv } ∧
    LanesOnly c w [l] [l] [256 + f.d.toNat % 8] false u t ∧
    (f.d.toNat % 8 ≠ 7 → ((t.lane c w l).preds.getLsbD (f.d.toNat % 8) = true ↔ Satisfied s c x))) ∧
  (s.Alone (.wwait f) l →
    (Satisfied s c x → ∃ t u, exec (.wwait f) s = .next t ∧ u = { s with nv := u.nv } ∧ GoesPast s l u t) ∧
    (¬Satisfied s c x → (wKind x = 3 → s.linkFailed (wConn x) = false) → Retries s (.wwait f) l s) ∧
    (¬Satisfied s c x → wKind x = 3 → s.linkFailed (wConn x) = true → Traps s s (.wwait f) l 0x14 0 (wConn x)))

/-- R230: a value that is no witness faults the lane that reads it as one, with the value in AUX. -/
def Sys2Proof.Claims.Witness_faults : Prop := ∀ (s : State) (f : Alu) (e : Eng) (m : Mem) (l : Nat),
  let op := fun b => s.opnd s.cur.core s.cur.slot l .wt b
  let bad := fun b => ¬Witness s (s.team s.cur.core).ctx (op b)
  (s.Alone (.wtst f) l → bad f.a → Traps s s (.wtst f) l 0x10 0 (op f.a).toNat) ∧
  (s.Alone (.wwait f) l → bad f.a → Traps s s (.wwait f) l 0x10 0 (op f.a).toNat) ∧
  (s.Alone (.wscp e) l → bad e.a → Traps s s (.wscp e) l 0x10 0 (op e.a).toNat) ∧
  (s.Alone (.wmrg f) l → bad f.a → Traps s s (.wmrg f) l 0x10 0 (op f.a).toNat) ∧
  (s.Alone (.wmrg f) l → ¬bad f.a → bad f.b → Traps s s (.wmrg f) l 0x10 0 (op f.b).toNat) ∧
  ∀ x ∈ [Instr.ldwG m, .ldwSp m, .ldwGs m], s.Alone x l →
    ¬Witness s (s.team s.cur.core).ctx (s.op64 s.cur.core s.cur.slot l m.b) →
    Traps s s x l 0x10 0 (s.op64 s.cur.core s.cur.slot l m.b).toNat

/-- R237, R241: `wmrg` and `wscp` give the witness of their tables, or wait while a link that they need is not done. -/
def Sys2Proof.Claims.Witness_forming : Prop := ∀ (s : State) (f : Alu) (e : Eng) (l : Nat),
  let op := fun b => s.opnd s.cur.core s.cur.slot l .wt b
  let fine := fun b => Witness s (s.team s.cur.core).ctx (op b) ∧ wKind (op b) ≠ 0xE
  let done := fun w => s.linkDone (wConn w) (wSeq w)
  (s.Alone (.wmrg f) l → fine f.a → fine f.b →
    let (a, b) := (op f.a, op f.b)
    let needs := ¬(a = 0 ∨ b = 0 ∨ (wKind a = 3 ∧ wKind b = 3 ∧ wConn a = wConn b)) ∧ (lateLink s a ∨ lateLink s b)
    (¬needs → ∃ t r, exec (.wmrg f) s = .next t ∧ Merged done s.cur.core a b r ∧ Leaves s l f.d r s t) ∧
    (needs → (∀ x ∈ [a, b], lateLink s x → s.linkFailed (wConn x) = false) → Retries s (.wmrg f) l s)) ∧
  (s.Alone (.wscp e) l → fine e.a →
    let a := op e.a
    let sc := e.sc.code.toNat
    (¬(lateLink s a ∧ sc < 9) → ∃ t r, exec (.wscp e) s = .next t ∧ Widened sc a r (done a) ∧ Leaves s l e.d r s t) ∧
    (lateLink s a → sc < 9 → s.linkFailed (wConn a) = false → Retries s (.wscp e) l s))

/-- R220, R240, R242: `wfen` covers the lane's stamped writes in its scope; it, `lfen` and `wloc` wait for what they must; `wloc` stamps an
empty access at its place. -/
def Obligations.Fences : Prop := ∀ (s : State) (f : Alu) (e : Eng) (l : Nat),
  let (c, w) := (s.cur.core, s.cur.slot)
  (s.Alone (.lfen f) l →
    (s.loadsBack c w l = true → ∃ t, exec (.lfen f) s = .next t ∧ GoesPast s l s t) ∧ (s.loadsBack c w l = false → Retries s (.lfen f) l s)) ∧
  (s.Alone (.wloc f) l → (s.loadsBack c w l = false → Retries s (.wloc f) l s) ∧
    (s.loadsBack c w l = true → ∀ u, (∀ y leaf, placeOf s l .g .touch (s.op64 c w l f.a).toNat 1 = (u, .ok (y, leaf)) → asked y →
      ∃ t, exec (.wloc f) s = .next t ∧ Sends s t u l (dsts f.d 1) (requestOf s u l y leaf .touch f.d)) ∧
      ∀ o leaf, placeOf s l .g .touch (s.op64 c w l f.a).toNat 1 = (u, .ok (.burzon o, leaf)) →
        ∃ t, exec (.wloc f) s = .next t ∧ Leaves s l f.d (frontier 7 u.now) u t)) ∧
  (∀ k r, Ready s k r → r.op = .touch → r.join = none → r.lanes = Mask.one r.who.lane → r.who.lane < 32 → ∀ d, r.dst = some d →
    ∃ t, exec (performStep s k r) s = .next t ∧
      t = { s with
        reqs := s.reqs.erase k, seq := s.seq + 1, lanes := s.wake.lanes, l1 := t.l1
        replies := s.replies.set s.seq (replyOf r k [(d, point (s.place r.loc).agent 7 s.now, {})]) }) ∧
  (s.Alone (.wfen e) l →
    let sc := e.sc.code.toNat
    let mine := (s.lane c w l).wrote.filter fun x => inScope sc c x.1
    (s.stamped c w l = false → Retries s (.wfen e) l s) ∧
    (s.stamped c w l = true → sc < 9 → (∀ x ∈ (s.lane c w l).wrote, x.2 < 2 ^ 44) → ∃ t r, exec (.wfen e) s = .next t ∧ Leaves s l e.d r s t ∧
      (mine = [] → r = 0) ∧ (mine ≠ [] → wKind r = 2 ∧ wScope r = sc ∧ wAgent r = 0xFFF ∧ wTick r ∈ mine.map (·.2) ∧
        ∀ x ∈ mine, (∀ y ∈ mine, ∀ z ∈ mine, |(y.2 : Int) - z.2| < 2 ^ 43) → tickAtLeast (wTick r) x.2)) ∧
    (s.stamped c w l = true → 9 ≤ sc → (∃ x ∈ (s.lane c w l).fab, s.linkDone x.1 x.2 = none) →
      (∀ x ∈ (s.lane c w l).fab, s.linkFailed x.1 = false) → Retries s (.wfen e) l s))


namespace Sys2Proof.Claims

-- Semaphores

/-- The word's selector names semaphore x in lane l (R263, R265). -/
def selects (s : State) (f : Eng) (l : Nat) : SemId → Prop
  | .core c j => f.mod.toNat / 4 = 0 ∧ c = s.cur.core ∧ j = f.c.toNat
  | .pkg j => s.psemOwner.find? j = some (s.team s.cur.core).ctx ∧
      (f.mod.toNat / 4 = 1 ∧ j = f.c.toNat ∨ f.mod.toNat / 4 = 2 ∧ j < 4096 ∧ j = (s.op64 s.cur.core s.cur.slot l f.a).toNat)

/-- The witness of an increment or a set (R266). -/
def semPoint (x : SemId) (sc now : Nat) : Word :=
  match x with
  | .core c _ => point (0x200 + c) sc now
  | .pkg _ => frontier 7 now

/-- W after an increment that merges f (R264): for a package semaphore widened to at least pk. -/
def MergedInto (s : State) (x : SemId) (w f r : Word) : Prop :=
  match x with
  | .core c _ => Merged (fun y => s.linkDone (wConn y) (wSeq y)) c w f r
  | .pkg _ => ∃ m, Merged (fun y => s.linkDone (wConn y) (wSeq y)) 0 w f m ∧
      (m = 0 → r = 0) ∧ (m ≠ 0 → wKind r = wKind m ∧ wAgent r = wAgent m ∧ wTick r = wTick m ∧ wScope r = max (wScope m) 7)

/-- W holds a null, a point or a frontier (R264). -/
def HoldsWit (w : Word) : Prop :=
  w = 0 ∨ (wKind w = 1 ∧ 1 ≤ wScope w ∧ wScope w ≤ 11 ∧ wAgent w < 0x802) ∨ (wKind w = 2 ∧ 1 ≤ wScope w ∧ wScope w ≤ 11 ∧ wAgent w = 0xFFF)

/-- From s to u only semaphore x has changed. -/
def OnlySem (s u : State) (x : SemId) (q : Sem) : Prop :=
  u = { s with teams := u.teams, psems := u.psems } ∧ u.sem x = q ∧ (∀ y, y ≠ x → u.sem y = s.sem y) ∧
    ∀ c, { u.team c with sems := (s.team c).sems } = s.team c

/-- From u the instance has gone past its word, which wrote the registers `ds` of M; other registers and
lanes are as they were, but that some look again at their word. -/
def Past (s : State) (i : Instr) (ds : List Nat) (u t : State) : Prop :=
  t = { u with pool := t.pool, marks := t.marks, ureg := t.ureg, umarks := t.umarks, lanes := t.lanes } ∧
  (∀ k, (∀ l ∈ s.lanesM i, ∀ r ∈ ds, r < 128 → k ≠ s.poolKey s.cur.core s.cur.slot r l) → t.pool.get 0 k = s.pool.get 0 k) ∧
  (∀ k, (∀ r ∈ ds, 128 ≤ r → r < 192 → k ≠ uregKey s.cur.core s.cur.slot (r - 128)) → t.ureg.get 0 k = s.ureg.get 0 k) ∧
  (∀ l ∈ s.issuing i, let x := t.lane s.cur.core s.cur.slot l
    x.pc = (s.lane s.cur.core s.cur.slot l).next.pc ∧ x.park = .none ∧ x.live = true ∧ x.preds = (s.lane s.cur.core s.cur.slot l).preds) ∧
  ∀ k, (∀ l ∈ s.issuing i, k ≠ laneKey s.cur.core s.cur.slot l) → t.lanes.get {} k = s.wake.lanes.get {} k

end Sys2Proof.Claims

/-- R263-R266: `seminc` adds to the count, which stops at its greatest and is then counted, and merges the lane's fence into W; amounts above 2^32, indices with bits 63:12 and semaphores
of other contexts are refused with the traps that the spec names.
The fence of every lane is waited for: log entry 49. -/
def Sys2Proof.Claims.Semaphore_increment : Prop := ∀ (s : State) (f : Eng) (l : Nat), s.Alone (.seminc f) l →
  let (c, w) := (s.cur.core, s.cur.slot)
  let b := (s.op64 c w l f.b).toNat
  let j := (s.op64 c w l f.a).toNat
  (2 ^ 32 < b → Traps s s (.seminc f) l 0x05 0 0) ∧
  (f.mod.toNat / 4 = 2 → 4096 ≤ j → Traps s s (.seminc f) l 0x05 0 0) ∧
  (b ≤ 2 ^ 32 → f.mod.toNat / 4 = 2 → j < 4096 → s.psemOwner.find? j ≠ some (s.team c).ctx → Traps s s (.seminc f) l 0x0C 0 0) ∧
  ∀ x, selects s f l x → b ≤ 2 ^ 32 → (s.sem x).wait = [] → HoldsWit (s.sem x).w →
    (s.stamped c w l = false → Retries s (.seminc f) l s) ∧
    ∀ g, s.stamped c w l = true → s.fenceWit c w l f.sc.code.toNat = some g →
      ∃ t u r, exec (.seminc f) s = .next t ∧
        OnlySem { s with nv := u.nv } u x { v := min ((s.sem x).v + b) (2 ^ 64 - 1), w := r, wait := [] } ∧
        (∀ k, u.nv.get 0 k = if k = 0x20000 ∧ 2 ^ 64 - 1 ≤ (s.sem x).v + b then min (s.nv.get 0 k + 1) (2 ^ 64 - 1) else s.nv.get 0 k) ∧
        MergedInto s x (s.sem x).w g r ∧ Leaves s l f.d (semPoint x f.sc.code.toNat s.now) u t

/-- R267, R268: `semw` on a semaphore whose list is empty is served at once where the count suffices, and goes on with W in D once W is
satisfied; else it waits in the list. `semrd` reads, `semset` sets and clears. -/
def Sys2Proof.Claims.Semaphore_words : Prop := ∀ (s : State) (f : Eng) (x : SemId), s.cur.core < 1536 →
  let (c, w) := (s.cur.core, s.cur.slot)
  let agree := fun (i : Instr) => Whole s i ∧ (∀ l ∈ s.lanesM i, selects s f l x) ∧ residentTeam s c (s.team c).key ∧
    ∀ l ∈ s.lanesM i, ∀ m ∈ s.lanesM i, s.op64 c w l f.a = s.op64 c w m f.a ∧ s.op64 c w l f.b = s.op64 c w m f.b
  (∀ y ∈ [(Instr.semwGe f, false), (Instr.semwTake f, true)], agree y.1 → (s.sem x).wait = [] → HoldsWit (s.sem x).w →
    ∀ b, (∀ l ∈ s.lanesM y.1, (s.op64 c w l f.b).toNat = b) →
    (b ≤ (s.sem x).v → Satisfied s c (s.sem x).w →
      ∃ t u, exec y.1 s = .next t ∧ OnlySem s u x { s.sem x with v := if y.2 then (s.sem x).v - b else (s.sem x).v } ∧
        Past s y.1 (dsts f.d 1) { u with saved := t.saved, nv := t.nv } t ∧ Gives s t y.1 f.d 0 fun _ => (s.sem x).w) ∧
    ((s.sem x).v < b → ∃ t, exec y.1 s = .next t ∧ (∀ l ∈ s.lanesM y.1, (t.lane c w l).park = .sem) ∧ t.mem = s.mem ∧ t.pool = s.pool ∧
      t.ureg = s.ureg ∧ (∀ z, z ≠ x → t.sem z = s.sem z) ∧ (t.sem x).v = (s.sem x).v ∧ (t.sem x).w = (s.sem x).w ∧
      (t.sem x).wait = [{ who := .lanes c w (s.team c).key (Mask.ofLanes (s.lanesM y.1)) (dsts f.d 1).head?, thr := b, take := y.2, since := s.now }])) ∧
  (agree (.semrd f) → ∃ t, exec (.semrd f) s = .next t ∧ OnlyRegs s t (.semrd f) (dsts f.d 2) false ∧
    Gives s t (.semrd f) f.d 0 (fun _ => BitVec.ofNat 64 (s.sem x).v) ∧ Gives s t (.semrd f) f.d 1 fun _ => (s.sem x).w) ∧
  (agree (.semset f) → (s.sem x).wait = [] → ∀ l ∈ s.lanesM (.semset f), ∃ t u, exec (.semset f) s = .next t ∧
    OnlySem s u x { v := (s.op64 c w l f.b).toNat, w := 0, wait := [] } ∧
    AllLeave s (.semset f) f.d (semPoint x f.sc.code.toNat s.now) { u with lanes := s.wake.lanes } t)

/-- R267, R268, R270: a count that is set serves waiting requests in strict arrival order: the first that it does not reach stays, with
every later one, and the takes of the others have been paid. -/
def Sys2Proof.Claims.Semaphore_order : Prop := ∀ (s : State) (k c j b : Nat) (r : Req) (sc : Scope),
  s.reqs.find? k = some r → r.loc = .sync c (16 * j) → j < 64 → r.op = .store (leBytes 8 b) sc → b < 2 ^ 64 → s.canPerform r →
  (∀ y ∈ ((s.team c).sems.get {} j).wait, ∀ d w key m q, y.who = .lanes d w key m q → residentTeam s d key) → (s.teams.find? c).isSome →
  s.gone r = false → s.pal = [] →
  ∃ t served, exec (.semVStore k) s = .next t ∧
    let q := (t.team c).sems.get {} j
    ((s.team c).sems.get {} j).wait = served ++ q.wait ∧ q.w = 0 ∧
    q.v + ((served.filter (·.take)).map (·.thr)).sum = b ∧ ∀ y, q.wait.head? = some y → q.v < y.thr

/-- R270: stores to the words of a semaphore, of a core or of the package, act as `semset` and `seminc` with the store's own witness. -/
def Sys2Proof.Claims.Semaphore_stores : Prop := ∀ (s : State) (k b : Nat) (r : Req) (sc : Scope),
  s.reqs.find? k = some r → r.op = .store (leBytes 8 b) sc → b < 2 ^ 64 → s.canPerform r → s.gone r = false → s.pal = [] →
  r.join = none → r.lanes = Mask.one r.who.lane → r.who.lane < 32 → ∀ d, r.dst = some d →
  (∀ c j, r.loc = .sync c (16 * j) → j < 64 → ((s.team c).sems.get {} j).wait = [] → (s.teams.find? c).isSome →
    ∃ t, exec (.semVStore k) s = .next t ∧ (t.team c).sems.get {} j = { v := b, w := 0, wait := [] } ∧ t.mem = s.mem ∧
      t.replies = s.replies.set s.seq (replyOf r k [(d, point (0x200 + c) sc.code.toNat s.now, {})])) ∧
  (∀ c j, r.loc = .sync c (0x400 + 8 * j) → j < 64 → ((s.team c).sems.get {} j).wait = [] → HoldsWit ((s.team c).sems.get {} j).w →
    c < 1536 → 1 ≤ sc.code.toNat → (s.teams.find? c).isSome →
    ∃ t r', exec (.semIncrementPort k) s = .next t ∧ t.mem = s.mem ∧
      (t.team c).sems.get {} j = { v := min (((s.team c).sems.get {} j).v + b) (2 ^ 64 - 1), w := r', wait := [] } ∧
      Merged (fun y => s.linkDone (wConn y) (wSeq y)) c ((s.team c).sems.get {} j).w (point (0x200 + c) sc.code.toNat s.now) r') ∧
  (∀ j, r.loc = .burzon (0x100000 + 32 * j) → j < 4096 → (s.psems.get {} j).wait = [] →
    ∃ t, exec (.semVStore k) s = .next t ∧ t.psems.get {} j = { v := b, w := 0, wait := [] } ∧ t.mem = s.mem ∧
      t.replies = s.replies.set s.seq (replyOf r k [(d, frontier 7 s.now, {})])) ∧
  (∀ j, r.loc = .burzon (0x100000 + 32 * j + 16) → j < 4096 → (s.psems.get {} j).wait = [] → HoldsWit (s.psems.get {} j).w →
    ∃ t r', exec (.semIncrementPort k) s = .next t ∧ t.mem = s.mem ∧
      t.psems.get {} j = { v := min ((s.psems.get {} j).v + b) (2 ^ 64 - 1), w := r', wait := [] } ∧
      MergedInto s (.pkg j) (s.psems.get {} j).w (frontier 7 s.now) r')

namespace Sys2Proof.Claims

/-- The condition of `mwait` (R258). -/
def met (f : Eng) (v b : Nat) : Prop :=
  match f.mod.toNat % 4 with
  | 0 => codeInt f.ty v = codeInt f.ty b
  | 1 => codeInt f.ty v ≠ codeInt f.ty b
  | 2 => codeInt f.ty b ≤ codeInt f.ty v
  | _ => codeInt f.ty v < codeInt f.ty b

/-- The bytes of a place are read where they stand: HBM, or the scratchpad of a core on which a team of the context is resident. -/
def readHere (s : State) (ctx : Nat) : Loc → Prop
  | .hbm _ => True
  | .sp c _ => ∃ t, s.teams.find? c = some t ∧ t.ctx = ctx
  | _ => False

/-- From u, lane l of a warp has gone on past its word with v in register d and w in the next one. -/
def Finishes (c sl l : Nat) (d : Option Nat) (v w : Word) (u t : State) : Prop :=
  (t.lane c sl l).pc = (u.lane c sl l).next.pc ∧ (t.lane c sl l).park = .none ∧
  ∀ r, d = some r → r < 191 → t.reg c sl l r = v ∧ t.reg c sl l (r + 1) = w

end Sys2Proof.Claims

/-- R204, R258, R259, R262: `mwait` tests its word once, past accesses of its own lane to it, and leaves no stale copy in its core's L1; a lane whose condition is met goes on with the value and the agent's point, one without
a timeout with the null witness, and any other parks with a monitor that keeps the value and the deadline. -/
def Sys2Proof.Claims.Monitor_wait : Prop := ∀ (s u : State) (f : Eng) (l : Nat) (x : Loc) (leaf : Word), s.Alone (.mwait f) l →
  let (c, w) := (s.cur.core, s.cur.slot)
  placeOf s l .g (.mwait f.ty.bytes) (s.op64 c w l f.a).toNat f.ty.bytes = (u, .ok (x, leaf)) →
  let y := u.place x
  let v := leNat (u.bytes y f.ty.bytes)
  let u' := { u with l1 := u.l1.filter fun (k, z) => !(z.stale && k / 2 ^ 40 == c) }
  let b := (s.opnd c w l f.ty f.b).toNat % 2 ^ f.ty.width
  let n := min (s.op64 c w l f.c).toNat (2 ^ 40)
  readHere u (u.team c).ctx x →
  (u.laneBusy c w l x f.ty.bytes = true → Retries s (.mwait f) l u) ∧
  (u.laneBusy c w l x f.ty.bytes = false →
    (met f v b → ∃ t, exec (.mwait f) s = .next t ∧ LanesOnly c w [l] [l] (dsts f.d 2) false u' t ∧
      (f.d.toNat < 127 → t.reg c w l f.d.toNat = BitVec.ofInt 64 (codeInt f.ty v) ∧ t.reg c w l (f.d.toNat + 1) = point y.agent 7 u.now)) ∧
    (¬met f v b → n = 0 → ∃ t, exec (.mwait f) s = .next t ∧ LanesOnly c w [l] [l] (dsts f.d 2) false u' t ∧
      (f.d.toNat < 127 → t.reg c w l f.d.toNat = BitVec.ofInt 64 (codeInt f.ty v) ∧ t.reg c w l (f.d.toNat + 1) = 0)) ∧
    (¬met f v b → n ≠ 0 → ∃ t m, exec (.mwait f) s = .next t ∧ (t.lane c w l).park = .monitor u.seq ∧ t.mons = u.mons.set u.seq m ∧
      m.who = ⟨c, w, l⟩ ∧ m.loc = x ∧ m.value = v ∧ m.deadline = u.now + n ∧ m.b = b ∧ m.cond = f.mod.toNat % 4 ∧ m.done = none ∧
      m.dst = (dsts f.d 1).head? ∧ t = { u' with mons := t.mons, seq := u.seq + 1, lanes := t.lanes, nv := t.nv } ∧
      ∀ k, k ≠ laneKey c w l → t.lanes.get {} k = u.lanes.get {} k))

/-- R259, R260, R262: a monitor finishes with the value that a store leaves in its word, and the store's tick; at its deadline with the
value last read and the null witness; a polled one when a poll, a microsecond after the last or once its agent has an entry free, finds the
condition met, and the monitor moves to the agent that has room. -/
def Sys2Proof.Claims.Monitor_finish : Prop := ∀ (s : State) (k : Nat) (m : Mon), m.done = none →
  let (c, w, l) := (m.who.core, m.who.slot, m.who.lane)
  (s.lane c w l).park = .monitor k →
  (∀ n r (data : List Byte) sc p, s.wf → s.mons = [(k, m)] → m.polled = false → Ready s n r → r.op = .store data sc → s.place r.loc = .hbm p →
    s.place m.loc = .hbm p → data.length = m.ty.bytes → data ≠ [] → waitCond m.cond m.ty (leNat data) m.b = true → s.saved = [] →
    ∃ t, exec (.haRequestPerform n) s = .next t ∧ t.mons = [] ∧
      Finishes c w l m.dst (placed m.ty (leNat data)) (point (haOf p) 7 s.now) s t) ∧
  (s.mons.find? k = some m → m.deadline ≤ s.now → ∃ t, exec (.monitorDeadline k) s = .next t ∧ t.mons = s.mons.erase k ∧ t.mem = s.mem ∧
    Finishes c w l m.dst (placed m.ty m.value) 0 s t) ∧
  (s.mons.find? k = some m → m.polled = true → (m.lastPoll + 1000 ≤ s.now ∨ s.monRoom m.who m.loc = true) →
    readHere s m.ctx m.loc →
    let v := leNat (s.bytes (s.place m.loc) m.ty.bytes)
    (waitCond m.cond m.ty v m.b = true → ∃ t, exec (.monitorPoll k) s = .next t ∧ t.mons = s.mons.erase k ∧ t.mem = s.mem ∧
      Finishes c w l m.dst (placed m.ty v) (point (s.place m.loc).agent 7 s.now) s t) ∧
    (waitCond m.cond m.ty v m.b = false → ∃ t m', exec (.monitorPoll k) s = .next t ∧ t = { s with mons := s.mons.set k m' } ∧
      m'.value = v ∧ m'.lastPoll = s.now ∧ m'.deadline = m.deadline ∧ m'.done = none ∧ m'.polled = !s.monRoom m.who m.loc))

namespace Sys2Proof.Claims

/-- When an agent has published last (R224). -/
def published (s : State) (a : Nat) : Nat := s.ct.get s.ctBase a

/-- The tick before the present one. -/
def tickBefore (s : State) : Nat := (s.now + 2 ^ 44 - 1) % 2 ^ 44

/-- No samples of a lane wait for their writes to close (R375). -/
def NoSampleCloses (s : State) : Prop := ∀ x ∈ s.joins, x.2.shut = none

/-- Nothing waits for writes to close. -/
def NoneCloses (s : State) : Prop := (∀ x ∈ s.ctxs, x.2.advs = []) ∧ s.conns = [] ∧ s.colls = [] ∧ NoSampleCloses s

/-- The die to whose service pair an agent's reports go: the agent's, or the leader's (R225). -/
def dieOfReports (s : State) (a : Nat) : Nat := if a < 0x200 then a / 64 else if a < 0x800 then (a - 0x200) / 192 else s.lead.toNat % 8

end Sys2Proof.Claims

/-- R204, R223-R225: an agent's closed tick moves on to the tick before its time, and L1 copies of its lines that are stale leave with it; a
step that comes too soon changes nothing; an access that has not closed within a millisecond is reported to the pair of its agent's die
and stays.
That all agents count one time is the model's choice: log entry 83; to which of a pair's pages a report goes, log entry 23. -/
def Obligations.Closed_ticks : Prop := ∀ (s : State),
  (∀ a, a < 0x802 → published s a + 64 ≤ s.now → ∃ t, exec (.closedTickPublish (some a)) s = .next t ∧ t.ctOf a = tickBefore s ∧
    published t a = s.now ∧ (∀ b, b ≠ a → t.ctOf b = s.ctOf b) ∧
    (NoneCloses s → t.mem = s.mem ∧ t.reqs = s.reqs ∧ ∀ x ∈ t.l1, x ∈ s.l1 ∧ (x.2.stale = true → haOf (x.1 % 2 ^ 40 * 128) ≠ a))) ∧
  (∀ a, a < 0x802 → s.now < published s a + 64 → exec (.closedTickPublish (some a)) s = .next s) ∧
  ((∀ a, published s a + 64 ≤ s.now) → Tab.sortedFrom 0 s.ct = true → s.ctBase + 64 ≤ s.now → ∃ t, exec (.closedTickPublish none) s = .next t ∧
    (∀ a, t.ctOf a = tickBefore s) ∧ (NoneCloses s → t.mem = s.mem ∧ t.reqs = s.reqs ∧ ∀ x ∈ t.l1, x ∈ s.l1 ∧ x.2.stale = false)) ∧
  ∀ k r, s.reqs.find? k = some r → if s.now < r.since + 1000000 then exec (.accessCloseTimeout k) s = .next s else
    exec (.accessCloseTimeout k) s = .next
      (let m := Config.portMessage s.free
       { s with
         imsg := s.imsg.set s.seq (4 * s.servedBy (dieOfReports s (s.place r.loc).agent) + m.1 % 2, m.2), seq := s.seq + 1, free := s.free + 1 })


namespace Sys2Proof.Claims

-- Decayed words

/-- A decayed word's fields (R172). -/
def factorOf (w : Word) : Nat := w.toNat / 2 ^ 56
def stampOf (w : Word) : Nat := w.toNat / 2 ^ 32 % 2 ^ 24
def valueOf (w : Word) : Nat := w.toNat % 2 ^ 32
def decayedWord (f stamp v : Nat) : Word := BitVec.ofNat 64 (f * 2 ^ 56 + stamp % 2 ^ 24 * 2 ^ 32 + v)

/-- AGE (R177). -/
def ageOf (w : Word) (g : Nat) : Nat := (((g : Int) - stampOf w) % 2 ^ 24).toNat

/-- P(n, F): the row's powers at the set bits of n, lowest first, each product rounded (R177). -/
def powerOf (x : CtxSt) (f n : Nat) : Nat :=
  (List.range 24).foldl (fun q i => match (x.row f)[i]? with
    | some p => if n.testBit i then mul32 q p else q
    | none => q) one32

/-- DVAL (R177). -/
def valueAt (x : CtxSt) (w : Word) (g : Nat) : Nat :=
  if 2 ^ 23 ≤ ageOf w g then 0 else mul32 (valueOf w) (powerOf x (factorOf w) (ageOf w g))

/-- A stale word of a context has been counted, where it counts: its value is not ±0 (R178). -/
def CountedStale (s u : State) (ctx : Nat) (w : Word) (g : Nat) : Prop :=
  u = { s with ctxs := u.ctxs, nv := u.nv } ∧
  (2 ^ 23 ≤ ageOf w g ∧ valueOf w % 2 ^ 31 ≠ 0 → (u.ctxs.get {} ctx).dstale = ((s.ctxs.get {} ctx).dstale + 1) % 2 ^ 64) ∧
  (¬(2 ^ 23 ≤ ageOf w g ∧ valueOf w % 2 ^ 31 ≠ 0) → u = s)

/-- The step that an agent holds: the one that is being adopted, where it has that (R175, R185). -/
def heldStep (x : CtxSt) (agent : Nat) : Nat :=
  match x.next with
  | some g => if x.adopted.get false agent = true then g else x.step
  | none => x.step

/-- `atomd` (R182): the new word from the old one, at the agent's step. -/
def addedWord (x : CtxSt) (g : Nat) (old : Word) (b : Nat) : Word :=
  decayedWord (factorOf old) g (add32 (valueAt x old g) b)
def mergedWord (x : CtxSt) (g : Nat) (old b : Word) : Word :=
  let (am, ay) := (ageOf old g, ageOf b g)
  let side := fun w a => if 2 ^ 23 ≤ a then 0 else mul32 (valueOf w) (powerOf x (factorOf w) (a - min am ay))
  decayedWord (factorOf old) (if am ≤ ay then stampOf old else stampOf b) (add32 (side old am) (side b ay))

/-- A word as a sweep before boundary b leaves it (R186). -/
def sweptWord (x : CtxSt) (b : Nat) (w : Word) : Word :=
  if 2 ^ 22 ≤ ((b : Int) - stampOf w) % 2 ^ 24 then decayedWord (factorOf w) x.step (valueAt x w x.step) else w

/-- The 8-byte word of HBM at an address. -/
def wordOf (s : State) (p : Nat) : Word := BitVec.ofNat 64 (leNat (s.bytes (.hbm p) 8))

/-- From u every lane of the instance has gone past its word, and nothing else has changed. -/
def AllPast (s : State) (i : Instr) (u t : State) : Prop :=
  LanesOnly s.cur.core s.cur.slot (s.issuing i) (s.lanesM i) [] false u t

end Sys2Proof.Claims

/-- R173, R178, R180, R181, R185: `ldd` returns a word's decayed value at the step that its core holds, or the word brought to it, and counts
a stale one; `std` writes a word, `std.dw` with
the stamp of the agent's step. -/
def Sys2Proof.Claims.Decayed_access : Prop := ∀ (s u : State) (f : Mem) (l p : Nat) (leaf : Word),
  (s.Alone (.ldd f) l → ∀ g, s.waitWit s.cur.core s.cur.slot l (s.opnd s.cur.core s.cur.slot l .wt f.b) = .go g →
    g.locate s.cur.core (g.isUser s.cur.core s.cur.slot l) .g (.decayed true false) (addrOf s f l 8) 8 = (u, .ok (.hbm p, leaf)) →
    ∃ t, exec (.ldd f) s = .next t ∧ Sends s t u l (dsts f.d 1) (requestOf s u l (.hbm p) leaf (.lddw f.ty) f.d)) ∧
  (s.Alone (.std f) l → placeOf s l .g (.decayed false true) (addrOf s f l 8) 8 = (u, .ok (.hbm p, leaf)) →
    let v := s.opnd s.cur.core s.cur.slot l f.ty f.b
    ∃ t, exec (.std f) s = .next t ∧ Sends s t u l (dsts f.d 1)
      (requestOf s u l (.hbm p) leaf (if f.ty = .dw then .stdw v f.sc else .store (leBytes 8 v.toNat) f.sc) f.d)) ∧
  (∀ k r ty, Ready s k r → s.place r.loc = .hbm p → r.op = .lddw ty → ∃ t, exec (.haRequestPerform k) s = .next t ∧
    t.mem = s.mem ∧ t.replies = s.replies.set s.seq
      { replyOf r k [(r.dst.getD 192, wordOf s p, { bad := s.bad (.hbm p) })] with load := true, kind := if ty = .f32 then 1 else 2 }) ∧
  (∀ k r w sc, s.wf → Ready s k r → s.place r.loc = .hbm p → r.op = .stdw w sc → ∃ t, exec (.haRequestPerform k) s = .next t ∧
    Wrote s t (.hbm p) (leBytes 8 (decayedWord (factorOf w) (heldStep (s.ctxs.get {} r.ctx) (haOf p)) (valueOf w)).toNat) ∧
    t.tags.find? (p / 128) = if r.leaf.getLsbD 13 then some r.ctx else (s.tags.erase (p / 128)).find? (p / 128)) ∧
  ∀ k (r : Machine.Reply) d w, s.replies.find? k = some r → r.join = none → residentTeam s r.who.core r.team → r.regs = [(d, w, {})] → d < 192 →
    r.kind = 1 ∨ r.kind = 2 → (s.lane r.who.core r.who.slot r.who.lane).live = true →
    (s.mark r.who.core r.who.slot r.who.lane d).pend = r.id + 1 →
    let x := s.ctxOf r.who.core
    let g := heldStep x (0x200 + r.who.core)
    ∃ t, exec (.registerWriteback r.who.core k) s = .next t ∧ t.mem = s.mem ∧ (t.ctxOf r.who.core).dstale =
        (if 2 ^ 23 ≤ ageOf w g ∧ valueOf w % 2 ^ 31 ≠ 0 then (x.dstale + 1) % 2 ^ 64 else x.dstale) ∧
      t.reg r.who.core r.who.slot r.who.lane d = if r.kind = 1 then BitVec.ofNat 64 (valueAt x w g) else decayedWord (factorOf w) g (valueAt x w g)

/-- R182, R185, R188, R190: an `atomd` lane waits at its word until its reply is back; its agent adds or merges in one step, at the step that
it holds, and leaves a poisoned word alone: the lane then traps, and its registers wait no longer. -/
def Sys2Proof.Claims.Decayed_atomics : Prop := ∀ (s v : State) (f : Eng) (l p : Nat) (leaf : Word),
  let (c, w) := (s.cur.core, s.cur.slot)
  let s' := { s with seq := s.seq + 1 }
  let b := s.opnd c w l f.ty f.b
  (∀ x ∈ [(Instr.atomdAdd f, ReqOp.addDw (b.toNat % 2 ^ 32) f.sc), (.atomdMrg f, .mrgDw b f.sc)], s.Alone x.1 l → s.drainFull c = false →
    s.cur.lanes = Mask.one l → s'.locate c (s.isUser c w l) .g (.decayed true true) (s.op64 c w l f.a).toNat 8 = (v, .ok (.hbm p, leaf)) →
    v.seq = s'.seq →
    ∃ t j, exec x.1 s = .next t ∧ (t.lane c w l).park = .replies s.seq ∧ (t.lane c w l).pc = (v.lane c w l).pc ∧
      t.reqs = v.reqs.set v.seq
        { requestOf s v l (.hbm p) leaf x.2 f.d with path := some c, inst := s.seq + 1, join := some s.seq } ∧
      (∀ r ∈ dsts f.d 2, r < 192 → (t.mark c w l r).pend = v.seq + 1) ∧ t.joins = v.joins.set s.seq j ∧ j.left = 1 ∧
      j.lanes = Mask.one l ∧ j.word = s.cur.word ∧ j.faults = [] ∧ t.mem = v.mem ∧ t.pool = v.pool ∧ t.ureg = v.ureg) ∧
  (∀ k r sc (d j : Nat), s.wf → Ready s k r → s.place r.loc = .hbm p → r.dst = some d → r.join = some j →
    let x := s.ctxs.get {} r.ctx
    let g := heldStep x (haOf p)
    let reply := fun fault => { replyOf r k [(d, wordOf s p, {}), (d + 1, point (haOf p) sc.code.toNat s.now, {})] with
      load := true, join := some (j, fault, 0) }
    ∀ new, ((∃ b, b < 2 ^ 32 ∧ r.op = .addDw b sc ∧ new = addedWord x g (wordOf s p) b) ∨
        ∃ b, r.op = .mrgDw b sc ∧ new = mergedWord x g (wordOf s p) b) →
    ∃ t, exec (.haRequestPerform k) s = .next t ∧
      if s.bad (.hbm p) then t.mem = s.mem ∧ t.replies = s.replies.set s.seq (reply 0x11)
      else Wrote s t (.hbm p) (leBytes 8 new.toNat) ∧ t.replies = s.replies.set s.seq (reply 0)) ∧
  ∀ k (r : Machine.Reply) j n a x, s.replies.find? k = some r → r.join = some (j, n, a) → residentTeam s r.who.core r.team →
    s.joins.find? j = some x → x.left = 1 → x.faults = [] → x.lanes = Mask.one r.who.lane → r.who.lane < 32 → x.who.core = r.who.core →
    x.who.slot = r.who.slot → (s.lane r.who.core r.who.slot r.who.lane).live = true →
    (s.lane r.who.core r.who.slot r.who.lane).park = .replies j →
    ∃ t, exec (.registerWriteback r.who.core k) s = .next t ∧
      (n = 0 → (t.lane r.who.core r.who.slot r.who.lane).park = .none ∧ t.joins = s.joins.erase j ∧ t.mem = s.mem ∧
        (t.lane r.who.core r.who.slot r.who.lane).pc = (s.lane r.who.core r.who.slot r.who.lane).next.pc) ∧
      (n = 0x11 → ∃ v : State, v.cur.word = x.word ∧ v.mem = s.mem ∧ (v.lane r.who.core r.who.slot r.who.lane).pc = (s.lane r.who.core r.who.slot r.who.lane).pc ∧
        (∀ z ∈ r.regs, z.1 < 192 → (v.mark r.who.core r.who.slot r.who.lane z.1).pend ≠ r.id + 1) ∧
        t = (v.takeTrap r.who.core r.who.slot (Mask.one r.who.lane) 0 [(r.who.lane, 0x11, a)] 0 0).wake)

/-- R184-R187: for the oldest `stepadv` of a context, each HA first rebases its words of the context's lines where a boundary of 2^22 steps
is crossed, poisoned words excepted; then each agent adopts the step; and once all have, the step is the context's and the lanes of the
`stepadv` go on with a frontier of that moment.
That an agent does its part when it publishes a closed tick is the model's choice: log entry 47. -/
def Sys2Proof.Claims.Step_adoption : Prop := ∀ (s : State) (k a : Nat) (r : StepReq) (rest : List StepReq),
  let x := s.ctxs.get {} k
  s.stepping = [k] → s.conns = [] → s.colls = [] → s.mons = [] → s.wf → Tab.sortedFrom 0 s.tags = true → x.advs = r :: rest →
  published s a + 64 ≤ s.now →
  (x.next = none → a < 0x200 → x.swept.get false a = false → ∃ t, exec (.closedTickPublish (some a)) s = .next t ∧
    (∀ line j, j < 16 → let p := 128 * line + 8 * j
      wordOf t p = if s.tags.find? line = some k ∧ haOf (128 * line) = a ∧ s.bad (.hbm p) = false
        then sweptWord x ((x.step / 2 ^ 22 + 1) * 2 ^ 22) (wordOf s p) else wordOf s p) ∧
    let y := t.ctxs.get {} k
    y.step = x.step ∧ y.advs = x.advs ∧ (y.next = none ∧ y.swept.get false a = true ∨ y.next = some ((x.step + r.n) % 2 ^ 64) ∧ y.swept = [])) ∧
  (∀ g, x.next = some g → a < 0x800 → ∃ t, exec (.closedTickPublish (some a)) s = .next t ∧ t.mem = s.mem ∧
    heldStep (t.ctxs.get {} k) a = g ∧ ∀ b, b ≠ a → heldStep (t.ctxs.get {} k) b = heldStep x b ∨ (t.ctxs.get {} k).step = g) ∧
  (∀ g, x.next = some g → rest = [] → (∀ a, published s a + 64 ≤ s.now) → Tab.sortedFrom 0 s.ct = true → s.ctBase + 64 ≤ s.now →
    residentTeam s r.who.core r.team → ∃ t, exec (.closedTickPublish none) s = .next t ∧ t.mem = s.mem ∧
      (let y := t.ctxs.get {} k
       y.step = g ∧ y.next = none ∧ y.advs = []) ∧
      ∀ l ∈ r.lanes.lanes, let here := s.lane r.who.core r.who.slot l
        here.live = true → here.park = .step → (t.lane r.who.core r.who.slot l).park = .none ∧
          (t.lane r.who.core r.who.slot l).pc = here.next.pc ∧
          ∀ d, r.dst = some d → d < 128 → t.reg r.who.core r.who.slot l d = frontier 7 s.now)

/-- R175-R178, R183, R184: `dcvt` and `steprd`; `stepadv` joins its context's queue, and its lanes wait; a write of `dfac` sets a factor, its
row of squares and the copy at FACTAB. -/
def Sys2Proof.Claims.Step_words : Prop := ∀ (s : State) (f : Alu) (e : Eng) (m : Imm) (l : Nat),
  let (c, w) := (s.cur.core, s.cur.slot)
  let ctx := (s.team c).ctx
  let x := s.ctxs.get {} ctx
  (s.Alone (.dcvt f) l →
    let a := s.opnd c w l .dw f.a
    let g := (s.op64 c w l f.b).toNat
    ∃ t u, exec (.dcvt f) s = .next t ∧ CountedStale s u ctx a g ∧ Leaves s l f.d
      (if f.ty = .dw then decayedWord (factorOf a) g (valueAt x a g) else BitVec.ofNat 64 (valueAt x a g)) u t) ∧
  (s.clear (.steprd f) → Computes s (.steprd f) f.d false fun _ => BitVec.ofNat 64 (heldStep x (0x200 + c))) ∧
  (Whole s (.stepadv e) → (s.lanesM (.stepadv e)).head? = some l →
    let n := (s.op64 c w l e.a).toNat
    let b := (x.step / 2 ^ 22 + 1) * 2 ^ 22
    (n = 0 ∨ 2 ^ 20 < n → exec (.stepadv e) s = .next (s.trapAll (s.lanesM (.stepadv e)) 0x05 0)) ∧
    (1 ≤ n → n ≤ 2 ^ 20 → ∃ t, exec (.stepadv e) s = .next t ∧ (∀ k ∈ s.lanesM (.stepadv e), (t.lane c w k).park = .step) ∧
      t = { s with ctxs := t.ctxs, lanes := t.lanes } ∧ (∀ y, y ≠ ctx → t.ctxs.get {} y = s.ctxs.get {} y) ∧
      let y := t.ctxs.get {} ctx
      y.step = x.step ∧ y.advs = x.advs ++ [{ who := ⟨c, w, l⟩, lanes := Mask.ofLanes (s.lanesM (.stepadv e)), team := s.ownKey c, n := n, dst := (dsts e.d 1).head? }] ∧
      (x.advs = [] → x.next = none → y.next = if x.step + n < b then some ((x.step + n) % 2 ^ 64) else none))) ∧
  (Whole s (.dfacWrite m) → (s.lanesM (.dfacWrite m)).head? = some l →
    let v := (s.op64 c w l m.a).toNat
    let lam := if v % 2 ^ 32 = 2 ^ 31 then 0 else v % 2 ^ 32
    (2 ^ 40 ≤ v ∨ one32 < lam → exec (.dfacWrite m) s = .next (s.trapAll (s.lanesM (.dfacWrite m)) 0x05 0)) ∧
    (v < 2 ^ 40 → lam ≤ one32 → ∃ t, exec (.dfacWrite m) s = .next t ∧
      (let y := t.ctxs.get {} ctx
       y.lam.get one32 (v / 2 ^ 32) = lam ∧ (y.row (v / 2 ^ 32)).length = 24 ∧ (y.row (v / 2 ^ 32))[0]? = some lam ∧ y.step = x.step ∧
        (∀ i < 23, ∀ p q, (y.row (v / 2 ^ 32))[i]? = some p → (y.row (v / 2 ^ 32))[i + 1]? = some q → q = mul32 p p) ∧
        ∀ f', f' ≠ v / 2 ^ 32 → y.row f' = x.row f' ∧ y.lam.get one32 f' = x.lam.get one32 f') ∧
      ((s.team c).factab = 0 → AllPast s (.dfacWrite m) { s with ctxs := t.ctxs } t) ∧
      ((s.team c).factab ≠ 0 → s.wf → s.pal = [] → ∀ u p leaf, { s with ctxs := t.ctxs }.enginePlace (some c) ctx true .st ((s.team c).factab + 4 * (v / 2 ^ 32)) 4 =
        (u, .ok (.hbm p, leaf)) → u.wf → u.registered p = none → u.registered (p + 3) = none → leNat (t.bytes (.hbm p) 4) = lam)))


namespace Sys2Proof.Claims

-- Control

/-- From u (the state at issue, or what a fetch of the target has made of it) each lane of M has gone to its target and every other lane
of the instance past the word; beside that only the registers `ds` of M have changed. -/
def Jumps (s u t : State) (i : Instr) (ds : List Nat) (go : Nat → Word) : Prop :=
  let (c, w) := (s.cur.core, s.cur.slot)
  t = { u with pool := t.pool, marks := t.marks, ureg := t.ureg, umarks := t.umarks, lanes := t.lanes } ∧
  (∀ k, (∀ l ∈ s.lanesM i, ∀ r ∈ ds, r < 128 → k ≠ s.poolKey c w r l) →
    t.pool.get 0 k = u.pool.get 0 k ∧ t.marks.get {} k = u.marks.get {} k) ∧
  (∀ k, (∀ r ∈ ds, 128 ≤ r → r < 192 → k ≠ uregKey c w (r - 128)) →
    t.ureg.get 0 k = u.ureg.get 0 k ∧ t.umarks.get {} k = u.umarks.get {} k) ∧
  (∀ l ∈ s.issuing i, ∃ sh, t.lane c w l =
    if l ∈ s.lanesM i then { u.lane c w l with prev := (u.lane c w l).pc, pc := go l, tied := false, shadow := sh }
    else { (u.lane c w l).next with shadow := sh }) ∧
  ∀ k, (∀ l ∈ s.issuing i, k ≠ laneKey c w l) → t.lanes.get {} k = u.lanes.get {} k

/-- No cross-lane instance, no convergence signature and no request of a semaphore waits on the core. -/
def Quiet (s : State) (c : Nat) : Prop :=
  (∀ x ∈ (s.team c).sems, x.2.wait = []) ∧ (∀ x ∈ s.psems, x.2.wait = []) ∧ (s.team c).cross = [] ∧ ∀ n, ((s.team c).kregs.get {} n).signed = 0 ∧ ((s.team c).kregs.get {} n).signs = []

/-- The lanes `gone` of a warp have ended, and `flagged` will at their `tret`; registers, predicates and memory are as they were. -/
def Ended (s t : State) (c w : Nat) (gone flagged : List Nat) : Prop :=
  (∀ l ∈ gone, let x := t.lane c w l; x.live = false ∧ x.lc0.active = false ∧ x.lc1.active = false ∧ x.park = .none) ∧
  (∀ l ∈ flagged, (t.lane c w l).live = true ∧ (t.lane c w l).killed = true) ∧
  (∀ k, (∀ l ∈ gone, k ≠ laneKey c w l) → (t.lanes.get {} k).live = (s.lanes.get {} k).live) ∧
  (∀ k, (t.lanes.get {} k).preds = (s.lanes.get {} k).preds) ∧
  -- registers keep their values, and wait for no result
  t.pool = s.pool ∧ t.ureg = s.ureg ∧ t.mem = s.mem ∧ t.sp = s.sp ∧
  (∀ k, (∀ l ∈ gone, ∀ r, k ≠ s.poolKey c w r l) → t.marks.get {} k = s.marks.get {} k) ∧
  (∀ l ∈ gone, ∀ r < 128, r < s.share c → w * s.share c + r < 2048 → t.mark c w l r = { s.mark c w l r with pend := 0, fut := none }) ∧
  (∀ x ∈ t.mons, ∀ l ∈ gone, x.2.who ≠ ⟨c, w, l⟩ ∨ x.2.team ≠ (s.team c).key) ∧
  ((t.team c).ended = true ↔ ∀ v < (s.team c).nwarp, ∀ l < 32, (t.lane c v l).live = false)

/-- Lanes that a mask operand names and that live (R324). -/
def named (s : State) (c w : Nat) (m : Word) : List Nat := (List.range 32).filter fun l => m.getLsbD l && (s.lane c w l).live

/-- The lane's word is complete: it goes on past it. -/
def wentOn (x : LaneSt) (sh : List Shadow) : LaneSt := { ({ x with park := .none, since := 0 } : LaneSt).next with shadow := sh }

end Sys2Proof.Claims

/-- R321, R319: branches, calls and returns act per lane; `brx` and `calx` check their target, with the fetch fault or the landing fault
at it, D unchanged; `land` has no effect. -/
def Sys2Proof.Claims.Branches : Prop := ∀ (s : State) (b : Br) (f : Alu),
  let (c, w) := (s.cur.core, s.cur.slot)
  let by8 := fun l => (s.lane c w l).pc + 8 * b.off.signExtend 64
  (s.clear (.bra b) → ∃ t, exec (.bra b) s = .next t ∧ Jumps s s t (.bra b) [] by8) ∧
  (s.clear (.call b) → ∃ t, exec (.call b) s = .next t ∧ Jumps s s t (.call b) (dsts b.d 1) by8 ∧
    Gives s t (.call b) b.d 0 fun l => (s.lane c w l).pc + 8) ∧
  (s.clear (.ret f) → ∃ t, exec (.ret f) s = .next t ∧ Jumps s s t (.ret f) [] fun l => s.op64 c w l f.a) ∧
  (s.clear (.land f) → ∃ t, exec (.land f) s = .next t ∧ OnlyRegs s t (.land f) [] false) ∧
  ∀ x ∈ [(Instr.brx f, ([] : List Nat)), (.calx f, dsts f.d 1)], ∀ l, s.Alone x.1 l →
    let a := s.op64 c w l f.a
    (a.toNat % 8 ≠ 0 → Traps s s x.1 l 0x08 a.toNat 0) ∧
    (∀ u, s.fetchPlace c w l a = (u, none) → Traps s u x.1 l 0x08 a.toNat 0) ∧
    ∀ u pa, s.fetchPlace c w l a = (u, some pa) →
      let word := (u.wordAt c pa).toNat
      if word / 2 ^ 62 = 0 ∧ word / 2 ^ 45 % 2 ^ 10 = 0x385 then
        ∃ t, exec x.1 s = .next t ∧ Jumps s u t x.1 x.2 (fun _ => a) ∧ ∀ r ∈ x.2, t.reg c w l r = (s.lane c w l).pc + 8
      else Traps s u x.1 l 0x09 a.toNat 0

/-- R322: `hlp` starts a loop in each lane of M, or skips its body where the count is 0. -/
def Sys2Proof.Claims.Loop_start : Prop := ∀ (s : State) (f : Br), s.clear (.hlp f) →
  let (c, w) := (s.cur.core, s.cur.slot)
  ∃ t, exec (.hlp f) s = .next t ∧ t = { s with lanes := t.lanes } ∧
    (∀ k, (∀ l ∈ s.issuing (.hlp f), k ≠ laneKey c w l) → t.lanes.get {} k = s.lanes.get {} k) ∧
    ∀ l ∈ s.issuing (.hlp f), ∃ sh,
      let x := s.lane c w l
      let count := (s.op64 c w l f.a).toNat % 2 ^ 32
      let e := x.pc + 8 * f.off.signExtend 64
      let on : Loop := { count := BitVec.ofNat 32 count, start := x.pc + 8, stop := e, active := true }
      t.lane c w l =
        if l ∉ s.lanesM (.hlp f) then { x.next with shadow := sh }
        else if count = 0 then
          (if f.d = 0 then { x with prev := x.pc, pc := e + 8, tied := false, shadow := sh, lc0 := { x.lc0 with active := false } }
           else { x with prev := x.pc, pc := e + 8, tied := false, shadow := sh, lc1 := { x.lc1 with active := false } })
        else if f.d = 0 then { ({ x with lc0 := on, later := false } : LaneSt).next with shadow := sh }
        else { ({ x with lc1 := on, later := true } : LaneSt).next with shadow := sh }

/-- R323: the loop-end test of a lane that steps past a word. -/
def Sys2Proof.Claims.Loop_end : Prop := ∀ x : LaneSt,
  let ends := fun (y : Loop) => y.active = true ∧ y.stop = x.pc
  let less := fun (y : Loop) => ({ y with count := y.count - 1 } : Loop)
  let ended := fun (y : Loop) => ({ y with count := 0, active := false } : Loop)
  let go := { x with prev := x.pc, pc := x.pc + 8, tied := false }
  (¬ends x.lc0 → ¬ends x.lc1 → x.next = go) ∧
  (ends x.lc0 → (ends x.lc1 → x.later = false) → x.lc0.count ≠ 1 → x.next = { go with pc := x.lc0.start, lc0 := less x.lc0 }) ∧
  (ends x.lc1 → (ends x.lc0 → x.later = true) → x.lc1.count ≠ 1 → x.next = { go with pc := x.lc1.start, lc1 := less x.lc1 }) ∧
  (ends x.lc0 → ¬ends x.lc1 → x.lc0.count = 1 → x.next = { go with lc0 := ended x.lc0 }) ∧
  (ends x.lc1 → ¬ends x.lc0 → x.lc1.count = 1 → x.next = { go with lc1 := ended x.lc1 }) ∧
  (ends x.lc0 → ends x.lc1 →
    (x.later = false → x.lc0.count = 1 → x.next =
      if x.lc1.count = 1 then { go with lc0 := ended x.lc0, lc1 := ended x.lc1 }
      else { go with pc := x.lc1.start, lc0 := ended x.lc0, lc1 := less x.lc1 }) ∧
    (x.later = true → x.lc1.count = 1 → x.next =
      if x.lc0.count = 1 then { go with lc0 := ended x.lc0, lc1 := ended x.lc1 }
      else { go with pc := x.lc0.start, lc0 := less x.lc0, lc1 := ended x.lc1 }))

/-- R324, R438: `exit` ends the lanes of M, `kill` those that it names, a handler lane at its `tret`; the service OS and ECTL 2 and 3 end
a warp's or a team's lanes. Registers and memory stay. ECTL 1 lets a frozen warp go on; without a frozen warp ECTL does nothing. -/
def Sys2Proof.Claims.Lane_ends : Prop := ∀ (s : State) (f : Alu) (c w : Nat), Quiet s c → (s.teams.find? c).isSome →
  let x := s.warp c w
  let all := (List.range 32).filter fun l => (s.lane c w l).live
  let lifted := { x with frozen := false, estat := x.estat &&& 0x7FFFFFFFFFFFFFFF }
  let team := fun (t : State) => (∀ v < (s.team c).nwarp, ∀ l < 32, (t.lane c v l).live = false) ∧ (t.team c).ended = true ∧
    t.pool = s.pool ∧ t.ureg = s.ureg ∧ t.mem = s.mem ∧ t.sp = s.sp
  (c = s.cur.core → w = s.cur.slot → s.clear (.exit f) → s.lanesM (.exit f) ≠ [] →
    ∃ t, exec (.exit f) s = .next t ∧ Ended s t c w (s.lanesM (.exit f)) []) ∧
  (c = s.cur.core → w = s.cur.slot → s.clear (.kill f) → ∀ m, (s.lanesM (.kill f)).head? = some m →
    let ls := named s c w (s.op64 c w m f.a)
    ∃ t, exec (.kill f) s = .next t ∧
      Ended s t c w (ls.filter fun l => !(s.lane c w l).handler) (ls.filter fun l => (s.lane c w l).handler)) ∧
  (∃ t, exec (.serviceOsEndsTeam c) s = .next t ∧ team t) ∧
  (x.frozen = true →
    (∃ t, exec (.escalationResume c w) s = .next t ∧ t.warp c w = lifted ∧ t.pool = s.pool ∧ t.ureg = s.ureg ∧ t.mem = s.mem ∧
      ∀ l < 32, (t.lane c w l).live = (s.lane c w l).live ∧ ((s.lane c w l).park = .none → (t.lane c w l).pc = (s.lane c w l).pc)) ∧
    (∃ t, exec (.escalationEndFrozen c w) s = .next t ∧ t.warp c w = lifted ∧ Ended s t c w all []) ∧
    ∃ t, exec (.escalationEndTeam c w) s = .next t ∧ t.warp c w = lifted ∧ team t) ∧
  (x.frozen = false → ∀ i ∈ [Instr.escalationResume c w, .escalationEndFrozen c w, .escalationEndTeam c w], exec i s = .next s)

/-- R327, R77: `nap` completes the warp's fixed-latency writes and parks M; `nap 0` parks for no time. The nap's end lets those lanes go
on whose time has come. -/
def Sys2Proof.Claims.Naps : Prop := ∀ (s : State) (f : Imm) (c w : Nat),
  (c = s.cur.core → w = s.cur.slot → Whole s (.nap f) → ∃ t, exec (.nap f) s = .next t ∧ t = { s with lanes := t.lanes } ∧
    (∀ l < 32, t.lane c w l =
      if l ∉ s.lanesM (.nap f) then { s.lane c w l with shadow := [] }
      else if f.imm = 0 then { (s.lane c w l).next with shadow := [] }
      else { s.lane c w l with shadow := [], park := .nap (s.now + f.imm.toNat) }) ∧
    ∀ k, (∀ l < 32, k ≠ laneKey c w l) → t.lanes.get {} k = s.lanes.get {} k) ∧
  ∃ t, exec (.napExpiry c w) s = .next t ∧ t = { s with lanes := t.lanes } ∧
    (∀ l < 32, ∀ u, (s.lane c w l).park = .nap u → t.lane c w l = if u ≤ s.now then wentOn (s.lane c w l) (s.lane c w l).shadow else s.lane c w l) ∧
    (∀ l < 32, (∀ u, (s.lane c w l).park ≠ .nap u) → t.lane c w l = s.wake.lane c w l) ∧
    ∀ k, (∀ l < 32, k ≠ laneKey c w l) → t.lanes.get {} k = s.wake.lanes.get {} k

/-- R325, R240: a lane arrives at a barrier once its writes are stamped, with the witness of its fence; when every live lane of the team,
or of the gang, has arrived, the arrivals are cleared and each lane goes on once the merged witness is satisfied. -/
def Sys2Proof.Claims.Barriers : Prop := ∀ (s : State) (f : Alu) (l : Nat), ∀ x ∈ [(Instr.bar f, false, 3), (.barg f, true, 6)], s.Alone x.1 l →
  let (c, w) := (s.cur.core, s.cur.slot)
  let n := f.opx.toNat
  let key := if x.2.1 then 8 + n else n
  let cores := if x.2.1 then s.gangTeams c else [c]
  (s.stamped c w l = false → Retries s x.1 l s) ∧
  (s.stamped c w l = true → cores.Nodup → (∀ d ∈ cores, (s.team d).nwarp ≤ 48) → ⟨c, w, l⟩ ∈ s.liveOf cores →
    ∀ g, s.fenceWit c w l x.2.2 = some g →
    ((∃ y ∈ s.liveOf cores, y ≠ ⟨c, w, l⟩ ∧ s.arrival n x.2.1 y = none) →
      ∃ t sh, exec x.1 s = .next t ∧ t = { s with lanes := t.lanes, teams := t.teams } ∧
        t.lane c w l = { s.lane c w l with park := .bar n x.2.1 g, shadow := sh } ∧
        (∀ k, k ≠ laneKey c w l → t.lanes.get {} k = s.lanes.get {} k) ∧
        (∀ d, d ≠ c → t.team d = s.team d) ∧ (t.team c).bars.find? key =
          some (match (s.team c).bars.find? key with | some (first, _) => first | none => s.now, w)) ∧
    ((∀ y ∈ s.liveOf cores, y ≠ ⟨c, w, l⟩ → s.arrival n x.2.1 y = some 0) → g = 0 →
      ∃ t, exec x.1 s = .next t ∧ t = { s with lanes := t.lanes, teams := t.teams } ∧
        (∀ y ∈ s.liveOf cores, ∃ sh, t.lane y.core y.slot y.lane = wentOn (s.lane y.core y.slot y.lane) sh) ∧
        (∀ k, (∀ y ∈ s.liveOf cores, k ≠ laneKey y.core y.slot y.lane) → t.lanes.get {} k = s.lanes.get {} k) ∧
        ∀ d ∈ cores, (t.team d).bars = (s.team d).bars.erase key))

namespace Sys2Proof.Claims

-- Traps

/-- Dword j of a trap record at p. -/
def recDword (m : Memory) (p j : Nat) : Nat := leNat ((List.range 8).map fun i => m.get (p + 8 * j + i))

/-- A warp's record lies in HBM from p on (R407): translation takes it there and leaves v, whatever the lanes are at. -/
def RecordAt (s v : State) (c w p : Nat) : Prop :=
  (∀ r : State, r = { s with lanes := r.lanes, warps := r.warps, cur := r.cur } → ∃ leaf,
    r.xlate (some c) (s.team c).ctx false .st (s.trecOf c w) 8 =
      ({ v with lanes := r.lanes, warps := r.warps, cur := r.cur }, .ok (.hbm p, leaf))) ∧
  v.mons = [] ∧ ∀ j < 1024, v.registered (p + j) = none

/-- A warp's record lies in HBM from p on, and the core's TLB translates it, whatever the lanes are at and the memory holds. -/
def RecordHeld (s : State) (c w p : Nat) : Prop :=
  (∀ r : State, r = { s with lanes := r.lanes, warps := r.warps, cur := r.cur, mem := r.mem, poison := r.poison, dirty := r.dirty
                             comp := r.comp, tags := r.tags, l1 := r.l1 } →
    ∀ acc ∈ [Acc.st, .ld 8], ∃ leaf, r.xlate (some c) (s.team c).ctx false acc (s.trecOf c w) 8 = (r, .ok (.hbm p, leaf))) ∧
  s.mons = [] ∧ ∀ j < 1024, s.registered (p + j) = none

/-- The record of R434 stands at p in m, for the faulting lanes `ls` with one cause, none of them done; no other byte differs from m0. -/
def Recorded (s : State) (c w : Nat) (ls : List Nat) (cause detail aux : Nat) (m0 m : Memory) (p : Nat) (nested : Nat) : Prop :=
  let bits := (ls.map fun l => 2 ^ l).sum
  let pair := s.cur.word.toNat / 2 ^ 62 = 1
  recDword m p 0 = detail % 2 ^ 8 * 2 ^ 8 + cause ∧ recDword m p 1 = s.cur.word.toNat ∧ recDword m p 2 = bits ∧ recDword m p 3 = bits ∧
  recDword m p 4 = (((s.warp c w).tcount + 1).toNat * 2 ^ 32 + (s.team c).nid * 2 ^ 16 + (if pair then 2 else 0) +
    (if s.cur.lbp then 1 else 0)) % 2 ^ 64 ∧
  recDword m p 5 = s.now % 2 ^ 64 ∧ recDword m p 6 = aux % 2 ^ 64 ∧ recDword m p 7 = nested ∧
  (∀ l < 32, recDword m p (8 + l) = if l ∈ ls then (s.lane c w l).pc.toNat else 0) ∧
  (∀ l < 32, recDword m p (40 + l) = if l ∈ ls then cause * 2 ^ 56 else 0) ∧ (∀ j < 56, recDword m p (72 + j) = 0) ∧
  ∀ a, a < p ∨ p + 1024 ≤ a → m.get a = m0.get a

/-- A state but for what a trap, its record in HBM or an escalation changes. -/
def trapped (v t : State) : State :=
  { v with cur := t.cur, lanes := t.lanes, warps := t.warps, mem := t.mem, poison := t.poison, dirty := t.dirty, comp := t.comp, tags := t.tags, l1 := t.l1 }

/-- The warp's lanes have their fixed-latency results; those of `ls` stand in the handler (R432). -/
def InHandler (s v t : State) (c w cause : Nat) (ls : List Nat) : Prop :=
  (∀ l < 32, t.lane c w l =
    if l ∈ ls then { s.lane c w l with
      handler := true, park := .none, prev := (s.lane c w l).pc, pc := BitVec.ofNat 64 (s.team c).tvec, shadow := [] }
    else { s.lane c w l with shadow := [] }) ∧
  (∀ k, (∀ l < 32, k ≠ laneKey c w l) → t.lanes.get {} k = s.lanes.get {} k) ∧
  (∀ k, k ≠ warpKey c w → t.warps.get {} k = s.warps.get {} k) ∧
  t.warp c w = { s.warp c w with tcount := (s.warp c w).tcount + 1, recPcs := (t.warp c w).recPcs, cause := cause } ∧ t = trapped v t

/-- The warp is frozen and the service pair told (R437): its lanes stand where they stood. -/
def Escalated (s t : State) (c w cause first : Nat) : Prop :=
  let id := (s.escid.get 0 (dieOf c)).toNat % 2 ^ 11
  let d := s.servedBy (dieOf c)
  (∀ l < 32, t.lane c w l = { s.lane c w l with shadow := [] }) ∧
  (∀ k, (∀ l < 32, k ≠ laneKey c w l) → t.lanes.get {} k = s.lanes.get {} k) ∧
  (∀ k, k ≠ warpKey c w → t.warps.get {} k = s.warps.get {} k) ∧
  (t.warp c w).frozen = true ∧ (t.warp c w).estat = BitVec.ofNat 64 (2 ^ 63 + cause * 2 ^ 8 + first) ∧
  (t.warp c w).erec = BitVec.ofNat 64 (s.trecOf c w) ∧
  t.imsg = (s.imsg.set s.seq (4 * d + 1, id)).set (s.seq + 1) (4 * d + 3, id) ∧
  t = { trapped s t with imsg := t.imsg, seq := s.seq + 2 }

end Sys2Proof.Claims

/-- R82, R432, R434, R436: `trap`, and a word that does not decode, write the warp's record and enter the handler with registers
unchanged; `brk`, a fault in a handler lane and a record that cannot be written freeze the warp and tell the service pair (R437).
That the record is written in the same step, and what it holds for other lanes, is the model's choice: log entries 40, 41 and 80. -/
def Sys2Proof.Claims.Trap_entry : Prop := ∀ (s v : State) (f : Imm) (p : Nat),
  let (c, w) := (s.cur.core, s.cur.slot)
  (s.warp c w).frozen = false →
  ((∀ l < 32, (s.lane c w l).handler = false) → RecordAt s v c w p →
    (Whole s (.trap f) → ∃ t, exec (.trap f) s = .next t ∧ InHandler s v t c w 0x18 (s.lanesM (.trap f)) ∧
      Recorded s c w (s.lanesM (.trap f)) 0x18 0 f.imm.toNat v.mem t.mem p 0) ∧
    ∀ cause detail, cause < 2 ^ 8 →
      let ls := s.cur.lanes.lanes.filter fun l => (s.lane c w l).live && (s.lane c w l).park == .none && !(s.lane c w l).held
      ls ≠ [] → ∃ t, exec (.trapEntry cause detail) s = .next t ∧ InHandler s v t c w cause ls ∧
        Recorded s c w ls cause detail 0 v.mem t.mem p 0) ∧
  (∀ k, (∀ l < 32, (s.lane c w l).handler = false) → (∀ r : State, r = { s with lanes := r.lanes, warps := r.warps, cur := r.cur } →
      r.xlate (some c) (s.team c).ctx false .st (s.trecOf c w) 8 = ({ v with lanes := r.lanes, warps := r.warps, cur := r.cur }, .error k)) → k ≠ 0 →
    Whole s (.trap f) → ∃ t, exec (.trap f) s = .next t ∧ t.mem = v.mem ∧ (t.warp c w).frozen = true ∧
      (t.warp c w).estat = BitVec.ofNat 64 (2 ^ 63 + k * 2 ^ 8 + 0x18) ∧ (t.warp c w).erec = 0 ∧ ∀ l < 32, t.lane c w l = { s.lane c w l with shadow := [] }) ∧
  (RecordHeld s c w p →
    ((∀ l < 32, (s.lane c w l).handler = false) → Whole s (.brk f) → ∃ t, exec (.brk f) s = .next t ∧ Escalated s t c w 0x19 0x19 ∧
      Recorded s c w (s.lanesM (.brk f)) 0x19 0 f.imm.toNat s.mem t.mem p (0x100 + 0x19)) ∧
    ∀ x ∈ [(Instr.trap f, 0x18), (.brk f, 0x19)], Whole s x.1 → (∃ l ∈ s.lanesM x.1, (s.lane c w l).handler = true) →
      ∃ t, exec x.1 s = .next t ∧ Escalated s t c w x.2 (s.warp c w).cause ∧ recDword t.mem p 7 = 0x100 + x.2 ∧
        ∀ a, a < p + 56 ∨ p + 64 ≤ a → t.mem.get a = s.mem.get a)

/-- R435, R433: `tret` takes DONE and PC[l] from the record in memory; lanes held by a fault beside the handler are released after its
last lane.
The recorded word's address is per lane, the model's reading: log entry 31. -/
def Sys2Proof.Claims.Trap_return : Prop := ∀ (s : State) (f : Alu) (p : Nat),
  let (c, w) := (s.cur.core, s.cur.slot)
  let ms := s.lanesM (.tret f)
  Whole s (.tret f) → RecordHeld s c w p → Quiet s c →
  ((∃ l ∈ ms, s.stamped c w l = false) → ∃ t, exec (.tret f) s = .next t ∧ t = { s with lanes := t.lanes } ∧
    ∀ l ∈ ms, ∃ sh, t.lane c w l = { s.lane c w l with park := .retry, shadow := sh }) ∧
  ((∀ l ∈ ms, s.stamped c w l = true ∧ (s.lane c w l).killed = false) → ∃ t, exec (.tret f) s = .next t ∧
    t = { s with lanes := t.lanes, teams := t.teams } ∧
    (∀ l ∈ ms, ∃ sh,
      let x : LaneSt := { s.lane c w l with handler := false, prev := (s.lane c w l).pc, pc := BitVec.ofNat 64 (recDword s.mem p (8 + l)) }
      t.lane c w l = { (if (recDword s.mem p 2 / 2 ^ 32).testBit l = true ∧ (s.warp c w).recPcs.find? l = some x.pc then x.next else x) with
        shadow := sh, held := false }) ∧
    ((∀ l < 32, l ∉ ms → (s.lane c w l).handler = false) → ∀ l < 32, (t.lane c w l).held = false) ∧
    ((∃ l < 32, l ∉ ms ∧ (s.lane c w l).handler = true) → ∀ l < 32, l ∉ ms → (t.lane c w l).held = (s.lane c w l).held))

/-- R262: a team swapped out, a lane of which has waited at a semaphore for longer than its warp's `barto`, is queued again. -/
def Sys2Proof.Claims.Overdue_swapped : Prop := ∀ (s : State) (c w l : Nat) (x : Saved) (id : SemId) (y : SemWait),
  let t := (s.setImage c x.img).setTeam c x.team
  s.saved = [x] → x.core = c → x.swapped = true → x.queued = false → (s.lane c w l).live = false →
  (t.lane c w l).live = true → (t.lane c w l).park = .sem → t.semWaiting c w l = some (id, y) →
  exec (.barrierTimeout c w l) s = .next (if y.since + max 1000 (t.warp c w).barto ≤ s.now
    then { s with saved := [{ x with queued := true, at_ := s.now }] } else s)

/-- R326: a barrier that has not completed within `barto` of its first arrival is cleared, and the lanes that stand at it trap, with the
list of the lanes that are missing (R434). Before that nothing happens.
Which barto counts is the model's reading: log entry 71. -/
def Sys2Proof.Claims.Barrier_timeout : Prop := ∀ (s : State) (c w l n first : Nat) (gang : Bool) (g : Word),
  let cores := if gang then s.gangTeams c else [c]
  let key := if gang then 8 + n else n
  let limit := max 1000 (s.warp c w).barto
  let there := (s.liveOf cores).filter fun y => (s.arrival n gang y).isSome
  (s.lane c w l).live = true → (s.lane c w l).park = .bar n gang g →
  (cores.filterMap fun d => ((s.team d).bars.find? key).map (·.1)).min? = some first →
  (∀ x ∈ s.saved, x.core ≠ c ∨ x.swapped = false) →
  (s.now < first + limit → exec (.barrierTimeout c w l) s = .next s.wake) ∧
  (first + limit ≤ s.now → cores.Nodup → (∀ y ∈ there, y.core = c ∧ y.slot = w ∧ (s.lane c w y.lane).pc = (s.lane c w l).pc) →
    ⟨c, w, l⟩ ∈ there → there.Nodup → ∃ u : State, exec (.barrierTimeout c w l) s = .next
      (u.takeTrap c w (Mask.ofLanes (there.map (·.lane))) 0 (there.map fun y => (y.lane, 0x17, 0)) (if gang then 2 else 1) 0
        (s.diag (if gang then 2 else 1) n ((s.liveOf cores).filter fun y => (s.arrival n gang y).isNone))).wake ∧
      u = { s with lanes := u.lanes, teams := u.teams, cur := u.cur } ∧
      (∀ y ∈ there, u.lane c w y.lane = { s.lane c w y.lane with park := .none, since := 0 }) ∧
      (∀ k, (∀ y ∈ there, k ≠ laneKey c w y.lane) → u.lanes.get {} k = s.lanes.get {} k) ∧
      ∀ d ∈ cores, (u.team d).bars = (s.team d).bars.erase key)


namespace Sys2Proof.Claims

-- System registers, capabilities, translations

/-- What a system register shows lane l (R422). -/
def sysValue (s : State) (c w l n : Nat) : Nat :=
  let (x, t) := (s.warp c w, s.team c)
  let ctx := s.ctxs.get {} t.ctx
  match n with
  | 0x0 => w * 2 ^ 40 + (if (s.lane c w l).handler then 2 ^ 32 else 0) +
      ((List.range 32).map fun j => if (s.lane c w j).live then 2 ^ j else 0).sum
  | 0x1 => x.wmode.toNat
  | 0x2 => x.bnd
  | 0x3 => t.tvec
  | 0x4 => t.trbase + 1024 * (48 * c + w)
  | 0x5 => x.tsave.toNat
  | 0x6 => t.ctx
  | 0x7 => ((List.range 256).filter fun m => (capOf (s.capWords t.ctx t.nid m)).isSome).length % 2 ^ 8
  | 0x8 => t.factab
  | 0x9 => x.barto
  | 0xA => t.drainlim
  | 0xB => match (s.colls.map (·.2)).find? fun y => y.running && y.ctx == t.ctx with
    | some y => 2 ^ 63 + y.tag % 2 ^ 16 * 2 ^ 8 + y.pri % 2 ^ 8
    | none => 0
  | 0xC => ctx.collmode.toNat
  | 0xD => x.srseed.toNat
  | 0xF => ctx.dstale
  | _ => 0

/-- What a write of a system register leaves (R422). -/
def sysWarp (x : WarpSt) (n : Nat) (v : Word) : WarpSt :=
  if n = 0x1 then { x with wmode := v } else if n = 0x5 then { x with tsave := v } else if n = 0x9 then { x with barto := v.toNat } else x
def sysCtx (x : CtxSt) (n : Nat) (v : Word) : CtxSt :=
  if n = 0xC then { x with collmode := v } else if n = 0xF then { x with dstale := v.toNat } else x

/-- A lane's or the Mill's generator after a seed (R98, R352). -/
def seedOf (v : Word) (l : Nat) : Word :=
  let y := v ^^^ BitVec.ofNat 64 ((l + 1) * 0x9E3779B97F4A7C15)
  if y = 0 then 0x9E3779B97F4A7C15 else y

/-- Every agent of the package has closed a tick (R224). -/
def AllClosed (s : State) (t : Nat) : Prop := ∀ a < 0x801, tickGe (s.ctOf a) t = true

/-- The leaf of an address, in a TLB, in a context's tables or as a line's fill has kept it, leads to the remote page of an RRC line
(R292, R411). -/
def Leads (s : State) (ctx : Nat → Prop) (a : Nat) (x : RrcLine) : Prop :=
  (∃ e ∈ s.tlb, ctx e.ctx ∧ e.page = a / 2 ^ (if e.level = 1 then 34 else if e.level = 2 then 25 else 16) ∧
    e.peerPage = some (x.ctx, x.pkg, x.rva / 2 ^ 16)) ∨
  (∃ y ∈ s.ctxs, ctx y.1 ∧ y.1 = x.ctx ∧ ∃ leaf level ent, s.walk y.1 a = some (leaf, level, ent) ∧ leaf.toNat / 2 ^ 7 % 8 = 1 ∧
    x.pkg = leaf.toNat / 2 ^ 24 % 16 * 256 + leaf.toNat / 2 ^ 16 % 256 ∧ x.rva / 2 ^ 16 = leaf.toNat / 2 ^ 28) ∨
  ∃ y ∈ s.rrc, ctx y.ctx ∧ y.page = a / 2 ^ 16 ∧ y.ctx = x.ctx ∧ y.pkg = x.pkg ∧ y.rva / 2 ^ 16 = x.rva / 2 ^ 16

/-- From s to u, just the entries of TLBs that the sets name have been dropped, and at package scope the RRC's lines of the remote pages
that their leaves reach (R292, R417). -/
def Dropped (s u : State) (core die : Nat → Prop) (ctx : Nat → Prop) (va : Option Nat) (pk : Prop) : Prop :=
  let page := fun (x : TlbEnt) => ∀ a, va = some a → x.page = a / 2 ^ (if x.level = 1 then 34 else if x.level = 2 then 25 else 16)
  (∀ x, x ∈ u.tlb ↔ x ∈ s.tlb ∧ ¬(core x.at_ ∧ ctx x.ctx ∧ page x)) ∧
  (∀ x, x ∈ u.dtlb ↔ x ∈ s.dtlb ∧ ¬(die x.at_ ∧ ctx x.ctx ∧ page x)) ∧
  ∀ x, x ∈ u.rrc ↔ x ∈ s.rrc ∧ ¬(pk ∧ ctx x.ctx ∧ ∀ a, va = some a → Leads s ctx a x)

end Sys2Proof.Claims

/-- R422, R421, R98, R352: `rdsys` reads each system register; `wrsys` takes its value from the lowest lane of M, refuses what breaks a
register's limits, and a write of `srseed` seeds the warp's generators and the Mill's. -/
def Obligations.System_registers : Prop := ∀ (s : State) (f : Imm) (m : Nat),
  let (c, w) := (s.cur.core, s.cur.slot)
  let n := f.imm.toNat
  let v := s.op64 c w m f.a
  let ctx := (s.team c).ctx
  (s.clear (.rdsys f) → Computes s (.rdsys f) f.d false fun l => BitVec.ofNat 64 (sysValue s c w l n)) ∧
  (Whole s (.wrsys f) → (s.lanesM (.wrsys f)).head? = some m →
    if ((n = 0x1 ∨ n = 0xC) ∧ 2 ≤ v.toNat) ∨ (n = 0x9 ∧ 2 ^ 40 ≤ v.toNat) then
      exec (.wrsys f) s = .next (s.trapAll (s.lanesM (.wrsys f)) 0x05 0)
    else ∃ t u, exec (.wrsys f) s = .next t ∧ AllPast s (.wrsys f) u t ∧ u = { s with warps := u.warps, ctxs := u.ctxs } ∧
      u.warp c w = sysWarp (s.warp c w) n v ∧ (∀ k, k ≠ warpKey c w → u.warps.get {} k = s.warps.get {} k) ∧
      u.ctxs.get {} ctx = sysCtx (s.ctxs.get {} ctx) n v ∧ ∀ y, y ≠ ctx → u.ctxs.get {} y = s.ctxs.get {} y) ∧
  (Whole s (.srseedWrite f) → (s.lanesM (.srseedWrite f)).head? = some m → ∃ t, exec (.srseedWrite f) s = .next t ∧
    t = { s with lanes := t.lanes, warps := t.warps, teams := t.teams } ∧
    (∀ l < 32, if l ∈ s.lanesM (.srseedWrite f) then ∃ sh, t.lane c w l = { (s.lane c w l).next with gen := seedOf v l, shadow := sh }
      else t.lane c w l = { s.lane c w l with gen := seedOf v l }) ∧
    (∀ k, (∀ l < 32, k ≠ laneKey c w l) → t.lanes.get {} k = s.lanes.get {} k) ∧
    t.warp c w = { s.warp c w with srseed := v } ∧ (∀ k, k ≠ warpKey c w → t.warps.get {} k = s.warps.get {} k) ∧
    t.team c = { s.team c with millSeed := some (seedOf v 32) } ∧ ∀ d, d ≠ c → t.team d = s.team d)

/-- R424, R425: `capw` copies a valid entry of the node's table with its permissions cut, and `capi` makes one invalid; no other entry and
no other table changes, and no permission is added.
Log entry 46 for bits that no check reads. -/
def Sys2Proof.Claims.Capability_words : Prop := ∀ (s : State) (f : Eng) (m : Nat),
  let (c, w) := (s.cur.core, s.cur.slot)
  let a := (s.op64 c w m f.a).toNat
  let t := s.team c
  let old := s.capWords t.ctx t.nid (a % 2 ^ 8)
  let only := fun (i : Instr) (ws : List Word) => ∃ t' u, exec i s = .next t' ∧ AllPast s i u t' ∧ u = { s with caps := u.caps } ∧
    u.capWords t.ctx t.nid f.c.toNat = ws ∧ (∀ n, n ≠ f.c.toNat → u.capWords t.ctx t.nid n = s.capWords t.ctx t.nid n) ∧
    ∀ k, k ≠ t.ctx * 65536 + t.nid → u.caps.get [] k = s.caps.get [] k
  (s.caps.get [] (t.ctx * 65536 + t.nid)).length = 1024 →
  (Whole s (.capw f) → (s.lanesM (.capw f)).head? = some m →
    if capOf old = none ∨ 2 ^ 13 ≤ a then exec (.capw f) s = .next (s.trapAll (s.lanesM (.capw f)) 0x05 0)
    else ∃ x y, old.head? = some x ∧ only (.capw f) (y :: old.tail) ∧
      ∀ j < 64, y.getLsbD j = (x.getLsbD j && (decide (j < 55) || decide (60 ≤ j) || a.testBit (j - 47)))) ∧
  (Whole s (.capi f) → only (.capi f) [0, 0, 0, 0] ∧ capOf [0, 0, 0, 0] = none)

/-- R416, R417: `tlbi` drops the entries of its page, or of its context, in the TLBs within its scope, waits until what used them has
closed, and returns the frontier of that moment. R418: a request of the shootdown port does the same to the package, one at a time; its
completion is counted and told to the service core.
What tlbi waits for is the model's reading: log entry 59. -/
def Sys2Proof.Claims.Translations_dropped : Prop := ∀ (s : State) (f : Eng) (m : Nat),
  let (c, w) := (s.cur.core, s.cur.slot)
  let a := (s.op64 c w m f.a).toNat
  let ctx := (s.team c).ctx
  let sc := f.sc.code.toNat
  (∀ x ∈ [(Instr.tlbiPg f, some a), (.tlbiCtx f, none)], Whole s x.1 → (s.lanesM x.1).head? = some m →
    (x.2.isSome → 2 ^ 52 ≤ a → exec x.1 s = .next (s.trapAll (s.lanesM x.1) 0x05 0)) ∧
    (c < 1536 → (a < 2 ^ 52 ∨ x.2 = none) →
      ((s.lane c w m).since = 0 → ∃ u, Dropped s u (fun d => inAgents sc c (0x200 + d)) (fun d => 7 ≤ sc ∨ d = c / 192) (· = ctx) x.2 (7 ≤ sc) ∧
        u = { s with tlb := u.tlb, dtlb := u.dtlb, rrc := u.rrc } ∧
        (s.inFlight sc c (· == ctx) s.seq x.2 = false → ¬AllClosed s s.now →
          ∃ t, exec x.1 s = .next t ∧ t = { u with lanes := t.lanes } ∧ (t.lane c w m).since = 2 * s.now + 1 ∧
            (∀ l ∈ s.lanesM x.1, (t.lane c w l).park = .retry ∧ (t.lane c w l).pc = (s.lane c w l).pc) ∧
            ∀ k, (∀ l ∈ s.lanesM x.1, k ≠ laneKey c w l) → t.lanes.get {} k = s.lanes.get {} k)) ∧
      ∀ tick, (s.lane c w m).since = 2 * tick + 1 → AllClosed s tick → ∃ t, exec x.1 s = .next t ∧
        AllLeave s x.1 f.d (frontier sc s.now) (s.modLane c w m fun y => { y with since := 0 }) t)) ∧
  (∀ (cmd : Word), ∀ x ∈ [(Instr.shootdownPage cmd, 0), (.shootdownContext cmd, 1), (.shootdownAll cmd, 2)],
    let mine := fun y => x.2 = 2 ∨ y = cmd.toNat / 2 ^ 48 % 2 ^ 12
    cmd.toNat / 2 ^ 60 = 4 * x.2 → cmd.toNat % 2 ^ 48 = 0 →
    ∃ t, exec x.1 s = .next t ∧ t.shootQ = s.shootQ ++ [(cmd, s.shootVa)] ∧ t.shootCount = s.shootCount ∧ t.mem = s.mem ∧
      (s.shootQ ≠ [] → t = { s with shootQ := t.shootQ, lanes := s.wake.lanes }) ∧
      (s.shootQ = [] → t = { s with shootQ := t.shootQ, shootMark := 2 * s.seq, lanes := s.wake.lanes, tlb := t.tlb, dtlb := t.dtlb, rrc := t.rrc
                                    ctxs := t.ctxs } ∧
        Dropped s t (fun _ => True) (fun _ => True) mine (if x.2 = 0 then some s.shootVa.toNat else none) True ∧
        ∀ y, ∃ z, (t.ctxs.get {} y) = { s.ctxs.get {} y with pgroot := z } ∧
          z = if x.2 ≠ 0 ∧ mine y ∧ (s.ctxs.find? y).isSome then (s.ctxs.get {} y).pgNew else (s.ctxs.get {} y).pgroot)) ∧
  ∀ cmd va rest, s.shootQ = (cmd, va) :: rest → ∀ tick, s.shootMark = 2 * tick + 1 → AllClosed s tick →
    ∃ t, exec .shootdownComplete s = .next t ∧ t.shootQ = rest ∧ t.shootCount = s.shootCount + 1 ∧ t.mem = s.mem ∧
      (s.shootId.toNat % 2 ^ 11 = 0 → t.imsg = s.imsg) ∧
      (s.shootId.toNat % 2 ^ 11 ≠ 0 → t.imsg = s.imsg.set s.seq ((Config.portMessage s.free).1, s.shootId.toNat % 2 ^ 11)) ∧
      (rest = [] → t = { s with shootQ := [], shootCount := t.shootCount, imsg := t.imsg, seq := t.seq, free := t.free, lanes := s.wake.lanes })


namespace Sys2Proof.Claims

-- The matrix engine

/-- The fields of a format word that R108 accepts (R107). -/
def formatOf (fw : Nat) (F : FmtWord) : Prop :=
  let x := fw % 2 ^ 32
  let types : List Ty := [.f64, .f32, .f16, .bf16, .i8, .n8, .i4, .n4, .q4, .b8p1, .b8p2, .b8p3, .b8p4, .b8p5, .b8p6, .b8p7]
  F.aty.code.toNat = x % 2 ^ 5 ∧ F.bty.code.toNat = x / 2 ^ 5 % 2 ^ 5 ∧ F.act = x / 2 ^ 10 % 4 ∧ F.scm = x / 2 ^ 12 % 4 ∧
  F.ovf = x.testBit 14 ∧ F.ie = x.testBit 15 ∧ F.au = x.testBit 16 ∧ F.bu = x.testBit 17 ∧ F.drm.code.toNat = x / 2 ^ 18 % 8 ∧
  x < 2 ^ 21 ∧ F.act ≠ 3 ∧ F.aty ∈ types ∧ F.bty ∈ types ∧ (F.au = true → F.aty.isB8 = true) ∧ (F.bu = true → F.bty.isB8 = true)

/-- The combinations of R146. -/
def combines (F : FmtWord) : Prop :=
  let both := fun (ts : List Ty) => F.aty ∈ ts ∧ F.bty ∈ ts
  (both [.f64] ∨ both [.f32]) ∧ F.act = 0 ∧ F.scm = 0 ∨
  both [.f16, .bf16] ∧ F.act ≤ 1 ∨
  both [.i8, .n8, .b8p1, .b8p2, .b8p3, .b8p4, .b8p5, .b8p6, .b8p7] ∧ (F.act ≤ 1 ∨ F.act = 2 ∧ both [.i8, .n8] ∧ F.scm = 0) ∨
  both [.i4, .n4, .q4] ∧ (F.act ≤ 1 ∨ F.act = 2 ∧ both [.i4, .n4] ∧ F.scm = 0)

/-- Scale blocks of a row (R143). -/
def blocks (F : FmtWord) : Nat := 16 / F.aty.width

/-- A B descriptor's fields, where R145 accepts it. -/
def describes (F : FmtWord) (bd kx nx off : Nat) : Prop :=
  kx = bd / 2 ^ 48 % 2 ^ 9 ∧ nx = bd / 2 ^ 40 % 2 ^ 8 ∧ off = bd % 2 ^ 19 ∧ bd / 2 ^ 57 = 0 ∧ bd / 2 ^ 19 % 2 ^ 21 = 0 ∧
  kx ≤ 1024 / F.aty.width ∧ nx ≤ 32 ∧ off % 128 = 0 ∧ off + 128 * nx ≤ 0x60000

/-- Tile t of a warp exists, or the pair that it begins (R147). -/
def tileThere (s : State) (c w t : Nat) (pair : Bool) : Prop :=
  (s.warp c w).bnd + 16 * (t + if pair then 2 else 1) ≤ (s.team c).nreg + 16 * (s.team c).nacc

/-- What enters the core's queue for the lanes of M (R154). -/
def queued (s : State) (i : Instr) (id : Nat) (k : MxKind) : MxOp :=
  { slot := s.cur.slot, lanes := Mask.ofLanes (s.lanesM i), ctx := (s.team s.cur.core).ctx, cls := (s.team s.cur.core).cls, id := id, k := k }

/-- From u, the instance has gone past its word, which has put k into the core's queue. -/
def Enters (s u t : State) (i : Instr) (k : MxKind) : Prop :=
  AllPast s i { u with mx := u.mx.set s.cur.core (u.mx.get [] s.cur.core ++ [queued s i u.seq k]), seq := u.seq + 1 } t

/-- All lanes of M stay at their word until something wakes them, and nothing else has changed since u. -/
def AllRetry (s u t : State) (i : Instr) : Prop :=
  t = { u with lanes := t.lanes } ∧ (∀ l ∈ s.lanesM i, t.lane s.cur.core s.cur.slot l = { u.lane s.cur.core s.cur.slot l with park := .retry }) ∧
    ∀ k, (∀ l ∈ s.lanesM i, k ≠ laneKey s.cur.core s.cur.slot l) → t.lanes.get {} k = u.lanes.get {} k

/-- The selection of scale bytes that `mma` accepts (R158), and the parity of tiles of a pair (R162). -/
def mmaOk (f : Mx) (F : FmtWord) (nx : Nat) (ms : List Nat) : Prop :=
  let (ao, mode) := (f.imm5.toNat / 4, f.imm5.toNat % 4)
  (F.scm = 0 → f.imm5 = 0) ∧ (F.aty = .f64 → f.d.toNat % 2 = 0 ∧ f.acc.toNat % 2 = 0) ∧ (F.scm % 2 = 1 → ao + blocks F ≤ 8) ∧
  (2 ≤ F.scm → (if F.scm % 2 = 1 then ao + blocks F else ao) + blocks F ≤ 8 ∧ (mode % 2 = 0 → ∀ n < nx, n ∈ ms))

/-- What `mmaa` accepts (R163). -/
def mmaaOk (f : Mx) (F : FmtWord) (nx : Nat) (ms : List Nat) : Prop :=
  F.aty ≠ .f64 ∧ F.scm % 2 = 0 ∧ F.act ≠ 2 ∧ ¬(f.acc.toNat ≤ f.d.toNat ∧ f.d.toNat < f.acc.toNat + f.imm5.toNat % 4 + 1) ∧
  (F.scm = 2 → f.imm5.toNat / 8 * 2 + blocks F ≤ 8 ∧ (f.imm5.toNat / 4 % 2 = 0 → ∀ n < nx, n ∈ ms))

/-- A lane's first n draws, and the generator after them (R98). -/
def drawsOf (x : LaneSt) (n : Nat) : List Nat := (List.range n).map fun j => srDraw (srStep^[j + 1] x.gen)

end Sys2Proof.Claims

/-- R150, R161: `kdecl` gives a convergence register its owner and its live members; a mask of zero and a register with signatures are
refused. R170: `mvbnd` waits for the warp's operations and writes and moves the boundary.
Mvbnd also waits for handles: log entry 49. -/
def Sys2Proof.Claims.Matrix_settings : Prop := ∀ (s : State) (f : Mx) (m : Nat),
  let (c, w) := (s.cur.core, s.cur.slot)
  let a := (s.op64 c w m f.a).toNat
  let old := (s.team c).kregs.get {} f.k.toNat
  (Whole s (.kdecl f) → (s.lanesM (.kdecl f)).head? = some m →
    (a % 2 ^ 32 = 0 → exec (.kdecl f) s = .next (s.trapAll (s.lanesM (.kdecl f)) 0x05 0)) ∧
    (a % 2 ^ 32 ≠ 0 → old.signed ≠ 0 → exec (.kdecl f) s = .next (s.trapAll (s.lanesM (.kdecl f)) 0x07 0)) ∧
    (a % 2 ^ 32 ≠ 0 → old.signed = 0 → ∃ t u x, exec (.kdecl f) s = .next t ∧ AllPast s (.kdecl f) u t ∧ u = { s with teams := u.teams } ∧
      (∀ d, d ≠ c → u.team d = s.team d) ∧ u.team c = { s.team c with kregs := (s.team c).kregs.set f.k.toNat x } ∧
      x = { owner := some w, members := x.members } ∧ ∀ l < 32, x.members.getLsbD l = (a.testBit l && (s.lane c w l).live))) ∧
  (Whole s (.mvbnd f) → (s.lanesM (.mvbnd f)).head? = some m → (∀ l ∈ s.lanesM (.mvbnd f), s.op64 c w l f.a = s.op64 c w m f.a) →
    if (s.mx.get [] c).any (fun o => o.slot == w) || s.warpPending c w then ∃ t, exec (.mvbnd f) s = .next t ∧ AllRetry s s t (.mvbnd f)
    else if a ≤ 128 ∧ a ≤ (s.team c).nreg + 16 * (s.team c).nacc then ∃ t u, exec (.mvbnd f) s = .next t ∧ AllPast s (.mvbnd f) u t ∧
      u = { s with warps := u.warps } ∧ u.warp c w = { s.warp c w with bnd := a } ∧
      ∀ k, k ≠ warpKey c w → u.warps.get {} k = s.warps.get {} k
    else exec (.mvbnd f) s = .next (s.trapAll (s.lanesM (.mvbnd f)) 0x05 0))

namespace Sys2Proof.Claims

/-- The register window of `mma` and `mmaa` under a format word (R149, R162): 16 registers from A on and the scale register for `mma`; the
tiles, which are pairs where AT is f64. -/
def mmaWindow (s : State) (c w : Nat) (f : Mx) (fw : Nat) : Prop :=
  let pair := fw % 32 == 0x0B
  (∀ j < if fw / 2 ^ 12 % 4 = 0 then 16 else 17, f.a.toNat + j < (s.warp c w).bnd) ∧ tileThere s c w f.d.toNat pair ∧ tileThere s c w f.acc.toNat pair
def mmaaWindow (s : State) (c w : Nat) (f : Mx) (fw : Nat) : Prop :=
  let last := f.acc.toNat + f.imm5.toNat % 4
  last < 16 ∧ tileThere s c w f.d.toNat (fw % 32 == 0x0B) ∧ tileThere s c w last false

end Sys2Proof.Claims

/-- R82, R149: a matrix word whose registers or tiles its format word puts outside the window takes the register-window trap in the lanes
that execute it. -/
def Sys2Proof.Claims.Matrix_windows : Prop := ∀ (s : State) (f : Mx) (m : Nat),
  let (c, w) := (s.cur.core, s.cur.slot)
  let fw := (s.op64 c w m f.e).toNat % 2 ^ 32
  let dbl := f.imm5.getLsbD 4
  ∀ x ∈ [(Instr.mma f, mmaWindow s c w f fw), (.mmaa f, mmaaWindow s c w f fw), (.mzero f, tileThere s c w f.d.toNat false),
      (.mwr f, tileThere s c w f.d.toNat dbl), (.mrd f, tileThere s c w f.acc.toNat dbl), (.mld f, tileThere s c w f.d.toNat dbl),
      (.mst f, tileThere s c w f.acc.toNat dbl)],
    s.lanesM x.1 ≠ [] → (∀ l ∈ s.lanesM x.1, s.op64 c w l f.e = s.op64 c w m f.e) → x.1.illegal = none →
    forbidden (s.userMode (s.issuing x.1)) (encodeNat x.1) = false → (¬x.2 ∨ x.1.vregsOutside (s.warp c w).bnd = true) →
    exec x.1 s = .next (s.trapAll (s.lanesM x.1) 0x03 0)

/-- R149, R151, R152, R158, R162, R163: lanes sign a convergence register and wait at their word; when the last member has signed, the
operation enters the engine's queue with the members' registers, and the lanes go on. -/
def Sys2Proof.Claims.Matrix_signing : Prop := ∀ (s : State) (f : Mx),
  ∀ x ∈ [(Instr.mma f, mmaOk f, fun (F : FmtWord) (kx nx off : Nat) =>
        MxKind.mma f.d.toNat f.acc.toNat F kx nx off
          ((s.lanesM (.mma f)).map fun l => (l, (List.range 16).map fun j => s.reg s.cur.core s.cur.slot l (f.a.toNat + j)))
          (if F.scm = 0 then [] else (s.lanesM (.mma f)).map fun l => (l, s.reg s.cur.core s.cur.slot l (f.a.toNat + 16)))
          (f.imm5.toNat / 4) (f.imm5.toNat % 4) f.z),
      (.mmaa f, mmaaOk f, fun (F : FmtWord) (kx nx off : Nat) =>
        MxKind.mmaa f.d.toNat f.acc.toNat (f.imm5.toNat % 4 + 1) F kx nx off (s.lanesM (.mmaa f))
          (if F.drm = .sr then (s.lanesM (.mmaa f)).map fun l =>
            (l, drawsOf (s.lane s.cur.core s.cur.slot l) (32 * (f.imm5.toNat % 4 + 1))) else [])
          (if F.scm = 0 then [] else (s.lanesM (.mmaa f)).map fun l => (l, s.op64 s.cur.core s.cur.slot l f.a))
          (f.imm5.toNat / 8 * 2) (f.imm5.toNat / 4 % 2) f.z)],
  let (c, w) := (s.cur.core, s.cur.slot)
  let ms := s.lanesM x.1
  let k := (s.team c).kregs.get {} f.k.toNat
  Whole s x.1 → (∀ l ∈ ms, (s.lane c w l).shadow = []) → k = { owner := k.owner, members := k.members } →
  (k.owner.isSome → k.members ≠ 0) → ∀ m, ms.head? = some m →
  let fw := (s.op64 c w m f.e).toNat
  let bd := (s.op64 c w m f.b).toNat
  (∀ l ∈ ms, (s.op64 c w l f.e).toNat % 2 ^ 32 = fw % 2 ^ 32 ∧ s.op64 c w l f.b = s.op64 c w m f.b ∧
    (x.1 = .mmaa f → s.op64 c w l f.a = s.op64 c w m f.a)) →
    ((k.owner ≠ some w ∨ k.members.getLsbD m = false) → ms = [m] → Traps s s x.1 m 0x07 0 0) ∧
    (k.owner = some w → (∀ l ∈ ms, k.members.getLsbD l = true) →
      (Mask.ofLanes ms ≠ k.members → ∃ t, exec x.1 s = .next t ∧ t = { s with lanes := t.lanes, teams := t.teams } ∧
        (∀ l ∈ ms, ∃ sh, t.lane c w l = { s.lane c w l with park := .sign f.k.toNat, shadow := sh }) ∧
        ((t.team c).kregs.get {} f.k.toNat).signed = Mask.ofLanes ms ∧
        (∀ key, (∀ l ∈ ms, key ≠ laneKey c w l) → t.lanes.get {} key = s.lanes.get {} key)) ∧
      (Mask.ofLanes ms = k.members → (s.mx.get [] c).length < 16 → ∀ F kx nx off, formatOf fw F → combines F → describes F bd kx nx off →
        x.2.1 F nx ms →
        let n := if x.1 = Instr.mmaa f ∧ F.drm = Rm.sr then 32 * (f.imm5.toNat % 4 + 1) else 0
        ∃ t, exec x.1 s = .next t ∧
          t = { s with lanes := t.lanes, teams := t.teams, seq := s.seq + 1
                       mx := s.mx.set c (s.mx.get [] c ++ [queued s x.1 s.seq (x.2.2 F kx nx off)]) } ∧
          (∀ l ∈ ms, ∃ sh, t.lane c w l = wentOn { s.lane c w l with gen := srStep^[n] (s.lane c w l).gen } sh) ∧
          (∀ key, (∀ l ∈ ms, key ≠ laneKey c w l) → t.lanes.get {} key = s.lanes.get {} key) ∧
          (∀ d, d ≠ c → t.team d = s.team d) ∧ ∀ n, (t.team c).kregs.get {} n = (s.team c).kregs.get {} n))

namespace Sys2Proof.Claims

/-- The bytes of a stored row, and the words of a row in registers or in a tile (R166, R167). -/
def rowLength (E : Option FmtWord) (dbl : Bool) : Nat := if dbl then 256 else match E with | some F => 4 * F.aty.width | none => 128
def rowWords (dbl : Bool) : Nat := if dbl then 32 else 16

/-- E is `nil` and the rows are raw, or it holds a format word (R167). -/
def rowFormat (s : State) (f : Mx) (m : Nat) (E : Option FmtWord) : Prop :=
  match E with
  | none => f.e = nilByte
  | some F => f.e ≠ nilByte ∧ formatOf (s.op64 s.cur.core s.cur.slot m f.e).toNat F

/-- The space of IMM5 bits 1:0. -/
def rowSpace (f : Mx) : Space := if f.imm5.toNat % 4 = 1 then .sp else if f.imm5.toNat % 4 = 2 then .gs else .g

/-- The rows of `mld` or `mst` one after another: each at its address A + m × stride (R167), the states between. -/
def RowsFound (s u : State) (f : Mx) (m : Nat) (acc : Acc) (stride n : Nat) (xs : List (Loc × Word)) : Prop :=
  xs.length = 32 ∧ ∃ v : Nat → State, v 0 = s ∧ v 32 = u ∧ ∀ j (h : j < xs.length),
    (v j).locate s.cur.core (s.isUser s.cur.core s.cur.slot m) (rowSpace f) acc
      (((s.op64 s.cur.core s.cur.slot m f.a).toNat + j * stride) % 2 ^ 64) n = (v (j + 1), .ok xs[j])

/-- How the form of `mst` stores (R168). -/
def storeMode (f : Mx) (E : Option FmtWord) : TileMode :=
  match E with
  | some F => { w := F.aty.width, add := f.imm5.getLsbD 2, how := 3, ty := F.aty, un := F.au, inf := F.ie, rm := F.drm, sat := F.ovf }
  | none => { w := if f.imm5.getLsbD 4 then 64 else 32, add := f.imm5.getLsbD 2
              how := if f.imm5.getLsbD 3 then 1 else if f.imm5.getLsbD 4 then 2 else 0
              ty := .f32, un := false, inf := false, rm := .rne, sat := false }

end Sys2Proof.Claims

/-- R98, R107, R154, R160, R166, R167, R169: `mzero`, `mrd`, `mwr`, `mld` and `mst` act once for the lanes of M; only the low 32 bits of the
format word need to agree. An odd tile of a pair takes the illegal-operand trap, a misaligned row or stride the alignment fault; with a full
queue the warp waits; else the operation enters the queue with what it has read at issue. -/
def Sys2Proof.Claims.Tile_words : Prop := ∀ (s : State) (f : Mx) (m : Nat),
  let (c, w) := (s.cur.core, s.cur.slot)
  let dbl := f.imm5.getLsbD 4
  let room := (s.mx.get [] c).length < 16
  (∀ x ∈ [(Instr.mzero f, f.d.toNat, false), (.mwr f, f.d.toNat, dbl), (.mrd f, f.acc.toNat, dbl), (.mld f, f.d.toNat, dbl), (.mst f, f.acc.toNat, dbl)],
    Whole s x.1 → (s.lanesM x.1).head? = some m →
    (x.1 = .mld f ∨ x.1 = .mst f → ∀ l ∈ s.lanesM x.1,
      s.op64 c w l f.a = s.op64 c w m f.a ∧ s.op64 c w l f.b = s.op64 c w m f.b ∧ (s.op64 c w l f.e).toNat % 2 ^ 32 = (s.op64 c w m f.e).toNat % 2 ^ 32) →
    (¬room → ∃ t, exec x.1 s = .next t ∧ AllRetry s s t x.1) ∧
    (room → (x.1 = .mld f ∨ x.1 = .mst f → ∃ E, rowFormat s f m E) → x.2.2 = true → x.2.1 % 2 = 1 →
      exec x.1 s = .next (s.trapAll (s.lanesM x.1) 0x05 0))) ∧
  (Whole s (.mzero f) → room → ∃ t, exec (.mzero f) s = .next t ∧
    Enters s s t (.mzero f) (.mzero f.d.toNat)) ∧
  (Whole s (.mwr f) → room → (dbl = true → f.d.toNat % 2 = 0) →
    ∃ t, exec (.mwr f) s = .next t ∧ Enters s s t (.mwr f) (.mwr f.d.toNat
      ((s.lanesM (.mwr f)).map fun l => (l, (List.range (rowWords dbl)).map fun j => s.rd c w l (f.a.toNat + j))) dbl)) ∧
  (Whole s (.mrd f) → room → (dbl = true → f.acc.toNat % 2 = 0) →
    ∃ t, exec (.mrd f) s = .next t ∧
      LanesOnly c w (s.issuing (.mrd f)) (s.lanesM (.mrd f)) (dsts f.d (rowWords dbl)) false
        { s with mx := s.mx.set c (s.mx.get [] c ++ [queued s (.mrd f) s.seq (.mrd f.acc.toNat f.d.toNat dbl)]), seq := s.seq + 1 } t ∧
      ∀ l ∈ s.lanesM (.mrd f), ∀ j < rowWords dbl, (t.mark c w l (f.d.toNat + j)).pend = s.seq + 1) ∧
  ∀ x ∈ [(Instr.mld f, f.d.toNat, false), (.mst f, f.acc.toNat, true)], Whole s x.1 → room → (s.lanesM x.1).head? = some m →
    (∀ l ∈ s.lanesM x.1, s.op64 c w l f.a = s.op64 c w m f.a ∧ s.op64 c w l f.b = s.op64 c w m f.b ∧
      (s.op64 c w l f.e).toNat % 2 ^ 32 = (s.op64 c w m f.e).toNat % 2 ^ 32) →
    (dbl = true → x.2.1 % 2 = 0) → ∀ E, rowFormat s f m E →
    let n := rowLength E dbl
    let a := (s.op64 c w m f.a).toNat
    let stride := if f.b = nilByte then n else (s.op64 c w m f.b).toNat
    let acc := if !x.2.2 then .ld n else if f.imm5.getLsbD 2 then .tileAdd else .st
    (stride < n ∨ a % n ≠ 0 ∨ stride % n ≠ 0 → exec x.1 s = .next (s.trapAll (s.lanesM x.1) 0x0A 0 fun _ => a)) ∧
    (n ≤ stride → a % n = 0 → stride % n = 0 → ∀ (u : State) (xs : List (Loc × Word)), RowsFound s u f m acc stride n xs → (∀ y ∈ xs, y.1.plain = true) →
      let sr := match E with | some F => F.drm = .sr | none => False
      ∃ (t v : State) (drawn : List (List Nat)), exec x.1 s = .next t ∧ v = { u with lanes := v.lanes } ∧
        (¬sr → drawn = [] ∧ v = u) ∧
        (sr → drawn = ((List.range 32).map fun l => drawsOf (u.lane c w l) 32) ∧
          (∀ l < 32, v.lane c w l = { u.lane c w l with gen := srStep^[32] (u.lane c w l).gen }) ∧
          ∀ k, (∀ l < 32, k ≠ laneKey c w l) → v.lanes.get {} k = u.lanes.get {} k) ∧
        (x.2.2 = false → Enters s v t x.1 (.mld f.d.toNat (xs.map (·.1)) E dbl drawn)) ∧
        (x.2.2 = true →
          LanesOnly c w (s.issuing x.1) (s.lanesM x.1) (dsts f.d 1) false
            { v with seq := v.seq + 1, mx := v.mx.set c (v.mx.get [] c ++ [queued s x.1 v.seq (.mst f.acc.toNat (xs.map (·.1)) (xs.map (·.2))
                (storeMode f E) E dbl drawn (f.imm5.toNat % 4) (dsts f.d 1).head?)]) } t ∧
          ∀ l ∈ s.writers x.1 f.d.toNat, ∀ r ∈ dsts f.d 1, (t.mark c w l r).pend = v.seq + 1))


namespace Sys2Proof.Claims

/-- The words of a tile, or of a pair, in the pool. -/
def tileKeys (s : State) (c w t : Nat) (pair : Bool) : List Nat := (List.range (if pair then 1024 else 512)).map (s.tileKey c w t)

/-- The engine of core c has performed the head of its queue: it has written the words `keys` of the pool, with their marks, and
nothing else. -/
def EngineDid (s t : State) (c : Nat) (rest : List MxOp) (keys : List Nat) : Prop :=
  t = { s with mx := s.mx.set c rest, pool := t.pool, marks := t.marks, teams := t.teams, lanes := s.wake.lanes
               l1 := s.l1.filter fun (k, y) => !(y.stale && k / 2 ^ 40 == c) } ∧
  (∀ k, k ∉ keys → t.pool.get 0 k = s.pool.get 0 k ∧ t.marks.get {} k = s.marks.get {} k) ∧
  ∀ d, { t.team d with kregs := (s.team d).kregs } = s.team d

/-- A row's place, whose bytes the engine may read where they stand: HBM, or a core that holds a team of the context. -/
def rowHere (s : State) (ctx : Nat) (x : Loc) : Prop :=
  match x with
  | .hbm _ => True
  | .sp d _ | .pool d _ => ∃ t, s.teams.find? d = some t ∧ t.ctx = ctx
  | _ => False

/-- One element that `mst` leaves in memory (R168). -/
def storedElem (m : TileMode) (old x draw new : Nat) : Prop :=
  let f := tyNum m.ty m.un m.inf
  match m.how, m.add with
  | 0, false | 2, false => new = x
  | 0, true => once f32 .rne false new (sumR .rne [extQ (f32.val old), extQ (f32.val x)])
  | 2, true => once f64 .rne false new (sumR .rne [extQ (f64.val old), extQ (f64.val x)])
  | 1, _ => new = (old + x) % 2 ^ 32
  | _, false => new = cvt (.flt f32) f m.rm m.sat draw x
  | _, true => match f with
    | .flt g => once g m.rm m.sat new (sumR m.rm [extQ (g.val old), extQ (f32.val x)])
    | .int sg w => match extQ (f32.val x) with
      | .nan => new = 0
      | .inf n => (new : Int) = (if n then intMin sg w else intMax sg w) % 2 ^ w
      | .val y _ => ∃ r, roundsTo m.rm (y + intVal sg w old) r ∧ (new : Int) = (max (intMin sg w) (min (intMax sg w) r)) % 2 ^ w
    | _ => True

end Sys2Proof.Claims

/-- R148, R154, R155, R166, R167: when the engine starts `mzero`, `mwr`, `mrd` or `mld` it performs it: a tile of zeros, rows from
registers, registers from rows, rows from memory as they stand or converted to f32. An operation that reads waits for its lanes' earlier
writes.
An operation is one step: log entry 20; whose generator a row draws from, log entry 92. -/
def Sys2Proof.Claims.Tile_moves : Prop := ∀ (s : State) (c t d : Nat) (dbl : Bool) (o : MxOp) (rest : List MxOp),
  let w := o.slot
  let n := rowWords dbl
  s.mx.get [] c = o :: rest → Quiet s c → o.got = [] →
  (s.mxReady c o = false → exec (.matrixEngineOpStart c) s = .next s) ∧
  (s.mxReady c o = true → tileThere s c w t dbl →
    (o.k = .mzero t → dbl = false → ∃ u, exec (.matrixEngineOpStart c) s = .next u ∧ EngineDid s u c rest (tileKeys s c w t false) ∧
      ∀ k ∈ tileKeys s c w t false, u.pool.get 0 k = 0 ∧ u.marks.get {} k = {}) ∧
    (∀ rows, o.k = .mwr t rows dbl → (rows.map (·.1)).Nodup → (∀ x ∈ rows, x.1 < 32 ∧ x.2.length = n) →
      ∃ u, exec (.matrixEngineOpStart c) s = .next u ∧
        EngineDid s u c rest (rows.flatMap fun x => (List.range n).map fun j => s.tileKey c w t (n * x.1 + j)) ∧
        ∀ x ∈ rows, ∀ j < n, u.tileWord c w t (n * x.1 + j) = x.2.getD j 0) ∧
    (o.k = .mrd t d dbl → d + n ≤ (s.warp c w).bnd → (s.warp c w).bnd ≤ 128 →
      (∀ l ∈ o.lanes.lanes, (s.lane c w l).live = true ∧ ∀ j < n, (s.mark c w l (d + j)).pend = o.id + 1) →
      ∃ u, exec (.matrixEngineOpStart c) s = .next u ∧
        EngineDid s u c rest (o.lanes.lanes.flatMap fun l => (List.range n).map fun j => s.poolKey c w (d + j) l) ∧
        ∀ l ∈ o.lanes.lanes, ∀ j < n, u.reg c w l (d + j) = s.tileWord c w t (n * l + j) ∧
          (u.mark c w l (d + j)).bad = (s.marks.get {} (s.tileKey c w t (n * l + j))).bad) ∧
    (∀ rows E ds, o.k = .mld t rows E dbl ds → rows.length = 32 → (dbl = true → E = none) → (∀ F, E = some F → ∃ fw, formatOf fw F) →
      (∀ x ∈ rows, rowHere s o.ctx x ∧ x.pos.2 % rowLength E dbl = 0) →
      ∃ u, exec (.matrixEngineOpStart c) s = .next u ∧ EngineDid s u c rest (tileKeys s c w t dbl) ∧
        ∀ m x, rows[m]? = some x →
          match E with
          | none => ∀ j < n, u.tileWord c w t (n * m + j) = BitVec.ofNat 64 (leNat (s.bytes ((s.place x).add (8 * j)) 8)) ∧
              (u.marks.get {} (u.tileKey c w t (n * m + j))).bad = s.badIn ((s.place x).add (8 * j)) 8
          | some F => ∀ i < 32, u.tileElem c w t false m i =
              cvt F.a (.flt f32) F.drm F.ovf ((ds.getD m []).getD i 0) (leNat (s.bytes (s.place x) (4 * F.aty.width)) / 2 ^ (F.aty.width * i) % 2 ^ F.aty.width)))

/-- R168, R169: when the engine starts `mst`, a request for each row goes to its HA, or one for the whole tile to a scratchpad port, by the
core's drain path, and their witnesses become one. A row's request replaces each element in one step.
An operation is one step: log entry 20. -/
def Obligations.Tile_stores : Prop := ∀ (s : State) (c t space : Nat) (dbl : Bool) (o : MxOp) (rest : List MxOp) (rows : List Loc)
    (leaves : List Word) (m : TileMode) (E : Option FmtWord) (ds : List (List Nat)) (d : Option Nat),
  let w := o.slot
  let stored := fun (i : Nat) (x : TileRow) => x.loc = rows.getD i (.hbm 0) ∧ x.draws = ds.getD i [] ∧
    x.vals = (List.range 32).map fun n => s.tileElem c w t dbl i n
  let req := fun (x : Loc) (leaf : Word) (rs : List TileRow) (sc : Scope) =>
    ({ who := ⟨c, w, o.lanes.lanes.headD 0⟩, lanes := o.lanes, team := (s.team c).key, own := space != 0, ord := o.id, inst := 0, ctx := o.ctx
       cls := o.cls, loc := x, op := .tile m rs sc, dst := d, path := some c, leaf := leaf, join := some o.id, since := s.now } : Req)
  (s.mx.get [] c = o :: rest → Quiet s c → s.mxReady c o = true → o.k = .mst t rows leaves m E dbl ds space d →
    ∃ u, exec (.matrixEngineOpStart c) s = .next u ∧
      u = { s with mx := s.mx.set c rest, teams := u.teams, reqs := u.reqs, joins := u.joins, seq := u.seq, lanes := s.wake.lanes, l1 := u.l1 } ∧
      u.joins = s.joins.set o.id { who := ⟨c, w, o.lanes.lanes.headD 0⟩, lanes := o.lanes, team := (s.team c).key, id := o.id, dst := d
                                   left := if space = 0 then 32 else 1, wits := [] } ∧
      (∀ k < s.seq, u.reqs.find? k = s.reqs.find? k) ∧
      (space = 0 → u.seq = s.seq + 32 ∧ ∀ i < 32, ∃ x, stored i x ∧
        u.reqs.find? (s.seq + i) = some (req (rows.getD i (.hbm 0)) (leaves.getD i 0) [x] .pk)) ∧
      (space ≠ 0 → u.seq = s.seq + 1 ∧ ∃ xs, xs.length = 32 ∧ (∀ i x, xs[i]? = some x → stored i x) ∧
        u.reqs.find? s.seq = some (req (rows.getD 0 (.hbm 0)) 0 xs (if space = 1 then .tm else .di)))) ∧
  ∀ (k : Nat) (r : Req) (x : TileRow) (sc : Scope) (j : Join), s.wf → Ready s k r → r.op = .tile m [x] sc → x.loc = r.loc →
    (∃ i F fw, m = storeMode i (some F) ∧ formatOf fw F) ∨ (∃ i, m = storeMode i none) →
    (∀ v ∈ x.draws, v < 2 ^ 32) → (m.rm ≠ .sr → x.draws = []) → (∀ v ∈ x.vals, v < 2 ^ (if m.how = 2 then 64 else 32)) →
    (∀ q < 4 * m.w, holdsBytes ((s.place r.loc).add q)) → (∀ q < 4 * m.w, writable s ((s.place r.loc).add q)) →
    r.join = some o.id → s.joins.find? o.id = some j → j.left = 1 → j.wits = [] → j.fut = none → j.lanes = Mask.one r.who.lane → j.dst = d →
    r.lanes = j.lanes → r.who = j.who → r.who.lane < 32 →
    ∃ u data, exec (performStep s k r) s = .next u ∧ data.length = 4 * m.w ∧ Wrote s u (s.place r.loc) data ∧
      (∀ i < 32, storedElem m (leNat (s.bytes (s.place r.loc) (4 * m.w)) / 2 ^ (m.w * i) % 2 ^ m.w) (x.vals.getD i 0) (x.draws.getD i 0)
        (leNat data / 2 ^ (m.w * i) % 2 ^ m.w)) ∧
      ∀ e, d = some e → u.replies = s.replies.set s.seq
        { who := r.who, team := j.team, regs := [(e, point (s.place r.loc).agent sc.code.toNat s.now, {})], load := false, id := j.id }

namespace Sys2Proof.Claims

/-- Element k of an operand row, as a value and as an integer (R144). -/
def rowValue (f : NumFmt) (w : Nat) (row : List Word) (k : Nat) : ExtQ := extQ (f.fv (getE (row.getD (k / (64 / w)) 0) w (k % (64 / w))))
def rowInt (t : Ty) (row : List Word) (k : Nat) : Int := codeInt t (getE (row.getD (k / (64 / t.width)) 0) t.width (k % (64 / t.width)))

/-- A sum under its scale codes (R156). -/
def scaledR (x : ExtQ) (codes : List Nat) : ExtQ :=
  if 0xFF ∈ codes then .nan
  else match x with
    | .val q n => .val (q * (2 : ℚ) ^ (codes.map fun (k : Nat) => (k : Int) - 127).sum) n
    | y => y

/-- One accumulator from c0 to c1 over the groups of KX in ascending order (R156, R157): each group's exact sum is scaled and rounded,
and added with one rounding; i32 accumulators add exact integers. Tiles of an f64 pair hold f64. -/
def Accumulates (F : FmtWord) (f64tile : Bool) (kx : Nat) (a b : List Word) (codes : Nat → List Nat) (c0 c1 : Nat) : Prop :=
  ∃ acc : Nat → Nat, acc 0 = c0 ∧ acc ((kx + 31) / 32) = c1 ∧ ∀ g, 32 * g < kx →
    let n := min 32 (kx - 32 * g)
    let ks := (List.range n).map (32 * g + ·)
    if F.act = 2 then (acc (g + 1) : Int) = written .i32 F.ovf (codeInt .i32 (acc g) + (ks.map fun k => rowInt F.aty a k * rowInt F.bty b k).sum)
    else
      let t := if f64tile then f64 else f32
      ∃ x, once (if F.aty = .f64 then f64 else f32) .rne F.ovf x (scaledR (sumR .rne (ks.map fun k =>
          mulR (rowValue F.a F.aty.width a k) (rowValue F.b F.bty.width b k))) (codes g)) ∧
        let y := sumR .rne [extQ (t.val (acc g)), extQ ((if F.aty = .f64 then f64 else f32).val x)]
        if F.act = 1 then ∃ h, once f16 .rne F.ovf h y ∧ once f32 .rne false (acc (g + 1)) (extQ (f16.val h))
        else once t .rne F.ovf (acc (g + 1)) y

/-- Column n of B: a row of 128 bytes of the core's scratchpad (R145). -/
def columnB (s : State) (c off n : Nat) : List Word :=
  (List.range 16).map fun j => BitVec.ofNat 64 (leNat (s.bytes (.sp c (off + 128 * n + 8 * j)) 8))

/-- The scale codes of group g for row m and column n: a byte of the A lane's register where A is scaled, and one of the B lane's where B
is (R158). -/
def scalesOf (F : FmtWord) (scale : List (Nat × Word)) (ao bo la lb g : Nat) : List Nat :=
  let byte := fun (l i : Nat) => getE (Tab.get 0 scale l) 8 i
  (if F.scm % 2 = 1 then [byte la (ao + 32 * g / 64)] else []) ++ (if 2 ≤ F.scm then [byte lb (bo + 32 * g / 64)] else [])

end Sys2Proof.Claims

/-- R144, R145, R155-R159, R162, R163: the engine's product. In rows of members and columns below NX the accumulator takes the groups of
KX in order; every other element takes C, or zero under `.z`. `mmaa` takes its rows from tiles, converted to A's type.
An operation is one step: log entry 20. -/
def Obligations.Matrix_product : Prop := ∀ (s : State) (c d kx nx off ao mode : Nat) (F : FmtWord) (z : Bool) (o : MxOp) (rest : List MxOp)
    (scale : List (Nat × Word)),
  let w := o.slot
  let pair := F.aty == .f64
  s.mx.get [] c = o :: rest → Quiet s c → s.mxReady c o = true → (∃ fw, formatOf fw F) → combines F → kx ≤ 1024 / F.aty.width → nx ≤ 32 →
  tileThere s c w d pair →
  (∀ cc rows, o.k = .mma d cc F kx nx off rows scale ao mode z → tileThere s c w cc pair →
    ∃ t, exec (.matrixEngineOpStart c) s = .next t ∧ EngineDid s t c rest (tileKeys s c w d pair) ∧ ∀ m < 32, ∀ n < 32,
      let c0 := if z then 0 else s.tileElem c w cc pair m n
      let low := (rows.map (·.1)).headD 0
      match Tab.find? rows m with
      | some a => if n < nx then Accumulates F pair kx a (columnB s c off n)
            (scalesOf F scale ao (if F.scm % 2 = 1 then ao + blocks F else ao) (if 2 ≤ mode then low else m) (if mode % 2 = 1 then low else n))
            c0 (t.tileElem c w d pair m n)
          else t.tileElem c w d pair m n = c0
      | none => t.tileElem c w d pair m n = c0) ∧
  (∀ src n' members draws, o.k = .mmaa d src n' F kx nx off members draws scale ao mode z → pair = false → members.Pairwise (· < ·) →
    (∀ q < n', tileThere s c w (src + q) false) → n' ≤ 4 →
    ∃ t, exec (.matrixEngineOpStart c) s = .next t ∧ EngineDid s t c rest (tileKeys s c w d false) ∧ ∀ m < 32, ∀ n < 32,
      let c0 := if z then 0 else s.tileElem c w d false m n
      if m ∈ members ∧ n < nx then ∃ a, Accumulates F false kx a (columnB s c off n)
          (scalesOf F scale 0 ao m (if mode = 1 then members.headD 0 else n)) c0 (t.tileElem c w d false m n) ∧
        ∀ k < 1024 / F.aty.width, getE (a.getD (k / (64 / F.aty.width)) 0) F.aty.width (k % (64 / F.aty.width)) =
          if k < 32 * n' then cvt (.flt f32) F.a F.drm F.ovf (((draws.find? fun x => x.1 == m).map (·.2)).getD [] |>.getD k 0)
              (s.tileElem c w (src + k / 32) false m (k % 32))
          else 0
      else t.tileElem c w d false m n = c0)

/-- R164, R165: `vxm` enters the queue with each lane's x and y, and D is pending; a pointer of zero gives zeros and a false predicate; else
each result takes the groups of its column of the weight block, the predicate is true and D's work is done with the null witness.
The width of the accumulation for f64 is the model's reading: log entry 44. -/
def Obligations.Vector_by_matrix : Prop := ∀ (s : State) (f : Mx) (l : Nat) (F : FmtWord),
  let (c, w) := (s.cur.core, s.cur.slot)
  let p := (s.op64 c w l f.b).toNat
  let d := f.d.toNat
  (s.Alone (.vxm f) l → (s.mx.get [] c).length < 16 → s.futRoom c 1 false = true → (s.lane c w l).shadow = [] →
    (∀ x ∈ s.mx.get [] c, x.id ≠ s.seq) →
    formatOf (s.op64 c w l f.e).toNat F → combines F → F.act ≠ 1 → F.aty ≠ .f64 → (F.scm = 0 → f.imm5 = 0) →
    (F.scm % 2 = 1 → f.imm5.toNat / 4 + blocks F ≤ 8) →
    ∀ (u : State) (ps : Option (List Loc)), (p = 0 → ps = none ∧ u = s) → (p ≠ 0 → p % 128 = 0 ∧ ∃ xs : List (Loc × Word), ps = some (xs.map (·.1)) ∧
        xs.length = (if 2 ≤ F.scm then 33 else 32) ∧ (∀ x ∈ xs, x.1.plain = true) ∧ ∃ v : Nat → State, v 0 = s ∧ v xs.length = u ∧
        ∀ j (h : j < xs.length), (v j).locate c (s.isUser c w l) .g (.ld 128) ((p + j * 128) % 2 ^ 64) 128 = (v (j + 1), .ok xs[j])) →
    (p ≠ 0 → u.mx = s.mx ∧ u.seq = s.seq ∧ u.lane c w l = s.lane c w l) →
    ∃ t e, exec (.vxm f) s = .next t ∧
      let fut : FutRef := { core := c, ent := e, gen := (u.futEnt c e).gen }
      (u.futEnt c e).busy = false ∧ (t.futEnt c e).busy = true ∧ (t.futEnt c e).result = none ∧
      t.mx = s.mx.set c (s.mx.get [] c ++ [{ slot := w, lanes := Mask.one l, ctx := (s.team c).ctx, cls := (s.team c).cls, id := s.seq
                                             k := .vxm d f.k.toNat (f.imm5.toNat / 4) f.z [{
        lane := l, f := F, block := ps, fut := fut
        x := (List.range 16).map fun j => s.reg c w l (f.a.toNat + j)
        scale := if F.scm ≠ 0 then s.reg c w l (f.a.toNat + 16) else 0
        ys := (List.range 16).map fun j => s.reg c w l (d + 1 + j) }] }]) ∧
      (t.mark c w l d).fut = some fut ∧ t.reg c w l d = handle ⟨c, w, l⟩ fut ∧
      (∀ j < 16, (t.mark c w l (d + 1 + j)).pend = s.seq + 1) ∧ (t.lane c w l).pc = (s.lane c w l).next.pc ∧
      (f.k.toNat % 8 ≠ 7 → (t.lane c w l).ppend.get 0 (f.k.toNat % 8) = s.seq) ∧ t.mem = u.mem ∧ t.seq = s.seq + 1) ∧
  ∀ (o : MxOp) (rest : List MxOp) (q pp ao : Nat) (z : Bool) (v : VxmLane),
    let w := o.slot
    let gave := fun (t : State) (ys : Nat → Nat) (b : Bool) => (∀ n < 32, getE (t.reg c w v.lane (q + 1 + n / 2)) 32 (n % 2) = ys n) ∧
      (pp % 8 ≠ 7 → (t.lane c w v.lane).preds.getLsbD (pp % 8) = b) ∧
      (t.futEnt v.fut.core v.fut.ent).result = some (0, 0, 0) ∧ t.mem = s.mem ∧ t.sp = s.sp ∧ t.ureg = s.ureg ∧
      ∀ k, (∀ j < 16, k ≠ s.poolKey c w (q + 1 + j) v.lane) → t.pool.get 0 k = s.pool.get 0 k
    s.mx.get [] c = o :: rest → Quiet s c → s.mxReady c o = true → o.got = [] → o.k = .vxm q pp ao z [v] → v.f.aty ≠ .f64 → (∃ fw, formatOf fw v.f) →
    combines v.f → v.f.act ≠ 1 → q + 17 ≤ 128 → v.ys.length = 16 → (s.lane c w v.lane).live = true → (∀ j < 16, (s.mark c w v.lane (q + 1 + j)).pend = o.id + 1) →
    (pp % 8 ≠ 7 → (s.lane c w v.lane).ppend.find? (pp % 8) = some o.id) →
    ((s.futEnt v.fut.core v.fut.ent).busy = true ∧ (s.futEnt v.fut.core v.fut.ent).gen % 2 ^ 28 = v.fut.gen % 2 ^ 28) →
    (v.block = none → ∃ t, exec (.matrixEngineOpStart c) s = .next t ∧ gave t (fun _ => 0) false) ∧
    ∀ xs, v.block = some xs → xs.length = (if 2 ≤ v.f.scm then 33 else 32) → (∀ x ∈ xs, rowHere s o.ctx x ∧ x.pos.2 % 128 = 0 ∧ s.badIn (s.place x) 128 = false) →
      ∃ t ys, exec (.matrixEngineOpStart c) s = .next t ∧ gave t ys true ∧ ∀ n < 32,
        Accumulates v.f false (1024 / v.f.aty.width) v.x
          ((List.range 16).map fun j => BitVec.ofNat 64 (leNat (s.bytes ((s.place (xs.getD n (.hbm 0))).add (8 * j)) 8)))
          (fun g => (if v.f.scm % 2 = 1 then [getE v.scale 8 (ao + 32 * g / 64)] else []) ++
            (if 2 ≤ v.f.scm then [(s.byte ((s.place (xs.getD 32 (.hbm 0))).add (blocks v.f * n + 32 * g / 64))).toNat] else []))
          (if z then 0 else getE (v.ys.getD (n / 2) 0) 32 (n % 2)) (ys n)


namespace Sys2Proof.Claims

-- Engines: copies, fences

/-- From u, a free entry of core c's future table is taken for the work that `fut` names (R344); v is what it has made of the table. -/
def TakesEntry (c : Nat) (copy : Bool) (fut : FutRef) (u v : State) : Prop :=
  let e := u.futEnt c fut.ent
  fut.core = c ∧ fut.ent < 512 ∧ e.busy = false ∧ fut.gen = e.gen ∧ v.free = u.free + 1 ∧
    v.fut = u.fut.set (futKey c fut.ent) { e with busy := true, copy := copy, started := false, result := none }

/-- From v, lane l has gone past its word with the handle in D, pending on its entry (R344, R345); nothing else has changed. -/
def Handed (s : State) (l : Nat) (d : BitVec 8) (fut : FutRef) (v t : State) : Prop :=
  LanesOnly s.cur.core s.cur.slot [l] [l] (dsts d 1) false v t ∧ ∀ r ∈ dsts d 1, (t.mark s.cur.core s.cur.slot l r).fut = some fut ∧
    t.reg s.cur.core s.cur.slot l r = BitVec.ofNat 64 (14 * 2 ^ 60 + s.cur.core * 2 ^ 48 + s.cur.slot * 2 ^ 42 + l * 2 ^ 37 + fut.ent * 2 ^ 28 +
      fut.gen % 2 ^ 28)

/-- The entry of the work still belongs to it. -/
def Holds (s : State) (fut : FutRef) : Prop := (s.futEnt fut.core fut.ent).busy = true ∧ (s.futEnt fut.core fut.ent).gen % 2 ^ 28 = fut.gen % 2 ^ 28

/-- The work is complete in t: its witness waits for FUTURE_RESOLVE (R345). -/
def Completed (t : State) (fut : FutRef) (w : Word) : Prop := (t.futEnt fut.core fut.ent).result = some (w, 0, 0)

/-- The copies: kind, bytes that move, and whether C is a length or count that no copy may have (R349, R350). -/
def copyWords (f : Eng) (x : Nat) : List (Instr × Nat × Nat × Bool) :=
  [(.cpy f, 0, x, decide (2 ^ 30 < x)),
   (.cpyw f, 1, x % 2 ^ 32, decide (2 ^ 39 ≤ x) || decide (2 ^ 30 < x % 2 ^ 32)),
   (.cpyg f, 2, x * f.ty.bytes, decide (2 ^ 20 < x))]

/-- Where byte o of a copy comes from, found in state v: B and the bytes after it, or, for `cpyg`, the addresses of its table (R350). -/
def CopySource (s : State) (f : Eng) (l kind : Nat) (v : State) (src : Nat → Nat) : Prop :=
  let (c, w) := (s.cur.core, s.cur.slot)
  let b := (s.op64 c w l f.b).toNat
  let n := (s.op64 c w l f.c).toNat
  let g := f.ty.bytes
  if kind ≠ 2 then v = s ∧ src = fun o => b + o
  else (s.op64 c w l f.a).toNat % g = 0 ∧ b % 8 = 0 ∧ ∃ v0 ts bs bad,
    s.placeAll (some c) (s.team c).ctx (s.isUser c w l) .rawRead ((List.range n).map fun j => (b + 8 * j, 8)) = (v0, .ok ts) ∧
    (∀ x ∈ ts, v0.laneBusy c w l x.1 8 = false) ∧ v0.readPieces (s.team c).ctx ts = (bs, bad, v) ∧
    (∀ j < n, leNat ((bs.drop (8 * j)).take 8) % g = 0) ∧ src = fun o => leNat ((bs.drop (8 * (o / g))).take 8) + o % g

/-- A witness widened to a scope: its kind, agent and tick stay (R354). -/
def WitWidened (sc : Nat) (w r : Word) : Prop :=
  (w = 0 → r = 0) ∧ (w ≠ 0 → wKind r = wKind w ∧ wAgent r = wAgent w ∧ wTick r = wTick w ∧ wScope r = max (wScope w) sc)

/-- A destination that the copy may have: any, or for `cpyw` a pool or scratchpad of a core window (R349). -/
def copyDest (kind : Nat) (y : Loc) : Bool := match y with | .pool .. | .sp .. => true | _ => kind != 1

/-- From s to t the moves have been made in order (R350): each leaves at its destination the bytes that stand at its sources. -/
def Moved (s t : State) (ms : List CopyMove) : Prop :=
  ∃ v : Nat → State, (∀ i y, writable (v i) y ↔ writable s y) ∧ (s.mons = [] → ∀ i, (v i).mons = []) ∧ (∀ y, holdsBytes y → (v 0).byte y = s.byte y ∧ t.byte y = (v ms.length).byte y) ∧ ∀ i m, ms[i]? = some m →
    Wrote (v i) (v (i + 1)) (s.place m.dst) (m.src.flatMap fun x => (v i).bytes (s.place x.1) x.2.2)

/-- The witness of an engine's writes at some agents (R350): the widest of SC and each one's EXT, or a point at the one agent. -/
def WritesWit (c sc now : Nat) (as : List Nat) (w : Word) : Prop :=
  (∀ a, a < 0x800 → (∀ b ∈ as, b = a) → as ≠ [] → w = point a sc now) ∧
  ((∃ a ∈ as, ∃ b ∈ as, a ≠ b) → ∃ k, w = Machine.frontier k now ∧ sc ≤ k ∧ (∀ a ∈ as, inAgents k c a) ∧
    (k = sc ∨ ∃ a ∈ as, ∀ j, 3 ≤ j → j < k → ¬inAgents j c a))

/-- The writes of a piece of work stand open from now, at the agents that `at` names, with no message to a peer among them. -/
def OpenAt (s : State) (at_ : Nat → Prop) (o : Opened) : Prop := o.tick = s.now ∧ o.links = [] ∧ ∀ a, a ∈ o.agents ↔ at_ a

/-- Work that has sent nothing to peers is closed: every agent that it wrote at has closed its tick (R224). -/
def Shut (s : State) (o : Opened) : Prop := ∀ a ∈ o.agents, tickAtLeast (s.ctOf a) o.tick

/-- A place lies in a window of a core that holds no team of the context (R419). -/
def windowGone (s : State) (ctx : Nat) (x : Loc) : Prop :=
  match x with
  | .pool c _ | .sp c _ | .sync c _ | .queue c _ => (∀ t, s.teams.find? c = some t → t.ctx ≠ ctx) ∧ ∀ y ∈ s.saved, y.core = c → y.team.ctx ≠ ctx
  | _ => False

/-- Fences that wait behind completed work cover its witness (R245). -/
def covered (s : State) (c : Nat) (wit : Word) (js : List CopyJob) : List CopyJob :=
  js.map fun x => if x.fence.isSome then { x with wit := (s.merge c x.wit wit).getD x.wit } else x

/-- The same of fences in the Mill's queue. -/
def coveredMill (s : State) (c : Nat) (wit : Word) (js : List MillJob) : List MillJob :=
  js.map fun x => if x.fence.isSome then { x with wit := (s.merge c x.wit wit).getD x.wit } else x

end Sys2Proof.Claims

/-- R344, R345, R347, R349, R350: a copy refuses lengths above its limit, does nothing for none, faults on what does not translate or is
misaligned, and else takes a future entry and the last place of its queue, with a move for each granule of its destination. -/
def Sys2Proof.Claims.Copies_enter : Prop := ∀ (s : State) (f : Eng) (l : Nat),
  let (c, w) := (s.cur.core, s.cur.slot)
  let a := (s.op64 c w l f.a).toNat
  let b := (s.op64 c w l f.b).toNat
  let x := (s.op64 c w l f.c).toNat
  let ctx := (s.team c).ctx
  let q := f.mod.toNat % 4
  ∀ i kind n bad, (i, kind, n, bad) ∈ copyWords f x → s.Alone i l →
  (bad = true → Traps s s i l 0x05 0 0) ∧
  (bad = false → n = 0 → ∃ t, exec i s = .next t ∧ Leaves s l f.d 0 s t) ∧
  (bad = false → n ≠ 0 → kind = 2 → (a % f.ty.bytes ≠ 0 → Traps s s i l 0x0A a 0) ∧
    (a % f.ty.bytes = 0 → b % 8 ≠ 0 → Traps s s i l 0x0A b 0)) ∧
  (bad = false → n ≠ 0 → ∀ v src, CopySource s f l kind v src →
    let found := v.movesFrom (some c) ctx (s.isUser c w l) (copyDest kind) a src (granules n a 0 n)
    (∀ u k e, found = (u, .error (k, e)) → Traps s u i l k e 0) ∧
    ∀ u ms, found = (u, .ok ms) → u.peersReady ctx (placesOf ms) = .ok →
      (ms.map (·.n)).sum = n ∧
      (∀ j m, ms[j]? = some m → let o := ((ms.take j).map (·.n)).sum
        m.n ∈ [1, 2, 4, 8] ∧ (a + o) % m.n = 0 ∧ (m.src.map (·.2.2)).sum = m.n ∧ copyDest kind m.dst = true) ∧
      (u.futRoom c 1 true = false → Retries s i l u) ∧
      (u.futRoom c 1 true = true → ∃ t y fut, exec i s = .next t ∧ TakesEntry c true fut u y ∧
        Handed s l f.d fut { u with fut := y.fut, free := y.free, cq := u.cq.set (4 * c + q) (u.cq.get [] (4 * c + q) ++ [{
          who := ⟨c, w, l⟩, team := u.ownKey c, ctx := ctx, cls := u.laneClass c w l, moves := ms, sc := f.sc, fut := some fut
          sem := if kind = 1 ∧ x.testBit 38 then ms.head?.map fun m => (m.dst.agent - 0x200, x / 2 ^ 32 % 2 ^ 6) else none }]) } t))

/-- R224, R244, R269, R350, R419: the oldest entry of a copy queue makes its moves, and no other byte changes; it stays until every write
that it made has closed, and is then complete with their witness: it leaves the queue, fences behind it cover it, and `cpyw`'s semaphore rises.
One whose window is no longer its context's moves nothing, and its handle's reader takes the access fault.
The order of the granules is the model's choice: log entry 66; that all moves are made in one step, log entry 20; what becomes of a copy whose window has gone, log entry 78. -/
def Sys2Proof.Claims.Copies_perform : Prop := ∀ (s : State) (c q : Nat) (j : CopyJob) (rest : List CopyJob),
  let run := exec (.queueEntryStart (.copy c q)) s
  s.cq.get [] (4 * c + q) = j :: rest → j.fence = none → c < 1536 → (∀ fut, j.fut = some fut → Holds s fut) →
  (j.shut = none → s.pal = [] → s.mons = [] → s.saved = [] → s.wf →
    (∀ m ∈ j.moves, rowHere s j.ctx m.dst ∧ (∀ i < m.n, holdsBytes ((s.place m.dst).add i)) ∧ (m.src.map (·.2.2)).sum = m.n ∧
      ∀ x ∈ m.src, rowHere s j.ctx x.1) →
    ∃ t o, run = .next t ∧ Moved s t j.moves ∧ OpenAt s (fun a => ∃ m ∈ j.moves, a = (s.place m.dst).agent) o ∧
      t.cq = s.cq.set (4 * c + q) ({ j with shut := some o } :: rest) ∧ t.ureg = s.ureg ∧ t.conns = s.conns ∧ (∀ x, t.sem x = s.sem x) ∧
      ∀ fut, j.fut = some fut → (t.futEnt fut.core fut.ent).started = true ∧ (t.futEnt fut.core fut.ent).result = (s.futEnt fut.core fut.ent).result) ∧
  (j.shut = none → (∃ m ∈ j.moves, ∃ x ∈ m.dst :: m.src.map (·.1), windowGone s j.ctx x) →
    ∃ t, run = .next t ∧ t.cq = s.cq.set (4 * c + q) (covered s c 0 rest) ∧ t.mem = s.mem ∧ t.sp = s.sp ∧ t.pool = s.pool ∧ (∀ x, t.sem x = s.sem x) ∧
      ∀ fut, j.fut = some fut → (t.futEnt fut.core fut.ent).result = some (0, 0x0C, 0)) ∧
  (∀ o, j.shut = some o → o.links = [] → ¬Shut s o → run = .next s) ∧
  ∀ o, j.shut = some o → o.links = [] → Shut s o → (∀ a ∈ o.agents, a < 0x800) → 1 ≤ j.sc.code.toNat → j.sc.code.toNat ≤ 11 →
    (∀ d n, j.sem = some (d, n) → (s.sem (.core d n)).wait = []) →
    ∃ t wit, run = .next t ∧ WritesWit c j.sc.code.toNat s.now o.agents wit ∧
      t.cq = s.cq.set (4 * c + q) (covered s c wit rest) ∧ (∀ fut, j.fut = some fut → Completed t fut wit) ∧
      t.mem = s.mem ∧ t.sp = s.sp ∧ t.pool = s.pool ∧ t.ureg = s.ureg ∧ t.conns = s.conns ∧
      (j.sem = none → ∀ x, t.sem x = s.sem x) ∧
      ∀ d n, j.sem = some (d, n) → (∃ y, s.teams.find? d = some y ∧ y.ctx = j.ctx) →
        HoldsWit (s.sem (.core d n)).w → ∃ r, t.sem (.core d n) = { v := min ((s.sem (.core d n)).v + 1) (2 ^ 64 - 1), w := r, wait := [] } ∧
          Merged (fun y => s.linkDone (wConn y) (wSeq y)) d (s.sem (.core d n)).w wit r

/-- R245, R354: `qfen` refuses an empty mask and bits above 4, waits for room, and else stands one entry in each queue of its mask, with one
handle for all of M; the entry goes on once it is first in all of them, with the merge of what it covered, widened to SC. -/
def Sys2Proof.Claims.Queue_fence : Prop := ∀ (s : State) (f : Eng) (m : Nat),
  let (c, w) := (s.cur.core, s.cur.slot)
  let ms := s.lanesM (.qfen f)
  (Whole s (.qfen f) → (∀ l ∈ ms, (s.op64 c w l f.a).toNat = m) →
    (m = 0 ∨ 32 ≤ m → exec (.qfen f) s = .next (s.trapAll ms 0x05 0)) ∧
    (1 ≤ m → m < 32 → (s.futRoom c 1 false = false ∨ (16 ≤ m ∧ 16 ≤ (s.team c).mill.length)) → ∃ t, exec (.qfen f) s = .next t ∧ AllRetry s s t (.qfen f)) ∧
    (1 ≤ m → m < 32 → s.futRoom c 1 false = true → (16 ≤ m → (s.team c).mill.length < 16) → ∃ t fut y, exec (.qfen f) s = .next t ∧
      TakesEntry c false fut s y ∧ t.fut = y.fut ∧ t.mem = s.mem ∧ t.seq = s.seq + 1 ∧
      (∀ q < 4, t.cq.get [] (4 * c + q) = if m.testBit q then s.cq.get [] (4 * c + q) ++ [{
        who := ⟨c, w, ms.headD 0⟩, team := s.ownKey c, ctx := (s.team c).ctx, cls := s.laneClass c w (ms.headD 0), moves := [], sem := none, sc := f.sc
        fut := some fut, fence := some (m, s.seq) }] else s.cq.get [] (4 * c + q)) ∧
      (t.team c).mill.map (·.fence) = (s.team c).mill.map (·.fence) ++ (if 16 ≤ m then [some s.seq] else []) ∧
      ∀ l ∈ ms, (t.lane c w l).pc = (s.lane c w l).next.pc ∧ ∀ r ∈ dsts f.d 1, (t.mark c w l r).fut = some fut ∧
        t.reg c w l r = t.reg c w (ms.headD 0) r)) ∧
  ∀ (c id : Nat) (fut : FutRef) (mj : MillJob) (mrest : List MillJob), m < 32 → Holds s fut → 1 ≤ f.sc.code.toNat →
    (16 ≤ m → (s.team c).mill = mj :: mrest ∧ mj.fence = some id ∧ (s.team c).millHalt = 0 ∧ HoldsWit mj.wit) →
    (∀ (q : Nat) (jobs : Nat → CopyJob) (rest : Nat → List CopyJob), m.testBit q = true → q < 4 →
      (∀ p < 4, m.testBit p → s.cq.get [] (4 * c + p) = jobs p :: rest p ∧ (jobs p).fence = some (m, id) ∧ (jobs p).fut = some fut ∧
        (jobs p).sc = f.sc ∧ HoldsWit (jobs p).wit) →
      ∃ t wit r, exec (.queueEntryStart (.copy c q)) s = .next t ∧
        (∀ p < 4, t.cq.get [] (4 * c + p) = if m.testBit p then covered s c r (rest p) else s.cq.get [] (4 * c + p)) ∧
        (t.team c).mill = (if 16 ≤ m then coveredMill s c r mrest else (s.team c).mill) ∧
        wit = ((((List.range 4).filter m.testBit).map fun p => (jobs p).wit) ++ if 16 ≤ m then [mj.wit] else []).foldl (fun a b => (s.merge c a b).getD a) 0 ∧
        WitWidened f.sc.code.toNat wit r ∧ Completed t fut r ∧ t.mem = s.mem ∧ t.sp = s.sp ∧ t.pool = s.pool ∧ t.ureg = s.ureg) ∧
    (m = 16 → mj.fut = some fut → mj.desc = [BitVec.ofNat 64 f.sc.code.toNat] → ∃ t r, exec (.millChainStart c) s = .next t ∧
      (t.team c).mill = coveredMill s c r mrest ∧ WitWidened f.sc.code.toNat mj.wit r ∧ Completed t fut r ∧ t.mem = s.mem ∧ t.sp = s.sp ∧ t.pool = s.pool)


namespace Sys2Proof.Claims

-- Architected queues, the Mill

/-- From s the architected queues of core c have changed to `aq`, with waiters `wait` at queue k. -/
def QueueIs (s t : State) (c k : Nat) (q : AQueue) (wait : List AqWait) : Prop :=
  (t.team c).aq.get {} k = q ∧ (∀ j, j ≠ k → (t.team c).aq.get {} j = (s.team c).aq.get {} j) ∧ (t.team c).aqWait.get [] k = wait ∧
    { t.team c with aq := (s.team c).aq, aqWait := (s.team c).aqWait } = s.team c ∧ ∀ d, d ≠ c → t.team d = s.team d

/-- Every lane of M is parked at the queue. -/
def ParkedAt (s t : State) (i : Instr) : Prop :=
  t = { s with teams := t.teams, lanes := t.lanes } ∧ ∀ l ∈ s.lanesM i, let x := t.lane s.cur.core s.cur.slot l
    x.park = .queue ∧ x.pc = (s.lane s.cur.core s.cur.slot l).pc

/-- Bits hi to lo of dword j of a descriptor. -/
def dwordBits (ws : List Word) (j hi lo : Nat) : Nat := (ws.getD j 0).toNat / 2 ^ lo % 2 ^ (hi + 1 - lo)

/-- The types of a stream's elements (R351). -/
def streamTypes : List Ty := [.f16, .bf16, .f32, .b8p1, .b8p2, .b8p3, .b8p4, .b8p5, .b8p6, .b8p7, .q4, .i8, .n8, .i4, .n4]

/-- A well-formed chain descriptor, and what it says (R351, R352). -/
def ChainForm (ws : List Word) (d : MillDesc) : Prop :=
  let b := dwordBits ws
  let n := b 3 50 48 + 1
  let op := fun (j : Nat) => (b 4 (8 * j + 3) (8 * j), b 4 (8 * j + 7) (8 * j + 4))
  (b 0 63 52 = 0 ∧ b 1 62 52 = 0 ∧ b 2 63 52 = 0 ∧ b 3 39 37 = 0 ∧ b 3 47 45 = 0 ∧ b 3 51 51 = 0 ∧ b 3 63 58 = 0 ∧
    (ws.getD 4 0).toNat / 2 ^ (8 * n) = 0) ∧
  (d.sty.code.toNat = b 3 36 32 ∧ (d.sty ∈ streamTypes ∨ d.sty = .dw)) ∧ (d.dty.code.toNat = b 3 44 40 ∧ d.dty ∈ streamTypes) ∧
  Rm.ofCode (b 3 54 52) = some d.rm ∧ (d.sat = true ↔ b 3 55 55 = 1) ∧ (d.un = true ↔ b 3 56 56 = 1) ∧ (d.inf = true ↔ b 3 57 57 = 1) ∧
  d.src = b 0 51 0 ∧ d.dst = b 1 51 0 ∧ d.scl = b 2 51 0 ∧ d.count = b 3 31 0 ∧ (d.qd = true ↔ b 1 63 63 = 1) ∧
  d.ops = (List.range n).map op ∧ d.cst = (List.range 6).map (fun k => if k % 2 = 0 then b (5 + k / 2) 31 0 else b (5 + k / 2) 63 32) ∧
  1 ≤ d.count ∧ d.count ≤ 2 ^ 30 ∧ d.src % max 1 d.sty.bytes = 0 ∧ (if d.qd then d.dst < 4 else d.dst % max 1 d.dty.bytes = 0) ∧
  (∀ x ∈ d.ops, x.1 ≤ 5 ∧ (x.1 = 0 ↔ d.sty = .dw) ∧ x.2 ≤ (if 3 ≤ x.1 then 4 else 5)) ∧ (d.scl ≠ 0 ↔ ∃ x ∈ d.ops, x.1 = 2)

/-- One operation of a chain on an f32 (R352), under the element's scale. -/
def chainOp (d : MillDesc) (scale op k x y : Nat) : Prop :=
  let v := fun (a : Nat) => extQ (f32.val a)
  let c := fun (j : Nat) => d.cst.getD j 0
  match op with
  | 1 => once f32 .rne false y (mulR (v x) (v (c k)))
  | 2 => once f32 .rne false y (scaledR (v x) [scale])
  | 3 => once f32 .rne false y (sumR .rne [mulR (v x) (v (c k)), v (c (k + 1))])
  | 4 => ∃ m, isMinMax f32 true x (c k) m ∧ isMinMax f32 false m (c (k + 1)) y
  | 5 => (fcondition 5 (v x) (v (c k)) → y = x) ∧ (¬fcondition 5 (v x) (v (c k)) → y = c (k + 1))
  | _ => y = x

/-- The operations of a chain in order. -/
def chainOps (d : MillDesc) (scale : Nat) : List (Nat × Nat) → Nat → Nat → Prop
  | [], x, y => y = x
  | (op, k) :: t, x, y => ∃ m, chainOp d scale op k x m ∧ chainOps d scale t m y

/-- Bits of element i of type t in a stream: the address of its bytes, and how far up it stands in them. -/
def streamAt (base : Nat) (t : Ty) (i : Nat) : Nat × Nat := if t.width = 4 then (base + i / 2, 4 * (i % 2)) else (base + i * t.bytes, 0)

/-- From u to v only team c has changed, in its Mill's generator, and counters. -/
def OnlyGen (c : Nat) (u v : State) : Prop :=
  v = { u with ctxs := v.ctxs, nv := v.nv, teams := v.teams } ∧ (∀ d, { v.team d with millGen := 0 } = { u.team d with millGen := 0 }) ∧
    (∀ d, d ≠ c → v.team d = u.team d) ∧ ∀ x, { v.ctxs.get {} x with dstale := 0 } = { u.ctxs.get {} x with dstale := 0 }

/-- From u to v memory has changed at most, and what is kept about its lines and about mapped granules. -/
def OnlyMemory (u v : State) : Prop :=
  v = { u with mem := v.mem, poison := v.poison, sp := v.sp, spPoison := v.spPoison, pool := v.pool, marks := v.marks, dirty := v.dirty, comp := v.comp, tags := v.tags, l1 := v.l1, teams := v.teams } ∧
  ∀ d, { v.team d with map := (v.team d).map.map (fun (x : Nat × MapEnt) => (x.1, { x.2 with dirty := true })) } =
    { u.team d with map := (u.team d).map.map (fun (x : Nat × MapEnt) => (x.1, { x.2 with dirty := true })) }

/-- From u to v the Mill of core c takes element i of a chain from memory to its result r (R352): unpacked, through the operations, converted,
with one generator step under sr. Beside that only translations and counters have changed. -/
def Unpacks (d : MillDesc) (c : Nat) (user : Bool) (i : Nat) (u v : State) (r : Nat) : Prop :=
  let ctx := (u.team c).ctx
  let (a, sh) := streamAt d.src d.sty i
  let n := max 1 d.sty.bytes
  ∃ u1 u2 x leaf scale x0 x1,
    u.enginePlace (some c) ctx user .rawRead a n = (u1, .ok (x, leaf)) ∧ rowHere u1 ctx x ∧
    (if d.scl = 0 then u2 = u1 ∧ scale = 0 else ∃ y lf, u1.enginePlace (some c) ctx user .rawRead (d.scl + i / 64) 1 = (u2, .ok (y, lf)) ∧
      rowHere u2 ctx y ∧ scale = (u2.byte (u2.place y)).toNat) ∧
    (let code := leNat (u1.bytes (u1.place x) n) / 2 ^ sh % 2 ^ d.sty.width
     if d.sty = .dw then x0 = valueAt (u2.ctxs.get {} ctx) (BitVec.ofNat 64 code) (heldStep (u2.ctxs.get {} ctx) (0x200 + c))
      else x0 = cvt (tyNum d.sty d.un d.inf) (.flt f32) .rne false 0 code) ∧
    chainOps d scale d.ops x0 x1 ∧
    (let g := (u.team c).millGen
     (v.team c).millGen = (if d.rm = .sr then srStep g else g) ∧
      r = cvt (.flt f32) (tyNum d.dty d.un d.inf) d.rm d.sat (if d.rm = .sr then srDraw (srStep g) else 0) x1) ∧
    OnlyGen c u2 v

/-- Element i of a chain to memory: its result stands at its place, a half byte beside the other half's old bits. -/
def StreamsTo (d : MillDesc) (c : Nat) (user : Bool) (i : Nat) (u v : State) (agent : Nat) : Prop :=
  let ctx := (u.team c).ctx
  let (b, sh) := streamAt d.dst d.dty i
  let n := max 1 d.dty.bytes
  ∃ u1 u2 y leaf r data, Unpacks d c user i u u1 r ∧ u1.enginePlace (some c) ctx user .rawWrite b n = (u2, .ok (y, leaf)) ∧ rowHere u2 ctx y ∧
    agent = (u2.place y).agent ∧ data.length = n ∧ Wrote u2 v (u2.place y) data ∧ OnlyMemory u2 v ∧ leNat data / 2 ^ sh % 2 ^ d.dty.width = r ∧
    (d.dty.width = 4 → leNat data / 2 ^ (4 - sh) % 16 = leNat (u2.bytes (u2.place y) 1) / 2 ^ (4 - sh) % 16)

/-- An access of the Mill from u faults, with a cause that `fault` takes, or its place is no memory that stands here. -/
def NoPlace (u : State) (c : Nat) (user : Bool) (acc : Acc) (a n : Nat) (fault : Nat → Prop) : Prop :=
  match u.enginePlace (some c) (u.team c).ctx user acc a n with
  | (_, .error k) => fault k
  | (v, .ok (x, _)) => ¬rowHere v (u.team c).ctx x ∨ ∃ j < n, ¬holdsBytes ((v.place x).add j)

/-- Element i of a chain has no place for its source, its scale or its result. -/
def StreamStops (d : MillDesc) (c : Nat) (user : Bool) (i : Nat) (u : State) (fault : Nat → Prop) : Prop :=
  let a := (streamAt d.src d.sty i).1
  NoPlace u c user .rawRead a (max 1 d.sty.bytes) fault ∨
  (d.scl ≠ 0 ∧ NoPlace (u.enginePlace (some c) (u.team c).ctx user .rawRead a (max 1 d.sty.bytes)).1 c user .rawRead (d.scl + i / 64) 1 fault) ∨
  (d.qd = false ∧ ∃ v r, Unpacks d c user i u v r ∧ NoPlace v c user .rawWrite (streamAt d.dst d.dty i).1 (max 1 d.dty.bytes) fault)

end Sys2Proof.Claims

/-- R355: `qpush` appends the entry of M's dwords, zeros for the other lanes; `qpop` takes the oldest entry, and each lane of M receives its
dword with its poison; at a full or an empty queue their lanes park. A push at an empty queue serves the first pop that waits there, and a
pop at a full one the first push. -/
def Sys2Proof.Claims.Architected_queues : Prop := ∀ (s : State) (f : Eng),
  let (c, w) := (s.cur.core, s.cur.slot)
  let k := f.c.toNat
  let q := (s.team c).aq.get {} k
  let here := fun (i : Instr) (push : Option (List Word × List Bool)) (d : BitVec 8) =>
    ({ slot := w, lanes := Mask.ofLanes (s.lanesM i), push := push, dst := d, since := s.now } : AqWait)
  let entry := ((List.range 32).map fun l => if l ∈ s.lanesM (.qpush f) then s.op64 c w l f.a else 0, List.replicate 32 false)
  let ws := (s.team c).aqWait.get [] k
  (∀ x rest, ws = x :: rest → x.slot ≠ w →
    let wakes := fun (t : State) => ∀ l, x.lanes.has l = true → (s.lane c x.slot l).park = .queue → (t.lane c x.slot l).park = .none ∧
      (t.lane c x.slot l).pc = (s.lane c x.slot l).next.pc
    (Whole s (.qpush f) → q.ents = [] → (∀ y ∈ ws, y.push = none) → (∀ r ∈ dsts x.dst 1, r < 128) → ∃ t, exec (.qpush f) s = .next t ∧
      QueueIs s t c k { q with pushes := (q.pushes + 1) % 2 ^ 64, pops := (q.pops + 1) % 2 ^ 64 } rest ∧ wakes t ∧
      (∀ l ∈ s.lanesM (.qpush f), (t.lane c w l).pc = (s.lane c w l).next.pc) ∧
      ∀ l, x.lanes.has l = true → (s.lane c x.slot l).park = .queue → ∀ r ∈ dsts x.dst 1, t.reg c x.slot l r = entry.1.getD l 0) ∧
    (Whole s (.qpop f) → ∀ e es p, q.ents = e :: es → es.length = 15 → (∀ y ∈ ws, y.push ≠ none) → x.push = some p → ∃ t, exec (.qpop f) s = .next t ∧
      QueueIs s t c k { q with ents := es ++ [p], pushes := (q.pushes + 1) % 2 ^ 64, pops := (q.pops + 1) % 2 ^ 64 } rest ∧ wakes t ∧
      ∀ l ∈ s.lanesM (.qpop f), (t.lane c w l).pc = (s.lane c w l).next.pc ∧ ∀ r ∈ dsts f.d 1, t.reg c w l r = e.1.getD l 0)) ∧
  (ws = [] → (Whole s (.qpush f) →
    (q.ents.length < 16 → ∃ t, exec (.qpush f) s = .next t ∧ Past s (.qpush f) [] { s with teams := t.teams } t ∧
      QueueIs s t c k { q with ents := q.ents ++ [entry], pushes := (q.pushes + 1) % 2 ^ 64 } []) ∧
    (16 ≤ q.ents.length → ∃ t, exec (.qpush f) s = .next t ∧ ParkedAt s t (.qpush f) ∧ QueueIs s t c k q [here (.qpush f) (some entry) nilByte])) ∧
   (Whole s (.qpop f) →
    (∀ e es, q.ents = e :: es → ∃ t, exec (.qpop f) s = .next t ∧ Past s (.qpop f) (dsts f.d 1) { s with teams := t.teams } t ∧
      QueueIs s t c k { q with ents := es, pops := (q.pops + 1) % 2 ^ 64 } [] ∧
      ∀ l ∈ s.lanesM (.qpop f), ∀ r ∈ dsts f.d 1, t.reg c w l r = e.1.getD l 0 ∧ (t.mark c w l r).bad = e.2.getD l false) ∧
    (q.ents = [] → ∃ t, exec (.qpop f) s = .next t ∧ ParkedAt s t (.qpop f) ∧ QueueIs s t c k q [here (.qpop f) none f.d])))

/-- R348, R351, R356: `chn` reads its descriptor once, refuses a malformed one, waits for room and else queues the chain with one handle;
`mill.rd` shows the Mill's status; `mill.clr` lets a halted Mill go on and does nothing to another. -/
def Sys2Proof.Claims.Mill_words : Prop := ∀ (s : State) (f : Eng) (m : Nat),
  let (c, w) := (s.cur.core, s.cur.slot)
  let y := s.team c
  (Whole s (.millRd f) → ∃ t, exec (.millRd f) s = .next t ∧ AllLeave s (.millRd f) f.d
    (BitVec.ofNat 64 ((y.mill.filter fun x => x.fence.isNone).length % 2 ^ 16 * 2 ^ 32 + y.millDone % 2 ^ 16 * 2 ^ 16 + y.millHalt * 256 + (if y.millHalt = 0 then 0 else 1))) s t) ∧
  (Whole s (.millClr f) → ∃ t, exec (.millClr f) s = .next t ∧ Past s (.millClr f) [] { s with teams := t.teams } t ∧
    t.team c = { y with millHalt := 0 } ∧ ∀ d, d ≠ c → t.team d = s.team d) ∧
  (Whole s (.chn f) → (s.lanesM (.chn f)).head? = some m → (∀ l ∈ s.lanesM (.chn f), s.op64 c w l f.a = s.op64 c w m f.a) →
    let a := (s.op64 c w m f.a).toNat
    let ms := s.lanesM (.chn f)
    ((16 ≤ y.mill.length ∨ s.futRoom c 1 false = false) → ∃ t, exec (.chn f) s = .next t ∧ AllRetry s s t (.chn f)) ∧
    (y.mill.length < 16 → s.futRoom c 1 false = true → ∀ u x leaf,
      (∀ k, placeOf s m .g (.ld 64) a 64 = (u, .error k) → exec (.chn f) s = .next (u.trapAll ms k 0 fun _ => a)) ∧
      (placeOf s m .g (.ld 64) a 64 = (u, .ok (x, leaf)) → rowHere u y.ctx x →
        let ws := (List.range 8).map fun j => BitVec.ofNat 64 (leNat (u.bytes ((u.place x).add (8 * j)) 8))
        (u.laneBusy c w m x 64 = true → ∃ t, exec (.chn f) s = .next t ∧ AllRetry s u t (.chn f)) ∧
        (u.laneBusy c w m x 64 = false →
          ((¬∃ d, ChainForm ws d) → exec (.chn f) s = .next (u.trapAll ms 0x05 0)) ∧
          ((∃ d, ChainForm ws d) → ∃ (t : State) (fut : FutRef) (v : State), exec (.chn f) s = .next t ∧ TakesEntry c false fut u v ∧ t.fut = v.fut ∧ t.mem = u.mem ∧
            t.team c = { u.team c with mill := (u.team c).mill ++ [{ desc := ws, fut := some fut, user := s.isUser c w m }] } ∧
            ∀ l ∈ ms, (t.lane c w l).pc = (s.lane c w l).next.pc ∧ ∀ r ∈ dsts f.d 1, (t.mark c w l r).fut = some fut ∧
              t.reg c w l r = handle ⟨c, w, m⟩ fut)))))

/-- R348, R352: the Mill runs its oldest chain. Elements go to memory in order, each as R352 says; once their writes have closed, the chain is
over and its handle's work complete with their witness. A translation or access fault halts it there with cause 5 or 6, and the handle's first reader takes the engine fault. A chain
to a queue, here of one entry, pushes its packed results.
The model's readings: log entry 52. -/
def Sys2Proof.Claims.Mill_streams : Prop := ∀ (s : State) (c : Nat) (j : MillJob) (rest : List MillJob) (d : MillDesc) (fut : FutRef),
  let y := s.team c
  y.mill = j :: rest → y.millHalt = 0 → j.fence = none → j.desc.length = 8 → j.fut = some fut → Holds s fut → ChainForm j.desc d →
  s.pal = [] → s.mons = [] → s.saved = [] → s.wf → c < 1536 → (∃ t, s.teams.find? c = some t) → (∀ x ∈ rest, x.fence = none) →
  let s0 := (s.modTeam c fun t => { t with millGen := t.millSeed.getD t.millGen, millSeed := none }).futStart (some fut)
  let left := fun (t : State) (ok : Bool) (halt : Nat) => (t.team c).mill = rest ∧ (t.team c).millHalt = halt ∧
    (t.team c).millDone = (if ok then y.millDone + 1 else y.millDone)
  let halted := fun (t : State) (k : Nat) => left t false (if k = 0x0B then 5 else 6) ∧ (t.futEnt fut.core fut.ent).result = some (0, 0x15, 0)
  let fresh := j.pos = 0 ∧ j.begun = false ∧ j.shut = none
  (∀ o, j.shut = some o → o.links = [] → (∀ a ∈ o.agents, a < 0x800) → (¬Shut s o → exec (.millChainStart c) s = .next s) ∧
    (Shut s o → ∃ t wit, exec (.millChainStart c) s = .next t ∧ left t true 0 ∧ WritesWit c 3 s.now o.agents wit ∧ Completed t fut wit ∧
      t.mem = s.mem ∧ t.sp = s.sp ∧ t.pool = s.pool)) ∧
  (fresh → d.qd = false → ∃ (t : State) (v : Nat → State) (n : Nat) (as : List Nat), exec (.millChainStart c) s = .next t ∧ v 0 = s0 ∧ n ≤ d.count ∧
    as.length = n ∧ (∀ i a, as[i]? = some a → StreamsTo d c j.user i (v i) (v (i + 1)) a ∧ a < 0x800) ∧
    (n < d.count → StreamStops d c j.user n (v n) (halted t) ∨ ∃ a, StreamsTo d c j.user n (v n) (v (n + 1)) a ∧ 0x800 ≤ a) ∧
    (n = d.count → (∀ x, holdsBytes x → t.byte x = (v n).byte x) ∧ (t.team c).millHalt = 0 ∧ ∃ o, OpenAt s (· ∈ as) o ∧
      (t.team c).mill = { j with shut := some o, begun := true } :: rest)) ∧
  (fresh → d.qd = true → d.count * d.dty.width ≤ 2048 → (y.aq.get {} d.dst).ents.length < 16 → y.aqWait.get [] d.dst = [] →
    ∃ (t : State) (v : Nat → State) (n : Nat) (r : Nat → Nat), exec (.millChainStart c) s = .next t ∧ v 0 = s0 ∧ n ≤ d.count ∧
      (∀ i < n, Unpacks d c j.user i (v i) (v (i + 1)) (r i)) ∧ (n < d.count → StreamStops d c j.user n (v n) (halted t)) ∧
      (n = d.count → left t true 0 ∧ Completed t fut 0 ∧ ∃ e, e.1.length = 32 ∧
        (t.team c).aq.get {} d.dst = { y.aq.get {} d.dst with ents := (y.aq.get {} d.dst).ents ++ [e], pushes := ((y.aq.get {} d.dst).pushes + 1) % 2 ^ 64 } ∧
        ∀ i < 2048 / d.dty.width, getE (e.1.getD (i / (64 / d.dty.width)) 0) d.dty.width (i % (64 / d.dty.width)) = if i < d.count then r i else 0))


namespace Sys2Proof.Claims

-- Handles

/-- The work of a handle's value goes on: the entry that it names still has its generation and is incomplete, on its core or in a saved team
(R344, R357). -/
def workOpen (s : State) (v : Word) : Prop :=
  let c := v.toNat / 2 ^ 48 % 2 ^ 12
  let e := v.toNat / 2 ^ 28 % 2 ^ 9
  let on := fun (y : FutSt) => y.busy = true ∧ y.gen % 2 ^ 28 = v.toNat % 2 ^ 28 ∧ y.result = none
  on (s.futEnt c e) ∨ ∃ x ∈ s.saved, x.core = c ∧ on (x.img.fut.get {} (futKey c e))

/-- Registers pending on an entry have received a witness, and stopped being pending; no other register has changed (R345). -/
def Received (f : FutRef) (v : Word) (m : Mark) (vals vals' : Tab Word) (marks marks' : Tab Mark) : Prop :=
  ∀ k, if (marks.get {} k).fut = some f then vals'.get 0 k = v ∧ marks'.get {} k = m
    else vals'.get 0 k = vals.get 0 k ∧ marks'.get {} k = marks.get {} k

/-- No key stands twice in a table of marks. -/
def Apart (s : State) : Prop := (s.marks.map (·.1)).Nodup ∧ (s.umarks.map (·.1)).Nodup ∧
  ∀ x ∈ s.saved, (x.img.marks.map (·.1)).Nodup ∧ (x.img.umarks.map (·.1)).Nodup

/-- From s to t the work of f is over for its registers, in live and saved state alike, and its entry is free with the next generation. -/
def Resolved (s t : State) (f : FutRef) (v : Word) (m : Mark) : Prop :=
  Received f v m s.pool t.pool s.marks t.marks ∧ Received f v m s.ureg t.ureg s.umarks t.umarks ∧ t.saved.length = s.saved.length ∧
  (∀ (i : Nat) (x y : Saved), s.saved[i]? = some x → t.saved[i]? = some y → Received f v m x.img.pool y.img.pool x.img.marks y.img.marks ∧
    Received f v m x.img.ureg y.img.ureg x.img.umarks y.img.umarks) ∧
  t.fut = s.fut.set (futKey f.core f.ent)
    { gen := max ((s.futEnt f.core f.ent).gen + 1) (s.futEnt f.core f.ent).top, busy := false, copy := false, started := false, result := none }

end Sys2Proof.Claims

/-- R346, R357-R360: `fwait` gives a completed foreign handle's frontier, waits while its work goes on, copies any other witness and faults on
what is none; `ftst` never blocks; `fmov` copies a handle with its pendency; `fst` stores a value and `fld` asks for one, which is pending
again where it is the lane's own live handle. -/
def Sys2Proof.Claims.Handle_words : Prop := ∀ (s : State) (f : Eng) (l : Nat),
  let (c, w) := (s.cur.core, s.cur.slot)
  let v := s.opnd c w l .wt f.a
  let a := (s.op64 c w l f.a).toNat
  (s.Alone (.fwait f) l →
    (¬Witness s (s.team c).ctx v → Traps s s (.fwait f) l 0x10 0 v.toNat) ∧
    (Witness s (s.team c).ctx v → (wKind v = 0xE → workOpen s v → Retries s (.fwait f) l s) ∧
      (¬(wKind v = 0xE ∧ workOpen s v) → ∃ t, exec (.fwait f) s = .next t ∧
        Leaves s l f.d (if wKind v = 0xE then frontier 7 s.now else v) s t))) ∧
  (s.Alone (.ftst f) l → ∃ t, exec (.ftst f) s = .next t ∧ LanesOnly c w [l] [l] [256 + f.d.toNat % 8] false s t ∧
    (f.d.toNat % 8 ≠ 7 → ((t.lane c w l).preds.getLsbD (f.d.toNat % 8) = true ↔
      (∀ r ∈ dsts f.a 1, (s.mark c w l r).fut = none) ∧ ¬(wKind v = 0xE ∧ workOpen s v)))) ∧
  (s.Alone (.fmov f) l → ∃ t, exec (.fmov f) s = .next t ∧ Leaves s l f.d v s t ∧
    ∀ r ∈ dsts f.d 1, (∀ q ∈ dsts f.a 1, (t.mark c w l r).fut = (s.mark c w l q).fut) ∧ (dsts f.a 1 = [] → (t.mark c w l r).fut = none)) ∧
  (s.Alone (.fst f) l → ∀ u, (∀ k, placeOf s l .g .st a 8 = (u, .error k) → Traps s u (.fst f) l k a 0) ∧
    ∀ y leaf, placeOf s l .g .st a 8 = (u, .ok (y, leaf)) → asked y → ∃ t, exec (.fst f) s = .next t ∧
      Sends s t u l (dsts f.d 1) (requestOf s u l y leaf (.store (bytesOf s l .wt f.b) f.sc) f.d)) ∧
  (s.Alone (.fld f) l → ∀ u, (∀ k, placeOf s l .g (.ld 8) a 8 = (u, .error k) → Traps s u (.fld f) l k a 0) ∧
    ∀ y leaf, placeOf s l .g (.ld 8) a 8 = (u, .ok (y, leaf)) → asked y → ∃ t, exec (.fld f) s = .next t ∧
      (u.l1Hit c w l leaf y 8 = none → Sends s t u l (dsts f.d 1) (requestOf s u l y leaf .fld f.d)) ∧
      ∀ bs bad, u.l1Hit c w l leaf y 8 = some (bs, bad) → Waits c w l (dsts f.d 1) u.seq u t ∧
        t.replies.find? (u.seq + 1) = some { loadReply s u l (loadedRegs (dsts f.d 1).head? .wt bs bad) with kind := 3 }) ∧
  (∀ k r, Ready s k r → r.op = .fld → ∀ d, r.dst = some d → ∃ t, exec (performStep s k r) s = .next t ∧
    t = { s with
      reqs := s.reqs.erase k, seq := s.seq + 1, lanes := s.wake.lanes, l1 := t.l1
      replies := s.replies.set s.seq { replyOf r k [(d, BitVec.ofNat 64 (leNat (s.bytes (s.place r.loc) 8)), { bad := s.bad (s.place r.loc) })] with load := true, kind := 3 } }) ∧
  ∀ (k d : Nat) (x : Word) (r : Machine.Reply), s.replies.find? k = some r → r.kind = 3 → r.join = none → r.regs = [(d, x, {})] → d < 192 →
    residentTeam s r.who.core r.team → s.saved = [] → (s.lane r.who.core r.who.slot r.who.lane).live = true →
    (s.mark r.who.core r.who.slot r.who.lane d).pend = r.id + 1 →
    let who := r.who
    let f : FutRef := { core := x.toNat / 2 ^ 48 % 2 ^ 12, ent := x.toNat / 2 ^ 28 % 2 ^ 9, gen := x.toNat % 2 ^ 28 }
    let own := wKind x = 0xE ∧ f.core = who.core ∧ x.toNat / 2 ^ 42 % 2 ^ 6 = who.slot ∧ x.toNat / 2 ^ 37 % 2 ^ 5 = who.lane ∧ Holds s f
    ∃ t, exec (.registerWriteback who.core k) s = .next t ∧ t.reg who.core who.slot who.lane d = x ∧
      (own → t.mark who.core who.slot who.lane d = { fut := some { f with gen := (s.futEnt f.core f.ent).gen } }) ∧ (¬own → t.mark who.core who.slot who.lane d = {})

/-- R345, R359: complete work gives every register pending on it the witness, in live and saved state alike, with the fault that its first
reader takes, and frees its entry. `fcan` of work that waits in its queue removes it, with the null witness; other work goes on.
The scope of the frontier is the model's reading: log entry 53. -/
def Sys2Proof.Claims.Handles_end : Prop := ∀ (s : State), Apart s →
  (∀ (c e : Nat) (v : Word) (fault aux : Nat), (s.futEnt c e).busy = true → (s.futEnt c e).result = some (v, fault, aux) →
    ∃ t, exec (.futureResolve c e) s = .next t ∧ t.mem = s.mem ∧ t.sp = s.sp ∧
      Resolved s t { core := c, ent := e, gen := (s.futEnt c e).gen } v { fault := fault, aux := aux }) ∧
  (∀ (c e : Nat), (s.futEnt c e).result = none → s.saved = [] → exec (.futureResolve c e) s = .next s) ∧
  ∀ (f : Eng) (l : Nat), s.Alone (.fcan f) l →
    let (c, w) := (s.cur.core, s.cur.slot)
    let gave := fun (t : State) (b : Bool) => (f.d.toNat % 8 ≠ 7 → (t.lane c w l).preds.getLsbD (f.d.toNat % 8) = b) ∧
      (t.lane c w l).pc = (s.lane c w l).next.pc
    ((∀ r ∈ dsts f.a 1, (s.mark c w l r).fut = none) → ∃ t, exec (.fcan f) s = .next t ∧ gave t false ∧
      LanesOnly c w [l] [l] [256 + f.d.toNat % 8] false s t) ∧
    ∀ r ∈ dsts f.a 1, ∀ x, (s.mark c w l r).fut = some x → Holds s x →
      let y := s.futEnt x.core x.ent
      (y.started = true ∨ y.result ≠ none → ∃ t, exec (.fcan f) s = .next t ∧ gave t false ∧
        LanesOnly c w [l] [l] [256 + f.d.toNat % 8] false s t) ∧
      (y.started = false → y.result = none → (∀ k, ∀ o ∈ s.mx.get [] k, ∀ d p ao z ls, o.k ≠ .vxm d p ao z ls) → ∃ t, exec (.fcan f) s = .next t ∧
        gave t true ∧ Resolved s t x 0 {} ∧ t.mem = s.mem ∧ t.sp = s.sp ∧
        (∀ q, t.cq.get [] q = (s.cq.get [] q).filter fun j => j.fut != some x) ∧
        (∀ q, (t.iu.get [] q).flatMap (fun j => j.lanes.map (·.fut)) = ((s.iu.get [] q).flatMap fun j => j.lanes.map (·.fut)).filter (· != x)) ∧
        ∀ j ∈ (s.team x.core).mill, j.fence = none → (j ∈ (t.team x.core).mill ↔ j.fut ≠ some x))

/-- R353: `qtail` waits for its lane's writes, refuses chains that are not the context's and TAILs that fall or leap, and else writes TAIL,
whose entries wait for the fence of the lane's writes. -/
def Sys2Proof.Claims.Queue_tail : Prop := ∀ (s : State) (f : Eng) (m : Nat),
  let (c, w) := (s.cur.core, s.cur.slot)
  let ms := s.lanesM (.qtail f)
  let k := (s.op64 c w m f.a).toNat
  let b := (s.op64 c w m f.b).toNat
  let x := s.chains.get {} k
  let sc := f.sc.code.toNat
  Whole s (.qtail f) → ms.head? = some m → (∀ l ∈ ms, s.op64 c w l f.a = s.op64 c w m f.a ∧ s.op64 c w l f.b = s.op64 c w m f.b) →
  (256 ≤ k ∨ x.ctl.toNat % 2 ^ 12 ≠ (s.team c).ctx → exec (.qtail f) s = .next (s.trapAll ms 0x0C 0)) ∧
  (k < 256 → x.ctl.toNat % 2 ^ 12 = (s.team c).ctx →
    (s.stamped c w m = false → ∃ t, exec (.qtail f) s = .next t ∧ AllRetry s s t (.qtail f)) ∧
    ∀ wit, s.stamped c w m = true → s.fenceWit c w m sc = some wit →
      (b < x.tail ∨ x.tail + 2 ^ 20 < b → exec (.qtail f) s = .next (s.trapAll ms 0x05 0)) ∧
      (x.tail ≤ b → b ≤ x.tail + 2 ^ 20 → ∃ t, exec (.qtail f) s = .next t ∧
        AllLeave s (.qtail f) f.d (frontier 7 s.now) { s with chains := s.chains.set k { x with tail := b, gates := x.gates ++ [(b, wit, c)] } } t))


namespace Sys2Proof.Claims

-- Command chains

/-- From s to t data have been written at places, one after another, and no other byte has changed. -/
def Stored (s t : State) (ws : List (Loc × List Byte)) : Prop :=
  ∃ v : Nat → State, (∀ i y, writable (v i) y ↔ writable s y) ∧ (s.mons = [] → ∀ i, (v i).mons = []) ∧ (∀ y, holdsBytes y → (v 0).byte y = s.byte y ∧ t.byte y = (v ws.length).byte y) ∧
    ∀ i x, ws[i]? = some x → Wrote (v i) (v (i + 1)) x.1 x.2

/-- The places of the dwords at an address, in a context, as an engine of the package finds them, stand here and hold bytes. -/
def DwordsAt (s : State) (ctx a n : Nat) (acc : Acc) (u : State) (xs : List (Loc × Word × Nat)) : Prop :=
  s.placeAll none ctx true acc ((List.range n).map fun j => (a + 8 * j, 8)) = (u, .ok xs) ∧
    ∀ x ∈ xs, rowHere u ctx x.1 ∧ ∀ i < 8, holdsBytes ((u.place x.1).add i)

/-- A message of chain x has set out from u (R343), where its address is an IMSIC page's and its identity one that the AIA defines. -/
def Told (x : Chain) (id : Nat) (u t : State) : Prop :=
  (∀ p < 32, x.msia = 0xF80040000000 + 4096 * p → 1 ≤ id → id < 2048 → t.imsg = u.imsg.set u.seq (p, id) ∧ t.seq = u.seq + 1) ∧
  ((∀ p < 32, x.msia ≠ 0xF80040000000 + 4096 * p) ∨ id = 0 ∨ 2048 ≤ id → t.imsg = u.imsg ∧ t.seq = u.seq)

/-- Chain k, and no other, has become y. -/
def OnlyChain (s t : State) (k : Nat) (y : Chain) : Prop := t.chains.get {} k = y ∧ ∀ j, j ≠ k → t.chains.get {} j = s.chains.get {} j

/-- Nobody waits behind chain k at a package semaphore. -/
def NoneBehind (k : Nat) (u : State) : Prop := (u.psems.map (·.1)).Nodup ∧
  ∀ j, (∃ y ∈ (u.psems.get {} j).wait, y.who = .chain k) → ∀ y ∈ (u.psems.get {} j).wait, y.who = .chain k

/-- From u to v chain k has left every waiting list, and the requests that it held up have been served in their order (R267). -/
def Unwaits (k : Nat) (u v : State) : Prop := ∀ j, ∃ served,
  let q := u.psems.get {} j
  let q' := v.psems.get {} j
  q.wait.filter (fun y => y.who != .chain k) = served ++ q'.wait ∧ q'.w = q.w ∧ q'.v + ((served.filter (·.take)).map (·.thr)).sum = q.v ∧
    ((∃ y ∈ q.wait, y.who = .chain k) → ∀ y, q'.wait.head? = some y → q'.v < y.thr) ∧
    ((u.psems.map (·.1)).Nodup → (∀ y ∈ q.wait, y.who ≠ .chain k) → served = [])

/-- From u to t chain k has stopped at entry q (R342): in v CTL's stopped bit is set, DONE stays, and the chain waits at no semaphore; then
the record stands at ERRA where that can be stored, and the error message goes out once the record has closed. An entry that has set DONE
goes on. -/
def Stopped (k q cause op entry fa : Nat) (u t : State) : Prop :=
  let x := u.chains.get {} k
  let ctx := x.ctl.toNat % 2 ^ 12
  let id := x.msid.toNat / 2 ^ 16 % 2 ^ 11
  let y : Chain := if x.seqAt.isSome then { x with ctl := x.ctl ||| BitVec.ofNat 64 (2 ^ 62) }
    else { x with ctl := x.ctl ||| BitVec.ofNat 64 (2 ^ 62), cur := none, curDone := false, waiting := false, got := false, shut := {} }
  ∃ v : State, Unwaits k u v ∧ v.chains.get {} k = y ∧
    (NoneBehind k u → v = { u with chains := v.chains, psems := v.psems } ∧ OnlyChain u v k y) ∧
    (∀ w xs, DwordsAt v ctx x.erra 4 .rawWrite w xs → t.psems = v.psems ∧
      Stored w t ((xs.map fun y => w.place y.1).zip ([q, op * 256 + cause, entry, fa].map (leBytes 8))) ∧
      ∃ o, OpenAt u (fun a => ∃ z ∈ xs, a = (w.place z.1).agent) o ∧ (¬Shut u o → OnlyChain v t k { y with errAt := some o } ∧ t.imsg = v.imsg) ∧
        (Shut u o → OnlyChain v t k { y with errAt := none } ∧ Told x id v t)) ∧
    ∀ w e, v.placeAll none ctx true .rawWrite ((List.range 4).map fun j => (x.erra + 8 * j, 8)) = (w, .error e) →
      OnlyChain v t k { y with errAt := none } ∧ t.psems = v.psems ∧ Told x id v t ∧ t.mem = w.mem ∧ t.sp = w.sp ∧ t.pool = w.pool

/-- The tests of an entry before it is performed, in their order, with the causes (R342): its operation, length and place, LINK's place, its
class, its fields, and the semaphores that it names. -/
def entryTests (s : State) (x : Chain) (ws : List Word) : List (Bool × Nat) :=
  let b := dwordBits ws
  let d := fun (j : Nat) => (ws.getD j 0).toNat
  let op := b 0 63 56
  let n := if op = 8 then 3 else 1
  let free := fun (a : Nat) => (List.range (8 - a)).all fun j => d (a + j) == 0
  let owned := fun (j : Nat) => s.psemOwner.find? j == some (x.ctl.toNat % 2 ^ 12)
  let fields : Bool := b 0 49 32 == 0 && b 0 17 0 == 0 && match op with
    | 0 => free 1
    | 1 => free 4 && decide (1 ≤ d 3) && decide (d 3 ≤ 2 ^ 30)
    | 2 => free 4 && d 1 % 8 == 0 && d 3 % 8 == 0
    | 3 => free 4 && b 3 63 37 == 0 && decide (b 3 31 0 ≤ 2 ^ 20) && d 2 % 8 == 0 &&
        (match Ty.ofCode (b 3 36 32) with | some t => t.isM && d 1 % t.bytes == 0 | none => false)
    | 4 => free 3 && decide (d 1 < 4096) && decide (d 2 ≤ 2 ^ 32)
    | 5 => free 3 && decide (d 1 < 4096)
    | 6 => free 3 && decide (d 1 < 256)
    | 8 => free 1
    | _ => free 2
  [(!([0, 1, 2, 3, 4, 5, 6, 8, 15].contains op), 1), (b 0 55 52 != n, 2), (decide (64 < x.unit + n), 3),
   (op == 15 && (x.unit != 63 || d 1 % 4096 != 0), 4),
   (decide (b 0 51 50 < max (x.ctl.toNat / 2 ^ 48 % 4) (s.ctxs.get {} (x.ctl.toNat % 2 ^ 12)).cmin), 7), (!fields, 8),
   ((op == 4 || op == 5) && !owned (d 1), 6), (b 0 19 19 == 1 && !owned (b 0 31 20), 6)]

/-- The chain's next entry may start (R341): it is enabled, TAIL has reached the entry, and the witness of the write that raised TAIL so far
is satisfied; no chain of its engine that comes first may start one. -/
def mayStart (s : State) (k : Nat) : Prop :=
  let ready := fun (j : Nat) => let x := s.chains.get {} j
    x.ctl.getLsbD 63 = true ∧ x.ctl.getLsbD 62 = false ∧ x.cur = none ∧ x.done + 1 ≤ x.tail ∧
      ∀ g, x.gates.find? (fun y => decide (x.done + 1 ≤ y.1)) = some g → s.satisfied g.2.1 g.2.2 = true
  k < 256 ∧ ready k ∧ ∀ j ∈ s.chains.map (·.1), j < 256 → j % 16 = k % 16 →
    (j + 255 - s.rr.get 255 (k % 16)) % 256 < (k + 255 - s.rr.get 255 (k % 16)) % 256 → ¬ready j

/-- Entry `ws` of operation op is in progress on chain k and not yet performed. -/
def InProgress (s : State) (k op : Nat) (ws : List Word) : Prop :=
  k < 256 ∧ (∃ a, (s.chains.get {} k).cur = some (ws, a)) ∧ (s.chains.get {} k).curDone = false ∧ dwordBits ws 0 63 56 = op ∧
    (s.chains.get {} k).ctl.getLsbD 62 = false

/-- From u the entry of chain k is performed, with its witness and the writes of o; waiting lanes look again, and memory is as u has it. -/
def EntryDone (k : Nat) (wit : Word) (o : Opened) (u t : State) : Prop :=
  t = { u with chains := t.chains, lanes := u.wake.lanes } ∧ OnlyChain u t k { u.chains.get {} k with curDone := true, wit := wit, shut := o }

/-- The entry of chain k fails from u: it stops its chain with a cause and the faulting address. -/
def EntryFails (k cause fa : Nat) (ws : List Word) (u t : State) : Prop :=
  ∀ a, (u.chains.get {} k).cur = some (ws, a) → Stopped k ((u.chains.get {} k).done + 1) cause (dwordBits ws 0 63 56) a fa u t

end Sys2Proof.Claims

/-- R340, R341: the service OS enables a chain, whose entries are numbered anew, or disables it; TAIL written by the host opens entries without
a wait. -/
def Sys2Proof.Claims.Chain_control : Prop := ∀ (s : State) (k : Nat) (w : Word), k < 256 →
  let x := s.chains.get {} k
  let on := x.ctl.getLsbD 63 = true ∧ x.ctl.getLsbD 62 = false
  let clean : Chain := { x with ctl := w &&& BitVec.ofNat 64 (2 ^ 63 + 3 * 2 ^ 48 + 0xFFF), cur := none, curDone := false, waiting := false, got := false, shut := {}, seqAt := none, gates := [], prior := 0, wit := 0 }
  let only := fun (t : State) (y : Chain) => Unwaits k s t ∧ t.chains.get {} k = y ∧
    (NoneBehind k s → t = { s with chains := t.chains, psems := t.psems, lanes := s.wake.lanes } ∧ OnlyChain s t k y)
  (w.getLsbD 63 = false → ∃ t, exec (.chainEnable k w) s = .next t ∧ only t clean) ∧
  (w.getLsbD 63 = true → ¬on → ∃ t, exec (.chainEnable k w) s = .next t ∧ only t { clean with tail := 0, done := 0, unit := 0 }) ∧
  (w.getLsbD 63 = true → on → exec (.chainEnable k w) s = .next s) ∧
  ∃ t, exec (.chainTailWrite k w) s = .next t ∧ t = { s with chains := t.chains, lanes := s.wake.lanes } ∧
    OnlyChain s t k { x with tail := w.toNat, gates := x.gates ++ [(w.toNat, 0, 0)] }

/-- R338, R341, R342: an engine starts the next entry of a chain when it may, chains of one engine in turn: the entry that passes its tests is
in progress, and one that fails a test stops its chain with the cause of the first.
The order of the tests is the model's choice: log entry 30. -/
def Sys2Proof.Claims.Chain_starts : Prop := ∀ (s : State) (k : Nat),
  let x := s.chains.get {} k
  let ctx := x.ctl.toNat % 2 ^ 12
  let a := x.seg + 64 * x.unit
  let begun := fun (ws : List Word) (y : Chain) => y = { x with cur := some (ws, a), curDone := false, wit := 0, shut := {}, waiting := false, got := false, gates := x.gates.filter fun g => decide (x.done + 1 ≤ g.1) }
  (¬mayStart s k → exec (.queueEntryStart (.chain k)) s = .next s.wake) ∧
  (mayStart s k → s.mons = [] → s.pal = [] → s.wf →
    ∃ nv : Tab Nat, (∀ i, i ≠ 0x0A22 → nv.get 0 i = s.nv.get 0 i) ∧
    let s1 := { s with rr := s.rr.set (k % 16) k, nv := nv }
    (64 ≤ x.unit → ∃ t, exec (.queueEntryStart (.chain k)) s = .next t ∧ Stopped k (x.done + 1) 3 0 a 0 s1 t) ∧
    ∀ u xs, x.unit < 64 → DwordsAt s1 ctx a 8 (.ld 8) u xs →
      let ws := xs.map fun y => BitVec.ofNat 64 (leNat (u.bytes (u.place y.1) 8))
      let op := dwordBits ws 0 63 56
      (∀ c, ((entryTests u x ws).find? (·.1)).map (·.2) = some c →
        ∃ t, exec (.queueEntryStart (.chain k)) s = .next t ∧ Stopped k (x.done + 1) c op a 0 u t) ∧
      ((entryTests u x ws).find? (·.1) = none → (op ≠ 8 → ∃ t, exec (.queueEntryStart (.chain k)) s = .next t ∧
          t = { u with chains := t.chains, lanes := u.wake.lanes } ∧ ∃ y, OnlyChain u t k y ∧ begun ws y) ∧
        ∀ u' ys, op = 8 → DwordsAt u ctx (a + 64) 16 (.ld 8) u' ys → ∃ t, exec (.queueEntryStart (.chain k)) s = .next t ∧
          t = { u' with chains := t.chains, lanes := u'.wake.lanes } ∧ ∃ y, OnlyChain u t k y ∧
            begun (ws ++ ys.map fun y => BitVec.ofNat 64 (leNat (u'.bytes (u'.place y.1) 8))) y))

/-- R339: what the entries do. NOP and LINK do nothing; COPY and GATHER copy, and FILL stores its pattern; SEMINC raises its semaphore with the
witness of every earlier entry; SEMWAIT waits at its semaphore and WAITSEQ for the other chain's DONE. A place that is refused stops the chain. -/
def Obligations.Chain_entries : Prop := ∀ (s : State) (k : Nat) (ws : List Word), s.wf →
  let x := s.chains.get {} k
  let ctx := x.ctl.toNat % 2 ^ 12
  let d := fun (j : Nat) => (ws.getD j 0).toNat
  let cause := fun (f : Nat) => if f = 0x0B then 5 else 6
  let wrote := fun (u : State) (ms : List CopyMove) => (∀ m ∈ ms, rowHere u ctx m.dst ∧ (∀ i < m.n, holdsBytes ((u.place m.dst).add i)) ∧
    (m.src.map (·.2.2)).sum = m.n ∧ ∀ y ∈ m.src, rowHere u ctx y.1) ∧ ms ≠ [] ∧ s.mons = [] ∧ s.pal = [] ∧ s.saved = []
  let copies := fun (i : Instr) (v : State) (src : Nat → Nat) (n : Nat) =>
    (∀ u f a, v.movesFrom none ctx true (fun _ => true) (d 1) src (granules n (d 1) 0 n) = (u, .error (f, a)) →
      ∃ t, exec i s = .next t ∧ EntryFails k (cause f) a ws u t) ∧
    ∀ u ms, v.movesFrom none ctx true (fun _ => true) (d 1) src (granules n (d 1) 0 n) = (u, .ok ms) → wrote u ms →
      ∃ t v' o, exec i s = .next t ∧ Moved u v' ms ∧ OpenAt s (fun a => ∃ m ∈ ms, a = (u.place m.dst).agent) o ∧ EntryDone k 0 o v' t
  (∀ i ∈ [(Instr.chainNop k, 0), (.chainLink k, 15)], InProgress s k i.2 ws → ∃ t, exec i.1 s = .next t ∧ EntryDone k 0 {} s t) ∧
  (InProgress s k 1 ws → copies (.chainCopy k) s (fun o => d 2 + o) (d 3)) ∧
  (InProgress s k 2 ws → ∀ u,
    (∀ f a, s.placeAll none ctx true .rawWrite ((List.range (d 3 / 8)).map fun j => (d 1 + 8 * j, 8)) = (u, .error (f, a)) →
      ∃ t, exec (.chainFill k) s = .next t ∧ EntryFails k (cause f) a ws u t) ∧
    ∀ xs, DwordsAt s ctx (d 1) (d 3 / 8) .rawWrite u xs → xs ≠ [] → s.mons = [] → s.pal = [] → s.saved = [] →
      ∃ t v o, exec (.chainFill k) s = .next t ∧ Stored u v (xs.map fun y => (u.place y.1, leBytes 8 (d 2))) ∧
        OpenAt s (fun a => ∃ y ∈ xs, a = (u.place y.1).agent) o ∧ EntryDone k 0 o v t) ∧
  (InProgress s k 3 ws → ∀ n g, n = d 3 % 2 ^ 32 → (Ty.ofCode (d 3 / 2 ^ 32 % 2 ^ 5)).map (·.bytes) = some g →
    ∀ u xs, DwordsAt s ctx (d 2) n .rawRead u xs →
      let entry := fun (j : Nat) => leNat ((xs.map fun y => u.bytes (u.place y.1) 8).getD j [])
      (∀ j < n, entry j % g ≠ 0 → (∀ i < j, entry i % g = 0) → ∃ t, exec (.chainGather k) s = .next t ∧ EntryFails k 8 (entry j) ws u t) ∧
      ((∀ j < n, entry j % g = 0) → copies (.chainGather k) u (fun o => entry (o / g) + o % g) (n * g))) ∧
  (InProgress s k 4 ws → d 1 < 4096 → (s.psems.get {} (d 1)).wait = [] → HoldsWit (s.psems.get {} (d 1)).w → HoldsWit x.prior →
    ∃ t u r o, exec (.chainSeminc k) s = .next t ∧ OnlySem { s with nv := u.nv } u (.pkg (d 1)) { v := min ((s.psems.get {} (d 1)).v + d 2) (2 ^ 64 - 1), w := r, wait := [] } ∧
      MergedInto s (.pkg (d 1)) (s.psems.get {} (d 1)).w x.prior r ∧ OpenAt s (· = 0x800) o ∧ EntryDone k 0 o u t) ∧
  (InProgress s k 5 ws → x.waiting = false → (s.psems.get {} (d 1)).wait = [] →
    let q := s.psems.get {} (d 1)
    ∃ t, exec (.chainSemwait k) s = .next t ∧ t.mem = s.mem ∧ t.sp = s.sp ∧ t.pool = s.pool ∧
      (d 2 ≤ q.v → t.psems.get {} (d 1) = q ∧ OnlyChain s t k { x with waiting := true, got := true, wit := q.w }) ∧
      (q.v < d 2 → t.psems.get {} (d 1) = { q with wait := [{ who := .chain k, thr := d 2, take := false, since := s.now }] } ∧
        OnlyChain s t k { x with waiting := true })) ∧
  (InProgress s k 6 ws → ∃ t, exec (.chainWaitseq k) s = .next t ∧ t = { s with chains := t.chains } ∧ OnlyChain s t k { x with waiting := true }) ∧
  (InProgress s k 5 ws → x.waiting = true →
    (x.got = true → s.satisfied x.wit 0 = true → ∃ t, exec (.chainWaitMet k) s = .next t ∧ EntryDone k x.wit {} { s with nv := t.nv } t) ∧
    (x.got = false ∨ s.satisfied x.wit 0 = false → exec (.chainWaitMet k) s = .next s)) ∧
  (InProgress s k 6 ws → x.waiting = true →
    (d 2 ≤ (s.chains.get {} (d 1)).done → ∃ t, exec (.chainWaitMet k) s = .next t ∧ EntryDone k 0 {} s t) ∧
    ((s.chains.get {} (d 1)).done < d 2 → exec (.chainWaitMet k) s = .next s))

/-- R224, R338, R339, R341-R343: a performed entry completes once its writes have closed: DONE rises by one and the engine stores it at SEQA;
once that store has closed too, the entry's semaphore rises, its message goes out, and the chain goes on behind the entry, or at LINK's
segment. The message of an error waits likewise for its record. -/
def Sys2Proof.Claims.Chain_completes : Prop := ∀ (s : State) (k a : Nat) (ws : List Word),
  let x := s.chains.get {} k
  let b := dwordBits ws 0
  let op := b 63 56
  let ctx := x.ctl.toNat % 2 ^ 12
  let run := exec (.chainEntryComplete k) s
  -- the entry ends, from u, where its chain stands as z
  let ends := fun (u : State) (z : Chain) (t : State) =>
    OnlyChain u t k { z with
      cur := none, curDone := false, waiting := false, got := false, shut := {}, seqAt := none
      seg := if op = 15 then (ws.getD 1 0).toNat else z.seg, unit := if op = 15 then 0 else z.unit + (if op = 8 then 3 else 1) } ∧
    t.ureg = s.ureg ∧ t.mem = u.mem ∧ t.sp = u.sp ∧ t.pool = u.pool ∧
    (if b 18 18 = 1 then Told x (x.msid.toNat % 2 ^ 11) u t else t.imsg = u.imsg) ∧
    (∀ j, ¬(b 19 19 = 1 ∧ j = b 31 20) → t.psems.get {} j = s.psems.get {} j) ∧
    (b 19 19 = 1 → ∃ r, t.psems.get {} (b 31 20) = { v := min ((s.psems.get {} (b 31 20)).v + 1) (2 ^ 64 - 1), w := r, wait := [] } ∧
      MergedInto s (.pkg (b 31 20)) (s.psems.get {} (b 31 20)).w z.wit r)
  k < 256 → (∀ o, x.errAt = some o → x.seqAt = none → o.links = [] → (¬Shut s o → run = .next s) ∧
    (Shut s o → ∃ t, run = .next t ∧ OnlyChain s t k { x with errAt := none } ∧ Told x (x.msid.toNat / 2 ^ 16 % 2 ^ 11) s t)) ∧
  (x.errAt = none → x.cur = some (ws, a) → HoldsWit x.wit →
    (b 19 19 = 1 → (s.psems.get {} (b 31 20)).wait = [] ∧ HoldsWit (s.psems.get {} (b 31 20)).w) →
    (∀ o, x.seqAt = some o → o.links = [] → (¬Shut s o → run = .next s) ∧ (Shut s o → ∃ t, run = .next t ∧ ends s x t)) ∧
    (x.seqAt = none → x.curDone = false → run = .next s) ∧
    (x.seqAt = none → x.curDone = true → x.shut.links = [] → (¬Shut s x.shut → run = .next s) ∧
      (Shut s x.shut → s.mons = [] → s.pal = [] → s.wf → s.saved = [] →
        let wit := if x.shut.agents = [] then x.wit else frontier 7 s.now
        let z : Chain := { x with done := x.done + 1, wit := wit, prior := (s.merge 0 x.prior wit).getD x.prior }
        (x.seqa = 0 → ∃ t, run = .next t ∧ ends s z t) ∧
        ∀ u xs, x.seqa ≠ 0 → DwordsAt { s with chains := s.chains.set k z } ctx x.seqa 1 .rawWrite u xs → ∃ t o, run = .next t ∧
          Stored u t (xs.map fun y => (u.place y.1, leBytes 8 (x.done + 1))) ∧ OpenAt s (fun a => ∃ y ∈ xs, a = (u.place y.1).agent) o ∧
          (¬Shut s o → OnlyChain s t k { z with seqAt := some o } ∧ t.imsg = s.imsg ∧ t.psems = s.psems ∧ t.ureg = s.ureg))))


namespace Sys2Proof.Claims

-- The graph scheduler

/-- A well-formed node descriptor (R329, with the limits of R35). -/
def NodeForm (ds : List Word) : Prop :=
  let b := dwordBits ds
  ds.length = 16 ∧ b 0 63 62 ≠ 3 ∧ b 0 57 48 = 0 ∧ b 0 31 16 = 0 ∧ b 0 15 0 ≠ 0xFFFF ∧ b 2 63 52 = 0 ∧ b 8 63 52 = 0 ∧ b 10 63 52 = 0 ∧
  b 10 5 0 = 0 ∧ b 9 63 13 = 0 ∧ b 11 63 4 = 0 ∧ b 11 3 0 ≤ 8 ∧ (∀ j < 4, b (12 + j) 63 0 = 0) ∧
  if b 0 63 62 = 0 then b 3 63 40 = 0 ∧ b 3 31 31 = 0 ∧ b 3 2 0 ≤ 6 ∧ b 3 5 3 ≤ 4 ∧ b 3 8 6 ≤ 4 ∧ b 3 11 9 ≤ 3 ∧ b 3 8 6 ≤ b 3 2 0 ∧ b 3 11 9 ≤ b 3 5 3 ∧
    1 ≤ b 3 17 12 ∧ b 3 17 12 ≤ 47 ∧ 1 ≤ b 3 25 18 ∧ b 3 25 18 ≤ 128 ∧ b 3 30 26 ≤ 16 ∧ b 3 17 12 * (b 3 25 18 + 16 * b 3 30 26) ≤ 2048
  else b 3 63 40 = 0 ∧ b 3 31 0 = 0

/-- A launch of w × h cores in gangs of height gh fits with its first core at (x, y) (R305, R306). -/
def Fits (s : State) (w h gh x y : Nat) : Prop :=
  x % w = 0 ∧ y % h = 0 ∧ x + w ≤ 64 ∧ y + h ≤ 24 ∧ (∀ i < w, ∀ j < h, s.absent.get false (coreAt (x + i) (y + j)) = false) ∧
    ∀ g < h / gh, (y + g * gh) / 12 = (y + g * gh + gh - 1) / 12

/-- A submission is refused with cause 9 (R331, R407), before the node's tile operands are read. -/
def Refused (s : State) (ctx : Nat) (ds : List Word) : Prop :=
  let b := dwordBits ds
  let key := ctx * 65536 + b 0 15 0
  ¬NodeForm ds ∨ (s.ctxs.get {} ctx).live = false ∨ b 0 61 60 < (s.ctxs.get {} ctx).cmin ∨ (s.nodes.find? key).isSome ∨
    b 0 47 32 < s.heldDec.get 0 key ∨
    (b 0 63 62 = 0 ∧ ∀ x y, ¬Fits s (2 ^ b 3 2 0) (2 ^ b 3 5 3) (2 ^ b 3 11 9) x y) ∨
    (b 9 12 12 = 1 ∧ s.psemOwner.find? (b 9 11 0) ≠ some ctx)

/-- A started team of a node on core c, with its launch at (x, y), as R36, R308 and R408 leave it. -/
def Started (s t : State) (n : Node) (x y c : Nat) : Prop :=
  let b := dwordBits n.desc
  let k := s.ctxs.get {} n.ctx
  t.teams.find? c = some { ctx := n.ctx, nid := b 0 15 0, cls := b 0 61 60, nwarp := b 3 17 12, nreg := b 3 25 18, nacc := b 3 30 26, ox := x, oy := y
                           gw := 2 ^ b 3 8 6, gh := 2 ^ b 3 11 9, tvec := k.tvec, trbase := k.trbase, factab := k.factab, drainlim := k.drainlim
                           millGen := seedOf 0 32 } ∧
  (∀ w < b 3 17 12, (t.warp c w).bnd = b 3 25 18 ∧ (t.warp c w).barto = 100000000 ∧ (t.warp c w).wmode = 0 ∧ (t.warp c w).frozen = false ∧
    (∀ l < 32, let z := t.lane c w l
      z.live = true ∧ z.pc.toNat = b 2 51 0 ∧ z.preds = 0x80 ∧ z.handler = false ∧ z.park = .none ∧ z.lc0.active = false ∧ z.lc1.active = false ∧
        z.gen = seedOf 0 l ∧ ∀ r < b 3 25 18, t.reg c w l r = 0) ∧
    ∀ j < 64, t.reg c w 0 (128 + j) = if j < 4 then n.desc.getD (4 + j) 0 else 0) ∧
  ∀ o < 0x60000, t.byte (.sp c o) = 0

/-- Core c holds no team, and nothing that a team could read (R408); its future entries keep only generations, past every handle given (R345). -/
def Cleared (s t : State) (c : Nat) : Prop :=
  t.teams = s.teams.erase c ∧ (∀ w < 64, t.warp c w = {} ∧ ∀ l < 32, t.lane c w l = {}) ∧ (∀ k, k / 65536 = c → t.pool.get 0 k = 0) ∧
  (∀ k, k / 4096 = c → t.ureg.get 0 k = 0) ∧ (∀ o < 0x60000, t.byte (.sp c o) = 0) ∧
  (∀ d, d ≠ c → ∀ w l, w < 64 → l < 32 → (t.lane d w l).pc = (s.lane d w l).pc) ∧
  ((s.fut.map (·.1)).Nodup → ∀ e < 512, let y := s.futEnt c e
    t.futEnt c e = { gen := max (if y.busy then y.gen + 1 else y.gen) y.top, busy := false, copy := false, started := false, result := none })

/-- A saved team of core c holds what the core held in s (R337): registers, lanes less their outstanding latencies, scratchpad, futures. -/
def SavedOf (s : State) (c : Nat) (x : Saved) : Prop :=
  x.core = c ∧ x.team = { s.team c with idle := none, mapped := [] } ∧ (∀ k, k / 65536 = c → x.img.pool.get 0 k = s.pool.get 0 k ∧ x.img.marks.get {} k = s.marks.get {} k) ∧
  (∀ k, k / 4096 = c → x.img.ureg.get 0 k = s.ureg.get 0 k ∧ x.img.umarks.get {} k = s.umarks.get {} k) ∧
  (∀ k, k / 512 = c → x.img.fut.get {} k = s.fut.get {} k) ∧ (∀ o < 0x60000, x.img.sp.get (spKey c o) = s.byte (.sp c o)) ∧
  ∀ w < (s.team c).nwarp, w < 48 → x.img.warps.get {} (warpKey c w) = s.warp c w ∧
    ∀ l < 32, x.img.lanes.get {} (laneKey c w l) = { s.lane c w l with shadow := [] }

/-- A core works, and is not being cleared for another node of that class or of a more urgent one (R336, R447). -/
def openTo (s : State) (k cls c : Nat) : Prop := c ∉ s.retired ∧
  ∀ d ∈ s.drains, d.node = k ∨ c ∉ d.cores ∨ ∀ m, s.nodes.find? d.node = some m → cls < dwordBits m.desc 0 61 60

/-- A gang of one core, with nothing mapped. -/
def Single (s : State) (c : Nat) : Prop := c < 1536 ∧ (s.team c).gw = 1 ∧ (s.team c).gh = 1 ∧ (s.team c).map = [] ∧ (s.teams.find? c).isSome

end Sys2Proof.Claims

/-- R329-R332: SUBMIT refuses a malformed, forbidden or impossible node with cause 9; else the node is live with its count less the decrements
held for it, and joins the ready pool at once where that is zero. -/
def Sys2Proof.Claims.Node_submission : Prop := ∀ (s : State) (k : Nat) (ws : List Word),
  let ds := ws.drop 8
  let ctx := (s.chains.get {} k).ctl.toNat % 2 ^ 12
  let b := dwordBits ds
  let key := ctx * 65536 + b 0 15 0
  let n : Node := { ctx := ctx, nid := b 0 15 0, desc := ds, chain := k, count := b 0 47 32 - s.heldDec.get 0 key }
  s.wf → InProgress s k 8 ws → ds.length = 16 →
  (Refused s ctx ds → ∃ t, exec (.chainSubmit k) s = .next t ∧ EntryFails k 9 0 ws s t) ∧
  (¬Refused s ctx ds → b 11 3 0 = 0 → b 0 59 59 = 0 →
    (n.count ≠ 0 → ∃ t, exec (.chainSubmit k) s = .next t ∧
      EntryDone k 0 {} { s with nodes := s.nodes.set key n, heldDec := s.heldDec.erase key } t) ∧
    (n.count = 0 → ∃ t u, exec (.chainSubmit k) s = .next t ∧ EntryDone k 0 {} u t ∧
      u = { s with nodes := u.nodes, ready := s.ready ++ [key], heldDec := s.heldDec.erase key } ∧
      u.nodes.find? key = some { n with phase := 1, readyAt := s.now } ∧ ∀ j, j ≠ key → u.nodes.find? j = s.nodes.find? j))

/-- R305-R309, R332-R337, R408, R423: a ready compute node with nothing ahead of it goes to the free origin of the highest score, the
first of equals, and a team starts on each of its cores; without one, it drains an origin held by less urgent classes. A saved gang returns to its own core as it was, its granules mapped again.
What the score counts is the model's reading: log entry 56; the context block is copied at dispatch, log entry 67; granules of a returning team, log entry 81. -/
def Obligations.Node_dispatch : Prop := ∀ (s : State) (k : Nat) (n : Node), s.nodes.find? k = some n →
  let b := dwordBits n.desc
  let (w, h, gh) := (2 ^ b 3 2 0, 2 ^ b 3 5 3, 2 ^ b 3 11 9)
  let cores := fun (x y : Nat) => (List.range (w * h)).map fun m => coreAt (x + m % w) (y + m / w)
  let free := fun (c : Nat) => s.teams.find? c = none ∧ openTo s k (b 0 61 60) c
  let lower := fun (c : Nat) => openTo s k (b 0 61 60) c ∧ ∀ t, s.teams.find? c = some t → b 0 61 60 < t.cls
  let ready := n.phase = 1 ∧ k ∈ s.ready
  (ready → b 0 63 62 = 0 → NodeForm n.desc → s.heldBack k n = false → s.aheadFree k = false → s.returnsFirst (b 0 61 60) = false → s.capsRoom k = true →
    (∀ x y, Fits s w h gh x y → (∀ c ∈ cores x y, free c) → (∀ z ∈ n.tiles, z.1 ≠ 2) → n.nid = b 0 15 0 →
      (∀ x' y', Fits s w h gh x' y' → (∀ c ∈ cores x' y', free c) → s.score n (x', y') < s.score n (x, y) ∨
        (s.score n (x', y') = s.score n (x, y) ∧ (y < y' ∨ (y = y' ∧ x ≤ x')))) →
      ∃ t, exec (.nodeDispatch k) s = .next t ∧ (∀ c ∈ cores x y, Started s t n x y c) ∧ t.mem = s.mem ∧ t.ready = s.ready.erase k ∧
        (∃ m, t.nodes.find? k = some m ∧ m.phase = 2 ∧ m.left = w * h ∧ m.desc = n.desc) ∧ (∀ c, c ∉ cores x y → t.teams.find? c = s.teams.find? c) ∧
        ∀ j < 1024, (t.caps.get [] k).getD j 0 = BitVec.ofNat 64 (leNat (s.bytes (s.place (.hbm ((s.ctxs.get {} n.ctx).captab + 8 * j))) 8))) ∧
    ((∀ x y, Fits s w h gh x y → ∃ c ∈ cores x y, ¬free c) → (∀ d ∈ s.drains, d.node ≠ k) →
      (∀ x y, Fits s w h gh x y → ∃ c ∈ cores x y, ¬lower c) → exec (.nodeDispatch k) s = .next s) ∧
    ((∀ x y, Fits s w h gh x y → ∃ c ∈ cores x y, ¬free c) → (∀ d ∈ s.drains, d.node ≠ k) →
      (∃ x y, Fits s w h gh x y ∧ ∀ c ∈ cores x y, lower c) → ∃ t x y, exec (.nodeDispatch k) s = .next t ∧ Fits s w h gh x y ∧ (∀ c ∈ cores x y, lower c) ∧
        t = { s with drains := s.drains ++ [{ node := k, cores := cores x y, deadline := s.now + (s.ctxs.get {} n.ctx).drainlim, expired := false }] })) ∧
  (ready → b 0 63 62 = 2 → s.pool_.head? = some k → s.lead.getLsbD 3 = true → ∃ t, exec (.nodeDispatch k) s = .next t ∧
    t = { s with nodes := t.nodes, ready := s.ready.erase k } ∧ t.nodes.find? k = some { n with phase := 2 }) ∧
  ∀ x, n.phase = 2 → b 0 63 62 = 0 → s.saved = [x] → x.team.key = k → x.queued = true → x.team.gw = 1 → x.team.gh = 1 → x.core < 1536 → s.teams.find? x.core = none → openTo s k x.team.cls x.core →
    x.team.map = [] → (x.team.mapped = [] ∨ ∃ e m, x.team.mapped = [(e, m)] ∧ s.registered m.pa = none ∧ m.gr < 96) →
    s.mons = [] → s.lanes = [] → s.ready = [] → (∀ y ∈ x.img.lanes, y.2.park = .none ∨ y.2.park = .sem ∨ ∃ m, y.2.park = .monitor m) →
    (x.img.pool.map (·.1)).Nodup → (x.img.ureg.map (·.1)).Nodup → (x.img.lanes.map (·.1)).Nodup →
    ∃ t, exec (.nodeDispatch k) s = .next t ∧ t.saved = [] ∧ t.mem = s.mem ∧
      t.teams.find? x.core = some { x.team with mapped := [], map := x.team.mapped.map fun (e, m) => (e, { m with dirty := false }) } ∧
      (∀ e m, (e, m) ∈ x.team.mapped → ∀ o < 4096, t.byte (.sp x.core (4096 * m.gr + o)) = s.byte (.hbm (m.pa + o))) ∧
      (∀ j, j / 65536 = x.core → t.pool.get 0 j = x.img.pool.get 0 j) ∧ (∀ j, j / 4096 = x.core → t.ureg.get 0 j = x.img.ureg.get 0 j) ∧
      ∀ j, j / 2048 = x.core → t.lanes.get {} j = x.img.lanes.get {} j

/-- R324, R331, R335, R439: a team whose lanes have all ended and whose work is done leaves its core, cleared, and its node has one team fewer;
with none left, and every agent past the tick at which that was found, the node completes: its semaphore rises with a pk frontier, its successors' counts fall, and its NID is free.
Log entry 27 for engine nodes. -/
def Sys2Proof.Claims.Node_completion : Prop := ∀ (s : State) (k c : Nat) (n : Node),
  let key := fun (m : Nat) => n.ctx * 65536 + m
  let b := dwordBits n.desc
  let succs := ([b 1 15 0, b 1 31 16, b 1 47 32, b 1 63 48]).filter (· != 0xFFFF)
  (∀ y, s.teams.find? c = some y → c < 1536 → y.map = [] → y.mill = [] →
    (y.ended = false ∨ s.teamBusy c y.key = true → exec (.teamEnd c) s = .next s) ∧
    (y.ended = true → s.teamBusy c y.key = false → y.key = k → s.nodes.find? k = some n → n.rerun = false → n.phase = 2 →
      ∃ t, exec (.teamEnd c) s = .next t ∧ Cleared s t c ∧ t.mem = s.mem ∧ t.nodes.find? k = some { n with left := n.left - 1 } ∧
        ∀ j, j ≠ k → t.nodes.find? j = s.nodes.find? j)) ∧
  (s.nodes.find? k = some n → n.phase = 2 → b 0 63 62 = 0 →
    (n.endAt = none → n.left ≠ 0 → exec (.nodeComplete k) s = .next s) ∧
    (n.endAt = none → n.left = 0 → exec (.nodeComplete k) s = .next { s with nodes := s.nodes.set k { n with endAt := some s.now } }) ∧
    (∀ e, n.endAt = some e → ¬AllClosed s e → exec (.nodeComplete k) s = .next s) ∧
    (∀ e, n.endAt = some e → AllClosed s e → (s.nodes.map (·.1)).Nodup → succs.Nodup → k = key n.nid → (∀ m ∈ succs, m ≠ n.nid ∧
        ((s.nodes.find? (key m) = none) ∨ ∃ y, s.nodes.find? (key m) = some y ∧ y.phase = 0 ∧ 2 ≤ y.count)) →
      (b 9 12 12 = 1 → (s.psems.get {} (b 9 11 0)).wait = [] ∧ HoldsWit (s.psems.get {} (b 9 11 0)).w) →
      ∃ t, exec (.nodeComplete k) s = .next t ∧ t.nodes.find? k = none ∧ t.mem = s.mem ∧ t.teams = s.teams ∧
        (∀ m ∈ succs, match s.nodes.find? (key m) with
          | some y => t.nodes.find? (key m) = some { y with count := y.count - 1 }
          | none => t.heldDec.get 0 (key m) = s.heldDec.get 0 (key m) + 1) ∧
        (∀ j, j ≠ k → (∀ m ∈ succs, j ≠ key m) → t.nodes.find? j = s.nodes.find? j) ∧
        (∀ j, ¬(b 9 12 12 = 1 ∧ j = b 9 11 0) → t.psems.get {} j = s.psems.get {} j) ∧
        (b 9 12 12 = 1 → ∃ r, t.psems.get {} (b 9 11 0) = { v := min ((s.psems.get {} (b 9 11 0)).v + 1) (2 ^ 64 - 1), w := r, wait := [] } ∧
          MergedInto s (.pkg (b 9 11 0)) (s.psems.get {} (b 9 11 0)).w (frontier 7 s.now) r)))

/-- R262, R336, R337, R332, R439, R440: `drainlim` passing marks a drain, and a gang on its cores that can be saved is; a team all of whose lanes
have waited 50 µs in monitors or semaphores is swapped out; an oldest node that has waited its `drainlim` stops backfill; a node's re-execution
ends its teams, and a fourth one fails it.
Log entry 60 for gangs that are not idle as a whole. -/
def Obligations.Preemption : Prop := ∀ (s : State) (c k : Nat), s.wf →
  (∃ t, exec (.drainLimitExpiry k) s = .next t ∧ t = { s with drains := t.drains } ∧ t.drains.length = s.drains.length ∧
    ∀ (i : Nat) (d : Drain), s.drains[i]? = some d → t.drains[i]? = some (if d.node = k ∧ d.deadline ≤ s.now then { d with expired := true } else d)) ∧
  (∀ cls n, cls < 4 → s.nodes.find? k = some n → (s.readyOf cls 0).head? = some k →
    (n.readyAt + (s.ctxs.get {} n.ctx).drainlim ≤ s.now → cls ∉ s.backfillOff → exec (.backfillStop cls) s = .next { s with backfillOff := s.backfillOff ++ [cls] }) ∧
    (s.now < n.readyAt + (s.ctxs.get {} n.ctx).drainlim → exec (.backfillStop cls) s = .next s)) ∧
  (Single s c → s.canSave c = true →
    let gone := fun (t : State) (sw q : Bool) => Cleared s t c ∧ t.mem = s.mem ∧ ∃ x, t.saved = s.saved ++ [x] ∧ SavedOf s c x ∧ x.swapped = sw ∧
      x.queued = q ∧ x.at_ = s.now
    (s.expiredFor c = true → ∃ t, exec (.forcedSave c) s = .next t ∧ gone t false true) ∧
    (s.expiredFor c = false → exec (.forcedSave c) s = .next s) ∧
    (∀ a, (s.team c).idle = some a → (a + 50000 ≤ s.now → ∃ t, exec (.monitorSwapOut c) s = .next t ∧ gone t true false) ∧
      (s.now < a + 50000 → exec (.monitorSwapOut c) s = .next s))) ∧
  ∀ ctx nid n, (ctx, nid) ∈ s.reexec → s.nodes.find? (ctx * 65536 + nid) = some n → (s.nodes.map (·.1)).Nodup → dwordBits n.desc 0 63 62 = 0 →
    (n.phase ≠ 2 → exec (.reExecutionRequest ctx nid) s = .next { s with reexec := s.reexec.erase (ctx, nid) }) ∧
    (n.phase = 2 → n.rerun = false → s.saved = [] → ∀ y, s.teams = [(c, y)] → y.key = ctx * 65536 + nid → Quiet s c →
      ∃ t, exec (.reExecutionRequest ctx nid) s = .next t ∧ t.reexec = s.reexec.erase (ctx, nid) ∧ t.mem = s.mem ∧ t.pool = s.pool ∧
      (∀ v < y.nwarp, ∀ l < 32, (t.lane c v l).live = false) ∧ (t.team c).ended = true ∧
      (n.reruns = 3 → t.nodes.find? (ctx * 65536 + nid) = some { n with phase := 4 } ∧ t.nv.get 0 0x0A21 = min (s.nv.get 0 0x0A21 + 1) (2 ^ 64 - 1)) ∧
      (n.reruns ≠ 3 → t.nodes.find? (ctx * 65536 + nid) = some { n with rerun := true, reruns := n.reruns + 1 }))


namespace Sys2Proof.Claims

-- The fabric's words

/-- Entry m of the node's copy grants a permission to a kind of endpoint, by the layout of R423 and the rules of R424 and R285: x is what it holds. -/
def Grants (s : State) (c m perm kind : Nat) (x : Cap) : Prop :=
  let t := s.team c
  let ws := s.capWords t.ctx t.nid m
  let b := dwordBits ws
  let uses := fun (p : Nat) => if kind = 0 then 1 ≤ p ∧ p ≤ 3 else if kind = 1 then p = 0 else p = 4
  ws.length = 4 ∧ b 0 63 63 = 1 ∧ kind < 3 ∧ (∀ p < 5, b 0 (55 + p) (55 + p) = 1 → uses p) ∧ b 0 (55 + perm) (55 + perm) = 1 ∧ b 0 54 48 = 0 ∧ b 0 39 32 = 0 ∧
    (if kind = 1 then 1 ≤ b 0 47 40 else b 0 47 40 = 0) ∧ b 1 63 52 = 0 ∧ b 2 63 52 = 0 ∧ b 3 63 0 = 0 ∧
    x = { kind := b 0 62 60, perm := b 0 59 55, allow := b 0 47 40, conn := b 0 31 16, endp := b 0 15 0, base := b 1 51 0, size := b 2 51 0 } ∧
    x.kind = kind ∧ ∃ k, s.conns.find? x.conn = some k ∧ k.opened = true ∧ k.cctl.toNat / 2 ^ 44 % 2 ^ 12 = t.ctx

/-- The words, with permission and kind of endpoint (R423, R284), and whether they name a local range. -/
def fabricWords (f : Eng) : List (Instr × Nat × Nat × Bool) := [(.send f, 0, 1, false), (.rget f, 1, 0, true), (.rput f, 2, 0, true), (.ratom f, 3, 0, false)]

/-- Local address, remote address and length of lane l's range (R284, R286). -/
def rangeWords (s : State) (f : Eng) (l : Nat) : Nat × Nat × Nat :=
  ((s.op64 s.cur.core s.cur.slot l f.a).toNat, (s.opndAt s.cur.core s.cur.slot l f.b 0).toNat, (s.opndAt s.cur.core s.cur.slot l f.b 1).toNat)

/-- Pages of lane l's local range: what translation answers (R285 step 3). -/
def rangeFound (s : State) (f : Eng) (l : Nat) (get : Bool) : State × Except (Nat × Nat) (List (Nat × Nat)) :=
  let (a, _, n) := rangeWords s f l
  s.localPages (some s.cur.core) (s.team s.cur.core).ctx (s.isUser s.cur.core s.cur.slot l) (if get then .stp else .rawRead) (pagesOf a n)

/-- A link witness (R229). -/
def linkPoint (sc n q : Nat) : Word := BitVec.ofNat 64 (3 * 2 ^ 60 + sc * 2 ^ 56 + n * 2 ^ 40 + q)

/-- The message of lane l, less what its kind adds (R278, R284, R288). -/
def messageOf (s u : State) (l kind : Nat) (f : Eng) (x : Cap) (fut : Option FutRef) : Msg :=
  { seq := (u.conns.get {} x.conn).sent + 1, kind := kind, who := ⟨s.cur.core, s.cur.slot, l⟩, team := u.ownKey s.cur.core, ctx := (u.team s.cur.core).ctx, lva := 0
    rva := 0, len := 0, dst := none, id := 0, fut := fut, ty := f.ty, sc := f.sc, endp := x.endp, words := [], fen := f.mod.toNat / 2 % 2 == 1, sent := u.now
    cls := u.laneClass s.cur.core s.cur.slot l }

/-- From u, lane l's message takes the next number of connection n, and goes out, in packets of at most 4 KiB (R273, R278). -/
def Takes (s : State) (l n : Nat) (m : Msg) (u v : State) : Prop :=
  let k := u.conns.get {} n
  let x := u.lane s.cur.core s.cur.slot l
  v = { u with
    conns := u.conns.set n { k with sent := m.seq, out := k.out ++ [m] }, outbox := u.outbox ++ m.out n
    lanes := u.lanes.set (laneKey s.cur.core s.cur.slot l) { x with fab := x.fab.set n m.seq } }

/-- The connection takes messages: UP, not closing, numbers left, not failed (R273, R275, R282). -/
def Up (s : State) (n : Nat) : Prop :=
  let k := s.conns.get {} n
  k.up = true ∧ k.closing = false ∧ k.failed = false ∧ k.sent + 1 < 2 ^ 40

/-- The work that a future entry names has started: its entry, else as `TakesEntry` leaves it. -/
def startedEntry (y : State) (fut : FutRef) : Tab FutSt :=
  y.fut.set (futKey fut.core fut.ent) { y.fut.get {} (futKey fut.core fut.ent) with started := true }

end Sys2Proof.Claims

/-- R285, R424: the checks of each lane, in their order: capability, alignment and illegal operands, window, pages; a connection that is not UP
makes the lane wait. A poisoned source is looked at last. -/
def Sys2Proof.Claims.Fabric_checks : Prop := ∀ (s : State) (f : Eng) (l : Nat), ∀ i ∈ fabricWords f,
  let (c, w) := (s.cur.core, s.cur.slot)
  let (word, perm, kind, range) := i
  let (a, r, n) := rangeWords s f l
  let n0 := f.ty.bytes
  let lone := s.passes word ∧ s.issuing word = [l] ∧ s.lanesM word = [l] ∧ ∀ q ∈ s.needs word c w l, (s.mark c w l q).bad = true ∨ (s.mark c w l q).fault = 0
  (lone → (¬∃ x, Grants s c f.c.toNat perm kind x) → Traps s s word l 0x12 0 0) ∧
  ∀ x, lone → Grants s c f.c.toNat perm kind x →
    (range = true →
      (n % 8 ≠ 0 ∨ n < 8 ∨ 2 ^ 30 < n → Traps s s word l 0x0A 0 0) ∧
      (n % 8 = 0 → 8 ≤ n → n ≤ 2 ^ 30 → (a % 8 ≠ 0 → Traps s s word l 0x0A a 0) ∧
        (a % 8 = 0 → (r % 8 ≠ 0 ∨ 2 ^ 52 ≤ r → Traps s s word l 0x05 0 0) ∧
          (r % 8 = 0 → r < 2 ^ 52 → (r < x.base ∨ x.base + x.size < r + n → Traps s s word l 0x12 0 0) ∧
            (x.base ≤ r → r + n ≤ x.base + x.size → ∀ u k b, rangeFound s f l (perm == 1) = (u, .error (k, b)) → Traps s s word l k b 0))))) ∧
    (perm = 3 →
      (a % n0 ≠ 0 ∨ 2 ^ 52 ≤ a → Traps s s word l 0x05 0 0) ∧
      (a % n0 = 0 → a < 2 ^ 52 → a < x.base ∨ x.base + x.size < a + n0 → Traps s s word l 0x12 0 0)) ∧
    (let ok := fun (u : State) => if range then n % 8 = 0 ∧ 8 ≤ n ∧ n ≤ 2 ^ 30 ∧ a % 8 = 0 ∧ r % 8 = 0 ∧ r < 2 ^ 52 ∧ x.base ≤ r ∧ r + n ≤ x.base + x.size ∧
        ∃ ps, rangeFound s f l (perm == 1) = (u, .ok ps)
      else u = s ∧ (perm = 3 → a % n0 = 0 ∧ a < 2 ^ 52 ∧ x.base ≤ a ∧ a + n0 ≤ x.base + x.size)
     ∀ u, ok u → ((∃ q ∈ s.needs word c w l, (s.mark c w l q).bad = true) → Traps s u word l 0x11 0 0) ∧
      (s.sound word → (u.conns.get {} x.conn).failed = false → ¬Up u x.conn → Retries s word l u))

/-- R278, R284, R286-R288, R344: a lane that passes its checks sends one message under the next number of its connection. `send` takes a unit of
allowance, without one parks or (`.nb`) goes on with false and null; `rget`'s D is a pending handle, `rput`'s the link witness; `ratom` and its D do not wait.
A store through a peer leaf is such a message, whose link witness has scope 9 at least (R291, R450).
Rput reads its source at issue: log entry 63. -/
def Sys2Proof.Claims.Fabric_words : Prop := ∀ (s : State) (f : Eng) (l : Nat) (x : Cap),
  let (c, w) := (s.cur.core, s.cur.slot)
  let (a, r, n) := rangeWords s f l
  let range := n % 8 = 0 ∧ 8 ≤ n ∧ n ≤ 2 ^ 30 ∧ a % 8 = 0 ∧ r % 8 = 0 ∧ r < 2 ^ 52 ∧ x.base ≤ r ∧ r + n ≤ x.base + x.size
  let key := x.conn * 65536 + x.endp
  let nb := f.mod.toNat % 2 = 1
  (s.Alone (.send f) l → Grants s c f.c.toNat 0 1 x → Up s x.conn →
    (x.allow ≤ s.allow.get 0 key → (¬nb → ∃ t, exec (.send f) s = .next t ∧ t = { s with lanes := t.lanes } ∧
        (t.lane c w l).park = .allowance ∧ (t.lane c w l).pc = (s.lane c w l).pc ∧ ∀ k, k ≠ laneKey c w l → t.lanes.get {} k = s.lanes.get {} k) ∧
      (nb → ∃ t, exec (.send f) s = .next t ∧ LanesOnly c w [l] [l] (dsts f.d 1 ++ [256 + f.b.toNat % 8]) false s t ∧
        (f.b.toNat % 8 ≠ 7 → (t.lane c w l).preds.getLsbD (f.b.toNat % 8) = false) ∧ ∀ q ∈ dsts f.d 1, t.reg c w l q = 0)) ∧
    (s.allow.get 0 key < x.allow → s.futRoom c 1 false = false → Retries s (.send f) l s) ∧
    (s.allow.get 0 key < x.allow → s.futRoom c 1 false = true → ∃ (t y v : State) (fut : FutRef), exec (.send f) s = .next t ∧ TakesEntry c false fut s y ∧
      (let q := (s.conns.get {} x.conn).sent + 1
       Takes s l x.conn { messageOf s s l 3 f x (some fut) with len := 64, words := (List.range 8).map fun j => s.opndAt c w l f.a j } s v ∧
       let k := v.conns.get {} x.conn
       LanesOnly c w [l] [l] (dsts f.d 1 ++ (if f.mod.toNat % 2 = 1 then [256 + f.b.toNat % 8] else [])) false { v with
         fut := startedEntry y fut, free := y.free, allow := s.allow.set key (s.allow.get 0 key + 1), conns := v.conns.set x.conn { k with units := k.units ++ [(q, key)] } } t) ∧
      (∀ q ∈ dsts f.d 1, (t.mark c w l q).fut = some fut ∧ wKind (t.reg c w l q) = 0xE) ∧
      (nb → f.b.toNat % 8 ≠ 7 → (t.lane c w l).preds.getLsbD (f.b.toNat % 8) = true))) ∧
  (s.Alone (.rget f) l → Grants s c f.c.toNat 1 0 x → range → ∀ u ps, rangeFound s f l true = (u, .ok ps) → Up u x.conn →
    (u.futRoom c 1 false = false → Retries s (.rget f) l u) ∧
    (u.futRoom c 1 false = true → ∃ t y v fut, exec (.rget f) s = .next t ∧ TakesEntry c false fut u y ∧
      Takes s l x.conn { messageOf s u l 1 f x (some fut) with lva := a, rva := r, len := n, pages := ps } u v ∧
      Handed s l f.d fut { v with fut := startedEntry y fut, free := y.free } t)) ∧
  (s.Alone (.rput f) l → Grants s c f.c.toNat 2 0 x → range → ∀ u ps, rangeFound s f l false = (u, .ok ps) → Up u x.conn →
    ((∃ p ∈ ps, u.laneBusy c w l (.hbm p.2) 65536 = true) → Retries s (.rput f) l u) ∧
    ((∀ p ∈ ps, u.laneBusy c w l (.hbm p.2) 65536 = false) → ∃ t v ws bad, exec (.rput f) s = .next t ∧
      Takes s l x.conn { messageOf s u l 0 f x none with lva := a, rva := r, len := n, words := ws, bad := bad } u v ∧ ws.length = n / 8 ∧ bad.length = n / 8 ∧
      (∀ g < n / 8, let y := Loc.hbm (pageAt ps (a + 8 * g))
        rowHere u (u.team c).ctx y → ws[g]? = some (BitVec.ofNat 64 (leNat (u.bytes (u.place y) 8))) ∧ bad[g]? = some (u.badIn (u.place y) 8)) ∧
      Leaves s l f.d (linkPoint f.sc.code.toNat x.conn ((u.conns.get {} x.conn).sent + 1)) v t)) ∧
  (s.Alone (.ratom f) l → Grants s c f.c.toNat 3 0 x → a % f.ty.bytes = 0 → a < 2 ^ 52 → x.base ≤ a → a + f.ty.bytes ≤ x.base + x.size → Up s x.conn →
    ∃ t v, exec (.ratom f) s = .next t ∧
      Takes s l x.conn { messageOf s s l 2 f x none with rva := a, len := f.mod.toNat, dst := (dsts f.d 1).head?, id := s.seq, fen := false, words := [
        BitVec.ofNat 64 (s.atomOperand c w l f.ty f.b), BitVec.ofNat 64 (if f.mod = 8 then (s.opndAt c w l f.b 1).toNat % 2 ^ f.ty.width else 0)] } s v ∧
      Waits c w l (dsts f.d 2) s.seq v t ∧ t.seq = s.seq + 1 ∧ t.reqs = s.reqs ∧ t.replies = s.replies) ∧
  ∀ (g : Mem) (pkg va m : Nat) (leaf : Word) (u : State), s.Alone (.stG g) l → placeOf s l .g .st (addrOf s g l g.ty.bytes) g.ty.bytes = (u, .ok (.peer pkg va, leaf)) →
    u.route (u.team c).ctx pkg = some m → Up u m → m < 65536 → ∃ t v y, exec (.stG g) s = .next t ∧ Takes s l m y u v ∧ y.seq = (u.conns.get {} m).sent + 1 ∧
      y.kind = 0 ∧ y.rva = va ∧ y.len = g.ty.bytes ∧ y.sc = g.sc ∧ Leaves s l g.d (linkPoint (max g.sc.code.toNat 9) m y.seq) v t ∧
      (let bytes := bytesOf s l g.ty g.b
       y.words = [BitVec.ofNat 64 (leNat (bytes.take 8)), BitVec.ofNat 64 (leNat (bytes.drop 8))])


namespace Sys2Proof.Claims

-- Connections and packets

/-- Connection n alone has changed, to k; lanes that wait look again (R310). -/
def OnlyConn (s : State) (n : Nat) (k : Conn) (t : State) : Prop := t = { s with conns := s.conns.set n k, lanes := s.wake.lanes }

/-- Bits of a control register. -/
def cbits (w : Word) (hi lo : Nat) : Nat := w.toNat / 2 ^ lo % 2 ^ (hi + 1 - lo)

/-- CCTL and CCFG may be opened: OPEN set, no must-be-zero bit, no reserved value (R275). -/
def mayOpen (cctl ccfg : Word) : Prop :=
  cbits cctl 63 63 = 1 ∧ cbits cctl 58 56 = 0 ∧ cbits cctl 31 16 = 0 ∧ 1 ≤ cbits ccfg 8 0 ∧ cbits ccfg 8 0 ≤ 256 ∧ cbits ccfg 11 9 = 0 ∧ cbits ccfg 13 12 ≠ 3 ∧ cbits ccfg 63 14 = 0

/-- The port accepts a packet under an epoch (R277, R427). -/
def inEpoch (s : State) (n epoch : Nat) : Prop :=
  let k := s.keys.get {} n
  (k.curValid = true ∧ k.cur = epoch) ∨ (k.nextValid = true ∧ k.next = epoch)

/-- Message seq is complete at this target already (R279). -/
def wasComplete (k : Conn) (seq : Nat) : Prop := 0 < seq ∧ (seq ≤ k.rcvd ∨ k.got.get false seq = true)

/-- Message seq is complete, or all of it is performed and its writes have yet to close. -/
def wasWhole (k : Conn) (seq : Nat) : Prop := wasComplete k seq ∨ (k.landing.get {} seq).whole = true

/-- A packet that a port performs: its number has 40 bits, and it carries at most 4 KiB (R272, R273). -/
def carried (seq : Nat) (p : Packet) : Prop :=
  seq < 2 ^ 40 ∧ p ≠ .unsupported ∧ ∀ x va off total data bad fen, p = .write x va off total data bad fen → data.length ≤ 4096

/-- A packet that is performed as it arrives (R277, R279, R281). -/
def Arrives (s : State) (n seq epoch : Nat) (p : Packet) : Prop :=
  let k := s.conns.get {} n
  k.opened = true ∧ k.failed = false ∧ inEpoch s n epoch ∧ carried seq p ∧ ¬wasWhole k seq ∧ (seq, p) ∉ k.held ∧
    (packetFenced p = false ∧ cbits k.cctl 59 59 = 0 ∨ seq ≤ k.rcvd + 1)

/-- Message seq is complete in k', and what else was complete in k: the prefix is the longest (R279, R280). Number 0 counts for nothing (R278). -/
def CompletesAt (k k' : Conn) (seq : Nat) : Prop :=
  (∀ q, 0 < q → (wasComplete k' q ↔ wasComplete k q ∨ q = seq)) ∧ (seq ≠ 0 → k'.got.get false (k'.rcvd + 1) = false) ∧ k.rcvd ≤ k'.rcvd ∧
    k' = { k with rcvd := k'.rcvd, got := k'.got, parts := k'.parts, landing := k'.landing }

/-- Writes of a message at some agents stand beside those that it has made before. -/
def OpensMore (s : State) (old : Opened) (at_ : Nat → Prop) (o : Opened) : Prop :=
  o.links = old.links ∧ (∀ a, a ∈ o.agents ↔ a ∈ old.agents ∨ at_ a) ∧ ((∃ a, at_ a) → o.tick = s.now) ∧ ((∀ a, ¬at_ a) → o = old)

/-- In k' message seq has landed as y, and in k nothing else has changed but its parts. -/
def LandsAs (k k' : Conn) (seq : Nat) (ps : List (Nat × Nat)) (y : Landing) : Prop :=
  k' = { k with parts := k.parts.set seq ps, landing := k'.landing } ∧ k'.landing.get {} seq = y ∧
    ∀ q, q ≠ seq → k'.landing.get {} q = k.landing.get {} q

/-- Agent a, and no other, closes its ticks, and just connection n waits for that. -/
def ClosesFor (s : State) (a n : Nat) (k : Conn) : Prop :=
  a < 0x802 ∧ published s a + 64 ≤ s.now ∧ s.conns = [(n, k)] ∧ s.colls = [] ∧ NoSampleCloses s ∧ ∀ x ∈ s.ctxs, x.2.advs = []

/-- Work is closed once agent a has closed the tick before the present one. -/
def ShutBy (s : State) (a : Nat) (o : Opened) : Prop :=
  o.links = [] ∧ ∀ b ∈ o.agents, tickAtLeast (if b = a then tickBefore s else s.ctOf b) o.tick

/-- From u to t memory may have changed, the port has sent xs back, and connection n is k' (R280, R283); nothing else has changed. -/
def PortDid (u t : State) (n : Nat) (xs : List (List Nat)) (k' : Conn) : Prop :=
  OnlyMemory { u with conns := u.conns.set n k', outbox := u.outbox ++ xs, lanes := u.wake.lanes } t

/-- Memory stands where its addresses say, and no monitor or stage queue looks at it. -/
def Plain (u : State) : Prop := (∀ pa, u.place (.hbm pa) = .hbm pa) ∧ u.mons = [] ∧ u.pal = [] ∧ u.mem.wf = true

/-- Addresses found for n bytes from va on, none twice (R285, R286). -/
def found (gs : List (Nat × Nat)) (va n : Nat) : Prop := ∀ i < n, ∀ j < n, pageAt gs (va + i) = pageAt gs (va + j) → i = j

/-- From u to t the data have come to the bytes from va on, by the pages gs, and no other byte of HBM has changed. -/
def Landed (u t : State) (gs : List (Nat × Nat)) (va : Nat) (data : List Byte) : Prop :=
  (∀ j (h : j < data.length), t.byte (.hbm (pageAt gs (va + j))) = data[j]) ∧
  ∀ pa, (∀ j < data.length, pa ≠ pageAt gs (va + j)) → t.byte (.hbm pa) = u.byte (.hbm pa)

/-- Pages of a packet's range, in the tables of the connection's context (R275, R286, R291). -/
def pagesAsked (s : State) (n : Nat) (acc : Acc) (va len : Nat) : State × Except (Nat × Nat) (List (Nat × Nat)) :=
  s.localPages none (cbits (s.conns.get {} n).cctl 55 44) false acc (pagesOf va (max 1 len))

/-- A capability's peer context is the connection's own; an aperture names none (R275, R291). -/
def forContext (s : State) (n : Nat) (x : Option Nat) : Prop := ∀ y, x = some y → y = cbits (s.conns.get {} n).cctl 55 44

end Sys2Proof.Claims

/-- R275, R276, R427, R290: a write to a closed block is held, and one that sets OPEN opens it where it may be opened; it is UP once, closes when asked and, with no message left or failed, is
closed; while it is open a write changes only CLOSE. An endpoint whose allowance the reserve cannot bear is not taken. Keys come and go by epoch.
The port's message is a free value: log entry 23. -/
def Sys2Proof.Claims.Connection_life : Prop := ∀ (s : State) (n e : Nat) (v d1 : Word),
  let k := s.conns.get {} n
  let b := k.cctl
  (n < 65536 → k.opened = false →
    (cbits v 63 63 = 0 → exec (.connectionOpen n v) s = .next { s with conns := s.conns.set n { k with cctl := BitVec.ofNat 64 (v.toNat % 2 ^ 60) } }) ∧
    (mayOpen v k.ccfg → exec (.connectionOpen n v) s = .next { s with conns := s.conns.set n { cctl := BitVec.ofNat 64 (2 ^ 63 + v.toNat % 2 ^ 60), paddr := k.paddr, ccfg := k.ccfg, opened := true }, lanes := s.wake.lanes }) ∧
    (cbits v 63 63 = 1 → ¬mayOpen v k.ccfg → exec (.connectionOpen n v) s = .next s)) ∧
  (n < 65536 → k.opened = true → exec (.connectionOpen n v) s =
    .next (if cbits v 60 60 = 1 then { s with conns := s.conns.set n { k with closing := true, cctl := b ||| 0x1000000000000000 } } else s)) ∧
  (k.opened = true → k.up = false → k.failed = false → k.closing = false →
    ∃ t, exec (.connectionUp n) s = .next t ∧ OnlyConn s n { k with up := true, progress := s.now, cctl := b ||| 0x4000000000000000 } t) ∧
  (k.opened = false ∨ k.up = true ∨ k.failed = true ∨ k.closing = true → exec (.connectionUp n) s = .next s) ∧
  (k.opened = true → exec (.connectionClose n) s = .next { s with conns := s.conns.set n { k with closing := true, cctl := b ||| 0x1000000000000000 } }) ∧
  (k.opened = true → k.closing = true →
    (k.out = [] ∨ k.failed = true → ∃ t, exec (.connectionClosed n) s = .next t ∧
      OnlyConn s n { k with opened := false, up := false, closing := false, cctl := b &&& 0x2FFFFFFFFFFFFFFF } t) ∧
    (k.out ≠ [] → k.failed = false → exec (.connectionClosed n) s = .next s)) ∧
  (e < 4096 → let ctx := cbits v 55 44
    let others := ((s.endps.filter fun (x : Nat × Word × Word) => x.1 != e && cbits x.2.1 63 63 == 1 && cbits x.2.1 55 44 == ctx).map fun (x : Nat × Word × Word) => cbits x.2.2 31 0).sum
    let taken := cbits v 63 63 = 1 → others + cbits d1 31 0 ≤ (s.pal.get {} ctx).resv
    (taken → exec (.receiveEndpointWrite e v d1) s = .next { s with
      endps := s.endps.set e (BitVec.ofNat 64 (cbits v 63 63 * 2 ^ 63 + ctx * 2 ^ 44 + cbits v 35 32 * 2 ^ 32), BitVec.ofNat 64 (cbits d1 31 0)) }) ∧
    (¬taken → exec (.receiveEndpointWrite e v d1) s = .next { s with
      endps := s.endps.set e ((s.endps.get (0, 0) e).1 ||| 0x4000000000000000, (s.endps.get (0, 0) e).2) })) ∧
  (n < 65536 → cbits v 63 63 = 1 → exec (.keyEpochInstall n v) s = .next { s with keys := s.keys.set n { s.keys.get {} n with next := cbits v 15 0, nextValid := true } }) ∧
  (cbits v 62 62 = 1 → (s.keys.get {} n).nextValid = true → exec (.keyEpochRetire n v) s = .next { s with
    keys := s.keys.set n { s.keys.get {} n with cur := (s.keys.get {} n).next, curValid := true, nextValid := false } })

/-- R272-R274, R277, R279-R281, R283, R286-R288, R291: packets under no accepted epoch, or of no form that a port knows, are counted and dropped, duplicates and packets of
closed connections dropped; a fenced packet waits for every earlier message; any other is performed: a write lands, a read answers with its bytes, an atomic with the old value,
a record takes a receive slot; one that translation, permission or context refuses writes nothing, and completes. A message whose bytes have all come is complete, and
acknowledged, once its last write has closed. -/
def Obligations.Packets_received : Prop := ∀ (s : State) (n seq epoch : Nat) (p : Packet),
  let k := s.conns.get {} n
  let run := exec (.packetReceive n seq epoch p) s
  (¬inEpoch s n epoch ∨ ¬carried seq p → run = .next { s with nv := s.nv.set 0x0A27 (min (s.nv.get 0 0x0A27 + 1) (2 ^ 64 - 1)) }) ∧
  (inEpoch s n epoch → carried seq p → k.opened = false ∨ k.failed = true → run = .next s) ∧
  (k.opened = true → k.failed = false → inEpoch s n epoch → carried seq p →
    (wasWhole k seq ∨ (seq, p) ∈ k.held → run = .next s) ∧
    (¬wasWhole k seq → (seq, p) ∉ k.held → packetFenced p = true ∨ cbits k.cctl 59 59 = 1 → k.rcvd + 1 < seq →
      run = .next { s with conns := s.conns.set n { k with held := k.held ++ [(seq, p)] } })) ∧
  (Arrives s n seq epoch p →
    (∀ x va off total data bad fen u gs, p = .write x va off total data bad fen → (∀ q ∈ k.parts.get [] seq, q.1 ≠ off) →
      let ps := k.parts.get [] seq ++ [(off, data.length)]
      let ends := fun (t : State) (sent : List (List Nat)) (wrote : Nat → Prop) => ∃ o k', OpensMore s (k.landing.get {} seq).shut wrote o ∧
        if (ps.map (·.2)).sum < total then LandsAs k k' seq ps { shut := o, ack := true } ∧ PortDid u t n sent k'
        else if o.agents = [] then (∃ k1, LandsAs k k1 seq ps { shut := o, ack := true } ∧ CompletesAt k1 k' seq) ∧ PortDid u t n (sent ++ [[6, n, seq]]) k'
        else LandsAs k k' seq ps { shut := o, whole := true, ack := true } ∧ PortDid u t n sent k'
      (pagesAsked s n .rawWrite (va + off) data.length = (u, .ok gs) → forContext s n x → Plain u → found gs (va + off) data.length → data ≠ [] →
        (x = none → off = 0 ∧ data.length ∈ [1, 2, 4, 8, 16] ∧ va % data.length = 0) → (x ≠ none → (va + off) % 8 = 0) →
        ∃ t, run = .next t ∧ Landed u t gs (va + off) data ∧
          ends t [] fun a => ∃ g < (data.length + 7) / 8, (x = none → g = 0) ∧ a = haOf (pageAt gs (va + off + 8 * g))) ∧
      (∀ e, pagesAsked s n .rawWrite (va + off) data.length = (u, e) → ¬forContext s n x ∨ (∃ z, e = .error z) →
        ∃ t, run = .next t ∧ t.mem = u.mem ∧ t.sp = u.sp ∧ ends t [[3, n, seq]] fun _ => False)) ∧
    (∀ x va len fen, p = .read x va len fen →
      (¬forContext s n x → ∃ t k', run = .next t ∧ t.mem = s.mem ∧ PortDid s t n [[3, n, seq]] k' ∧ CompletesAt k k' seq) ∧
      (∀ u e, forContext s n x → pagesAsked s n .rawRead va len = (u, e) →
        (∀ z, e = .error z → ∃ t k', run = .next t ∧ t.mem = u.mem ∧ PortDid u t n [[3, n, seq]] k' ∧ CompletesAt k k' seq) ∧
        ∀ gs, e = .ok gs → Plain u → ∃ (t : State) (k' : Conn) (bad : List Nat), run = .next t ∧ t.mem = u.mem ∧ bad.length = (len + 7) / 8 ∧ CompletesAt k k' seq ∧
          let bytes := (List.range len).map fun j => (u.byte (.hbm (pageAt gs (va + j)))).toNat
          PortDid u t n ((List.range (max 1 ((len + 4095) / 4096))).map fun j =>
            [7, n, seq, 4096 * j] ++ (bytes.drop (4096 * j)).take 4096 ++ (bad.drop (512 * j)).take 512) k')) ∧
    (∀ x ty cas va b c fen, p = .atomic x ty cas va b c fen → ty ∈ [Ty.i32, .n32, .i64, .n64, .f32] → forContext s n x → va % ty.bytes = 0 →
      let op := if cas then 8 else 0
      ∀ u e, s.xlate none (cbits k.cctl 55 44) false .atomic va ty.bytes = (u, e) →
        (∀ z, e = .error z → ∃ t k', run = .next t ∧ t.mem = u.mem ∧ PortDid u t n [[3, n, seq]] k' ∧ CompletesAt k k' seq) ∧
        ∀ pa leaf, e = .ok (.hbm pa, leaf) → Plain u →
          let old := leNat (u.bytes (.hbm pa) ty.bytes)
          (u.badIn (.hbm pa) ty.bytes = true → ∃ t k', run = .next t ∧ t.mem = u.mem ∧ PortDid u t n [[8, n, seq, old, 1]] k' ∧ CompletesAt k k' seq) ∧
          (u.badIn (.hbm pa) ty.bytes = false → ∃ t k' new o, run = .next t ∧ PortDid u t n [[8, n, seq, old, 0]] k' ∧ OpenAt s (· = haOf pa) o ∧
            k' = { k with landing := k.landing.set seq { shut := o, whole := true, ack := false } } ∧
            atomResult ty op old (b.toNat % 2 ^ ty.width) (c.toNat % 2 ^ ty.width) new ∧
            ∀ a, t.byte (.hbm a) = if pa ≤ a ∧ a < pa + ty.bytes then BitVec.ofNat 8 (new / 2 ^ (8 * (a - pa))) else u.byte (.hbm a))) ∧
    (∀ e ws lane core pkg fen, p = .record e ws lane core pkg fen →
      let d := (s.endps.get (0, 0) e).1
      (e < 4096 → cbits d 63 63 = 1 → cbits d 55 44 = cbits k.cctl 55 44 → ∃ t k', run = .next t ∧ CompletesAt k k' seq ∧
        t = { s with
          inbox := s.inbox.set s.seq { conn := n, seq := seq, ctx := cbits k.cctl 55 44, endp := e, stq := cbits d 35 32, words := ws, lane := lane, core := core, pkg := pkg }
          seq := s.seq + 1, conns := s.conns.set n k', outbox := s.outbox ++ [[6, n, seq]], lanes := s.wake.lanes }) ∧
      (4096 ≤ e ∨ cbits d 63 63 ≠ 1 ∨ cbits d 55 44 ≠ cbits k.cctl 55 44 → ∃ t k', run = .next t ∧ CompletesAt k k' seq ∧
        t = { s with conns := s.conns.set n k', outbox := s.outbox ++ [[3, n, seq], [4, n, e]], lanes := s.wake.lanes }))) ∧
  (let less := { s with conns := s.conns.set n { k with held := k.held.filter fun (x : Nat × Packet) => x.1 != seq } }
   (k.held.filter fun (x : Nat × Packet) => x.1 == seq) = [(seq, p)] → k.opened = true → k.failed = false → inEpoch s n epoch → carried seq p → ¬wasWhole k seq →
    (seq ≤ k.rcvd + 1 → ∃ t, exec (.fencedMessagePerform n seq) s = .next t ∧ exec (.packetReceive n seq epoch p) less = .next t) ∧
    (k.rcvd + 1 < seq → exec (.fencedMessagePerform n seq) s = .next s)) ∧
  ∀ a y, ClosesFor s a n k → k.landing = [(seq, y)] → k.out = [] → y.whole = true → seq ≠ 0 → y.shut.links = [] →
    (ShutBy s a y.shut → ∃ t k', exec (.closedTickPublish (some a)) s = .next t ∧ CompletesAt k k' seq ∧ t.conns = s.conns.set n k' ∧ t.mem = s.mem ∧
      t.outbox = s.outbox ++ (if y.ack then [[6, n, seq]] else [])) ∧
    (¬ShutBy s a y.shut → ∃ t, exec (.closedTickPublish (some a)) s = .next t ∧ t.conns = s.conns ∧ t.outbox = s.outbox)


namespace Sys2Proof.Claims

-- What comes back

/-- LINKDONE's times agree with the messages that are out (R233, R280). -/
def Orderly (k : Conn) : Prop :=
  k.opened = true ∧ (∀ m ∈ k.out, 1 ≤ m.seq ∧ m.seq ≤ k.sent) ∧ (∀ x ∈ k.tcs, x.1 ≤ k.sent ∧ ∀ m ∈ k.out, x.1 < m.seq) ∧
    ∀ j, 1 ≤ j → j ≤ k.sent → (∀ m ∈ k.out, j < m.seq) → ∃ x ∈ k.tcs, j ≤ x.1

/-- No lane waits for a witness in the middle of its word (R235). -/
def Calm (s : State) : Prop := ∀ x ∈ s.lanes, match x.2.park with
  | .semGot .. | .slotGot .. | .barWait _ => False
  | _ => True

/-- From s to t message q of connection n is complete: LINKDONE holds now, with this moment, for every number up to which all are (R233, R280). -/
def MessageEnds (s t : State) (n q : Nat) : Prop :=
  let k := s.conns.get {} n
  let k' := t.conns.get {} n
  k' = { k with out := k.out.filter fun m => m.seq != q, tcs := k'.tcs, progress := k'.progress, units := k'.units } ∧ t.conns = s.conns.set n k' ∧
    ∀ j, 1 ≤ j → ((j ≤ k.sent ∧ ∀ m ∈ k.out, j < m.seq) → t.linkDone n j = s.linkDone n j) ∧
      (¬(j ≤ k.sent ∧ ∀ m ∈ k.out, j < m.seq) →
        ((j ≤ k.sent ∧ ∀ m ∈ k.out, m.seq ≠ q → j < m.seq) → t.linkDone n j = some s.now) ∧
        (¬(j ≤ k.sent ∧ ∀ m ∈ k.out, m.seq ≠ q → j < m.seq) → t.linkDone n j = none))

/-- From s to t the port has written an error record to the context's queue and told the service OS (R283). -/
def Recorded_ (s t : State) (ctx : Nat) (ws : List Nat) : Prop :=
  t.errq = s.errq.set ctx (s.errq.get [] ctx ++ [ws.map (BitVec.ofNat 64 ·)]) ∧ t.free = s.free + 1 ∧ ∃ x, t.imsg = s.imsg.set s.seq x

/-- The work of a message's handle is over with a witness, or with the fault of its first reader. -/
def WorkOver (s t : State) (fut : Option FutRef) (w : Word) (fault aux : Nat) : Prop :=
  ∀ f, fut = some f → Holds s f → t.fut = s.fut.set (futKey f.core f.ent) { s.futEnt f.core f.ent with started := true, result := some (w, fault, aux) }

/-- A reply that brings registers to a message's lane (R287, R283). -/
def messageReply (m : Msg) (regs : List (Nat × Word × Mark)) : Machine.Reply := { who := m.who, team := m.team, regs := regs, load := true, id := m.id }

/-- Message q of connection n is out. -/
def IsOut (s : State) (n q : Nat) (m : Msg) : Prop :=
  let k := s.conns.get {} n
  Orderly k ∧ k.failed = false ∧ (k.out.find? fun (x : Msg) => x.seq == q) = some m ∧ (k.out.map (·.seq)).Nodup ∧ n < 65536 ∧ q < 2 ^ 40 ∧ m.sc.code.toNat ≤ 11

/-- A unit of allowance has returned: the sender's count is lower, and lanes parked for one look again (R288). -/
def UnitBack (s t : State) (n q key : Nat) : Prop :=
  t.allow = s.allow.set key (s.allow.get 0 key - 1) ∧ (t.conns.get {} n).units = (s.conns.get {} n).units.filter (fun (x : Nat × Nat) => x.1 != q) ∧
    ∀ c w l, (t.lane c w l).park ≠ .allowance ∧ (t.lane c w l).pc = (s.lane c w l).pc

end Sys2Proof.Claims

/-- R280, R282, R283, R286-R288: what comes back for a message ends it, with LINKDONE for the prefix that is complete: `rput` with its acknowledgement, `rget` once
its last byte has landed and every write of it has closed, `ratom` with its old value, `send` with its record held. A refusal leaves an error record, and a fault for the first reader of a handle or old value. -/
def Sys2Proof.Claims.Messages_end : Prop := ∀ (s : State) (n q : Nat) (m : Msg), IsOut s n q m → Calm s → s.saved = [] →
  let wit := linkPoint (max m.sc.code.toNat 9) n q
  let same := fun (t : State) => t = { s with
    conns := t.conns, fut := t.fut, lanes := t.lanes, replies := t.replies, seq := t.seq, errq := t.errq, imsg := t.imsg, free := t.free, allow := t.allow }
  let quiet := fun (t : State) => t.errq = s.errq ∧ t.imsg = s.imsg ∧ t.free = s.free
  (m.kind = 0 →
    (∃ t, exec (.ackReceive n q .done) s = .next t ∧ MessageEnds s t n q ∧ t = { s with conns := t.conns, lanes := s.wake.lanes }) ∧
    ∃ t, exec (.ackReceive n q .refused) s = .next t ∧ Recorded_ s t m.ctx [0, n, q, m.rva] ∧ same t ∧
      t.conns = s.conns.set n { s.conns.get {} n with progress := s.now }) ∧
  (m.kind = 1 →
    (∃ t, exec (.ackReceive n q .refused) s = .next t ∧ Recorded_ s t m.ctx [1, n, q, m.rva] ∧ MessageEnds s t n q ∧ WorkOver s t m.fut 0 0x13 0 ∧ same t) ∧
    ∀ off bytes bad, off + bytes.length ≤ m.len → bytes.length ≤ 4096 → (∀ p ∈ m.parts, p.1 ≠ off) → Plain s → found m.pages (m.lva + off) bytes.length → (m.lva + off) % 8 = 0 →
      let ps := m.parts ++ [(off, bytes.length)]
      ∃ t o, exec (.ackReceive n q (.data off bytes bad)) s = .next t ∧ Landed s t m.pages (m.lva + off) bytes ∧ t.fut = s.fut ∧
        o.tick = s.now ∧ o.links = m.shut.links ∧
        (∀ a, a ∈ o.agents ↔ a ∈ m.shut.agents ∨ ∃ g < (bytes.length + 7) / 8, a = haOf (pageAt m.pages (m.lva + off + 8 * g))) ∧
        ((t.conns.get {} n).out.find? fun (x : Msg) => x.seq == q) = some { m with parts := ps, shut := o }) ∧
  (m.kind = 1 → m.len ≤ (m.parts.map (·.2)).sum → m.shut.links = [] → ∀ a, ClosesFor s a n (s.conns.get {} n) → (s.conns.get {} n).out = [m] →
    (s.conns.get {} n).landing = [] → (ShutBy s a m.shut → ∃ t, exec (.closedTickPublish (some a)) s = .next t ∧ MessageEnds s t n q ∧ WorkOver s t m.fut wit 0 0) ∧
      (¬ShutBy s a m.shut → ∃ t, exec (.closedTickPublish (some a)) s = .next t ∧ t.conns = s.conns ∧ t.fut = s.fut)) ∧
  (m.kind = 2 → ∀ d, m.dst = some d →
    (∀ bytes bad, m.ty ≠ .b128 → bytes.length = m.ty.bytes → ∃ t, exec (.ackReceive n q (.data 0 bytes [bad])) s = .next t ∧ MessageEnds s t n q ∧ same t ∧ quiet t ∧
      t.replies = s.replies.set s.seq (messageReply m [(d, BitVec.ofInt 64 (codeInt m.ty (leNat bytes)), { bad := bad }), (d + 1, wit, {})])) ∧
    ∃ t, exec (.ackReceive n q .refused) s = .next t ∧ Recorded_ s t m.ctx [2, n, q, m.rva] ∧ MessageEnds s t n q ∧ same t ∧
      t.replies = s.replies.set (s.seq + 1) (messageReply m [(d, 0, { fault := 0x13 }), (d + 1, wit, {})])) ∧
  (m.kind = 2 → m.dst = none → ∃ t, exec (.ackReceive n q .done) s = .next t ∧ MessageEnds s t n q ∧ same t ∧ quiet t ∧ t.replies = s.replies) ∧
  (m.kind = 3 →
    (∃ t, exec (.ackReceive n q .done) s = .next t ∧ MessageEnds s t n q ∧ WorkOver s t m.fut wit 0 0 ∧ same t ∧ quiet t ∧ t.allow = s.allow) ∧
    ∀ key, ((s.conns.get {} n).units.find? fun (x : Nat × Nat) => x.1 == q) = some (q, key) →
      ∃ t, exec (.ackReceive n q .refused) s = .next t ∧ Recorded_ s t m.ctx [3, n, q, m.rva] ∧ MessageEnds s t n q ∧ WorkOver s t m.fut wit 0 0 ∧ same t ∧ UnitBack s t n q key)

/-- R282, R288, R292: a unit of allowance returns; a message that is out is sent again; a connection that makes no progress for 50 ms fails, is reported to the service OS and the pod layer, and gives
those who wait the link failure; a remote read brings its bytes, and its line where it fills one, or the refusal of each load that waits. -/
def Sys2Proof.Claims.Links : Prop := ∀ (s : State) (n q : Nat),
  let k := s.conns.get {} n
  (∀ key, k.opened = true → k.failed = false → (∀ m ∈ k.out, m.seq ≠ q) → (k.units.find? fun (x : Nat × Nat) => x.1 == q) = some (q, key) → s.saved = [] →
    ∃ t, exec (.ackReceive n q .unit) s = .next t ∧ UnitBack s t n q key ∧ t = { s with conns := t.conns, allow := t.allow, lanes := t.lanes }) ∧
  (∀ m, (k.out.find? fun (x : Msg) => x.seq == q) = some m →
    exec (.packetRetransmit n q) s = .next (if k.up = true ∧ k.failed = false then { s with outbox := s.outbox ++ m.out n } else s)) ∧
  (k.opened = true → k.up = true → k.failed = false →
    let out := fun (m : Msg) => m.kind = 1 → (m.parts.map (·.2)).sum < m.len
    let since := fun (y : Nat) => (∃ m ∈ k.out, out m ∧ y = m.sent) ∨ ∃ x ∈ s.rrcFetch, x.2.conn = n ∧ y = x.2.since
    ((∀ y, since y → s.now < max k.progress y + 50000000) → exec (.connectionFail n) s = .next s) ∧
    (∀ i f d, k.out = [] → s.rrcFetch = [(i, f)] → f.conn = n → f.who.lane < 32 → f.dst = some d → f.ty.regs = 1 → s.saved = [] →
      max k.progress f.since + 50000000 ≤ s.now → ∃ t, exec (.connectionFail n) s = .next t ∧ t.rrcFetch = [] ∧
      t.conns = s.conns.set n { k with failed := true, cctl := k.cctl ||| 0x2000000000000000, out := [], held := [] } ∧ t.outbox = s.outbox ++ [[9, n]] ∧
      t.replies = s.replies.set s.seq { who := f.who, team := f.team, regs := [(d, 0, { fault := 0x14, aux := n })], load := true, id := f.id, kind := f.kind }) ∧
    (∀ m, k.out = [m] → out m → max k.progress m.sent + 50000000 ≤ s.now → s.saved = [] → (∀ x ∈ s.rrcFetch, x.2.conn ≠ n) → ∃ t x, exec (.connectionFail n) s = .next t ∧
      t.outbox = s.outbox ++ [[9, n]] ∧ t.conns = s.conns.set n { k with failed := true, cctl := k.cctl ||| 0x2000000000000000, out := [], held := [] } ∧ t.lanes = s.wake.lanes ∧
      (∀ j, t.linkDone n j = s.linkDone n j) ∧ WorkOver s t m.fut 0 0x14 n ∧ t.free = s.free + 1 ∧ t.rrcFetch = s.rrcFetch ∧
      (m.dst = none → t.replies = s.replies ∧ t.imsg = s.imsg.set s.seq x) ∧
      ∀ d, m.dst = some d → t.replies = s.replies.set s.seq (messageReply m [(d, 0, { fault := 0x14, aux := n }), (d + 1, 0, { fault := 0x14, aux := n })]) ∧
        t.imsg = s.imsg.set (s.seq + 1) x)) ∧
  ∀ (i d : Nat) (f : RrcFetch), s.rrcFetch.find? i = some f → (s.conns.get {} f.conn).up = true → (s.conns.get {} f.conn).failed = false → f.who.lane < 32 → f.dst = some d →
    f.ty ≠ .b128 → f.size = f.ty.bytes → f.rva % f.size = 0 →
    let conns := s.conns.set f.conn { s.conns.get {} f.conn with progress := s.now }
    let reply := fun (regs : List (Nat × Word × Mark)) => ({ who := f.who, team := f.team, regs := regs, load := true, id := f.id, kind := f.kind } : Machine.Reply)
    (∀ bytes bad, f.fill = false → bytes.length = f.size → exec (.rrcFetchComplete i (some bytes) [bad]) s = .next { s with
      conns := conns, rrcFetch := s.rrcFetch.filter (fun (x : Nat × RrcFetch) => x.1 != i), seq := s.seq + 1, lanes := s.wake.lanes
      replies := s.replies.set s.seq (reply [(d, BitVec.ofInt 64 (codeInt f.ty (leNat bytes)), { bad := bad })]) }) ∧
    ((s.rrcFetch.filter fun (x : Nat × RrcFetch) => x.2.fill && x.2.ctx == f.ctx && x.2.pkg == f.pkg && x.2.rva / 1024 == f.rva / 1024) = [(i, f)] → f.fill = true →
      s.rrcFetch = [(i, f)] →
      (∀ bytes bad, bytes.length = 1024 → s.rrc.length < 2 ^ 18 → ∃ t, exec (.rrcFetchComplete i (some bytes) bad) s = .next t ∧
        t = { s with conns := conns, rrcFetch := [], seq := s.seq + 1, lanes := s.wake.lanes, replies := t.replies, rrc := t.rrc } ∧
        t.replies = s.replies.set s.seq (reply [(d, BitVec.ofInt 64 (codeInt f.ty (leNat ((bytes.drop (f.rva % 1024)).take f.size))), { bad := bad.getD (f.rva % 1024 / 8) false })]) ∧
        t.rrc.getLast? = some { ctx := f.ctx, pkg := f.pkg, rva := f.rva / 1024 * 1024, page := f.page, bytes := bytes, bad := bad }) ∧
      ∃ t, exec (.rrcFetchComplete i none []) s = .next t ∧ Recorded_ s t f.ctx [1, f.conn, 0, f.rva] ∧ t.rrc = s.rrc ∧ t.rrcFetch = [] ∧
        t.replies = s.replies.set (s.seq + 1) (reply [(d, 0, { fault := 0x13 })]))


namespace Sys2Proof.Claims

-- Palette

/-- A free slot outside the reserve (R379). -/
def freeSlot (p : PalCtx) (i : Nat) : Prop := i < p.count ∧ i ∉ p.used ∧ i ∉ p.reserve

/-- An index operand names an allocated slot (R381). -/
def allocated (p : PalCtx) (v : Word) : Prop := v.toNat < p.count ∧ v.toNat ∈ p.used

/-- Context ctx's Palette, and no other, has become p; lanes and what else `rest` allows are said elsewhere. -/
def withPal (s : State) (ctx : Nat) (p : PalCtx) : State := { s with pal := s.pal.set ctx p }

/-- Lane l parks in the middle of its word, at Palette. -/
def ParksAt (s u t : State) (l : Nat) : Prop :=
  t = { u with lanes := t.lanes } ∧ (t.lane s.cur.core s.cur.slot l).park = .queue ∧ (t.lane s.cur.core s.cur.slot l).since = s.now ∧
    (t.lane s.cur.core s.cur.slot l).pc = (s.lane s.cur.core s.cur.slot l).pc ∧ ∀ k, k ≠ laneKey s.cur.core s.cur.slot l → t.lanes.get {} k = s.lanes.get {} k

/-- What lane l waits for at Palette. -/
def palLane (s : State) (l : Nat) (d : BitVec 8) : PalWait := { who := ⟨s.cur.core, s.cur.slot, l⟩, team := s.ownKey s.cur.core, dst := (dsts d 1).head?, since := s.now }

/-- The units still withheld when the reserve is `short` slots short (R289). -/
def stillHeld (p : PalCtx) (short : Nat) : List (Nat × Nat) := p.held.drop (p.held.length - short)
def sentBack (p : PalCtx) (short : Nat) : List (List Nat) := (p.held.take (p.held.length - short)).map fun (x : Nat × Nat) => [4, x.1, x.2]

end Sys2Proof.Claims

/-- R379-R381: `psget` takes a free slot or parks, `psput` gives one to the reserve where that is short, with the units it withheld, else to the oldest lane that
waits, else to the free list; `psq` appends with the fence of the lane's writes, `psdq` takes the oldest entry once its witness is satisfied. With `.nb` an empty
Palette or queue gives all ones. Bad indexes, free slots and full queues raise the Palette fault, queues above 15 the illegal-operand trap.
Which slot is a free value: log entry 10. -/
def Sys2Proof.Claims.Palette_words : Prop := ∀ (s : State) (f : Eng) (l : Nat),
  let (c, w) := (s.cur.core, s.cur.slot)
  let ctx := (s.team c).ctx
  let p := s.pal.get {} ctx
  let a := s.op64 c w l f.a
  let q := (s.op64 c w l f.b).toNat
  let nb := f.mod.toNat % 2 = 1
  (s.Alone (.psget f) l → (p.count = 0 → Traps s s (.psget f) l 0x16 0 0) ∧
    ((∃ i, freeSlot p i) → ∃ t i, exec (.psget f) s = .next t ∧ freeSlot p i ∧
      Leaves s l f.d (BitVec.ofNat 64 i) { withPal s ctx { p with used := i :: p.used } with free := s.free + 1 } t) ∧
    (p.count ≠ 0 → (∀ i, ¬freeSlot p i) →
      (nb → ∃ t, exec (.psget f) s = .next t ∧ Leaves s l f.d 0xFFFFFFFFFFFFFFFF s t) ∧
      (¬nb → ∃ t, exec (.psget f) s = .next t ∧ ParksAt s (withPal s ctx { p with getWait := p.getWait ++ [palLane s l f.d] }) t l))) ∧
  (s.Alone (.psput f) l → (¬allocated p a → Traps s s (.psput f) l 0x16 0 0) ∧
    (allocated p a → p.used.Nodup → let less := p.used.erase a.toNat
      (p.reserve.length < p.resv → let short := p.resv - (p.reserve.length + 1)
        ∃ t, exec (.psput f) s = .next t ∧
          Past s (.psput f) [] { withPal s ctx { p with used := less, reserve := p.reserve ++ [a.toNat], held := stillHeld p short } with outbox := s.outbox ++ sentBack p short } t) ∧
      (p.resv ≤ p.reserve.length → p.getWait = [] → ∃ t, exec (.psput f) s = .next t ∧ Past s (.psput f) [] (withPal s ctx { p with used := less }) t) ∧
      (p.resv ≤ p.reserve.length → ∀ x d, p.getWait = [x] → x.dst = some d → d < 192 → a.toNat ∉ p.reserve → (∀ i, ¬freeSlot p i) → residentTeam s x.who.core x.team → s.saved = [] →
        let (c', w', l') := (x.who.core, x.who.slot, x.who.lane)
        (c', w', l') ≠ (c, w, l) → w < 64 → w' < 64 → l < 32 → l' < 32 → (s.lane c' w' l').park = .queue → ∃ t, exec (.psput f) s = .next t ∧ t.reg c' w' l' d = BitVec.ofNat 64 a.toNat ∧
          (t.lane c' w' l').park = .none ∧ (t.lane c' w' l').pc = (s.lane c' w' l').next.pc ∧ t.pal.get {} ctx = { p with used := a.toNat :: less, getWait := [] } ∧ t.mem = s.mem))) ∧
  (s.Alone (.psq f) l → (15 < q → Traps s s (.psq f) l 0x05 0 0) ∧
    (q ≤ 15 → (¬allocated p a → Traps s s (.psq f) l 0x16 0 0) ∧
      (allocated p a → let es := p.queues.get [] q
        (p.count ≤ es.length → Traps s s (.psq f) l 0x16 0 0) ∧
        (es.length < p.count → (s.stamped c w l = false → Retries s (.psq f) l s) ∧
          ∀ g, s.stamped c w l = true → s.fenceWit c w l 7 = some g → p.takeWait.get [] q = [] → ∃ t u, exec (.psq f) s = .next t ∧ Past s (.psq f) [] u t ∧
            (∀ j, u.pal.get {} j = if j = ctx then { p with queues := p.queues.set q (es ++ [(a.toNat, g)]) } else s.pal.get {} j) ∧ u = { s with pal := u.pal })))) ∧
  (s.Alone (.psdq f) l → (15 < q → Traps s s (.psdq f) l 0x05 0 0) ∧
    (q ≤ 15 → (p.count = 0 → Traps s s (.psdq f) l 0x16 0 0) ∧
      (p.count ≠ 0 → p.takeWait.get [] q = [] →
        (∀ i wit es, p.queues.get [] q = (i, wit) :: es → p.broken = false → c < 1536 → HoldsWit wit →
          let u := withPal s ctx { p with queues := p.queues.set q es }
          (Satisfied s c wit → ∃ t, exec (.psdq f) s = .next t ∧ Leaves s l f.d (BitVec.ofNat 64 i) { u with nv := t.nv } t) ∧
          (¬Satisfied s c wit → ∃ t, exec (.psdq f) s = .next t ∧ t = { u with lanes := t.lanes } ∧
            (t.lane c w l).park = .slotGot wit (dsts f.d 1).head? (BitVec.ofNat 64 i) ∧ (t.lane c w l).pc = (s.lane c w l).pc)) ∧
        (p.queues.get [] q = [] → (nb → ∃ t, exec (.psdq f) s = .next t ∧ Leaves s l f.d 0xFFFFFFFFFFFFFFFF s t) ∧
          (¬nb → ∃ t, exec (.psdq f) s = .next t ∧ ParksAt s (withPal s ctx { p with takeWait := p.takeWait.set q [palLane s l f.d] }) t l)))))

/-- R289, R290: a record that the reserve has room for goes into a slot of it: its 64 bytes, its sender, its number, zeros. Once those writes have closed the slot joins its
stage queue with a frontier of that moment, and the unit of allowance stays out. With no reserve slot it waits; where its slot cannot be written it is refused, and the unit
returns. -/
def Sys2Proof.Claims.Records : Prop := ∀ (s : State) (k : Nat) (r : RecordIn), s.inbox.find? k = some r →
  let p := s.pal.get {} r.ctx
  (r.placed = none → p.reserve = [] → exec (.recordPlace k) s = .next s) ∧
  (r.placed = none → ∀ i rest, p.reserve = i :: rest →
    let a := p.base + 256 * i
    let dwords := r.words ++ [BitVec.ofNat 64 (r.lane * 2 ^ 43 + r.core * 2 ^ 32 + r.conn * 2 ^ 16 + r.pkg), BitVec.ofNat 64 r.seq] ++ List.replicate 22 0
    let found := s.placeAll none r.ctx false .st ((List.range 32).map fun j => (a + 8 * j, 8))
    (∀ u e, found = (u, .error e) → ∃ t, exec (.recordPlace k) s = .next t ∧ t.mem = u.mem ∧ t.pal = u.pal ∧ t.inbox = s.inbox.erase k ∧
      t.outbox = s.outbox ++ [[3, r.conn, r.seq], [4, r.conn, r.endp]]) ∧
    ∀ u xs, found = (u, .ok xs) → u.mons = [] → u.saved = [] → (∀ x ∈ xs, ∃ pa, x.1 = .hbm pa ∧ u.place (.hbm pa) = .hbm pa) → s.wf →
      r.words.length = 8 → r.lane < 32 → r.core < 2048 → r.conn < 65536 → r.pkg < 65536 → r.seq < 2 ^ 40 →
      ∃ t v o, exec (.recordPlace k) s = .next t ∧ Stored u v (xs.zip dwords |>.map fun (x : (Loc × Word × Nat) × Word) => (x.1.1, leBytes 8 x.2.toNat)) ∧ t.mem = v.mem ∧
        OpenAt s (fun b => ∃ x ∈ xs, b = (u.place x.1).agent) o ∧ t.inbox = s.inbox.set k { r with placed := some (i, o) } ∧ t.outbox = s.outbox ∧
        (∃ br, t.pal.get {} r.ctx = { p with broken := br, reserve := rest, used := i :: p.used }) ∧
        ∀ j, j ≠ r.ctx → { t.pal.get {} j with broken := false } = { s.pal.get {} j with broken := false }) ∧
  ∀ i o, r.placed = some (i, o) → o.links = [] → (¬Shut s o → exec (.recordPlace k) s = .next s) ∧
    (Shut s o → p.takeWait.get [] r.stq = [] → (∀ j, ¬freeSlot p j) → p.resv = p.reserve.length + p.held.length + 1 →
      ∃ t, exec (.recordPlace k) s = .next t ∧ t.mem = s.mem ∧ t.inbox = s.inbox.erase k ∧ t.outbox = s.outbox ∧
        t.pal.get {} r.ctx = { p with held := p.held ++ [(r.conn, r.endp)], queues := p.queues.set r.stq (p.queues.get [] r.stq ++ [(i, Machine.frontier 7 s.now)]) } ∧
        ∀ j, j ≠ r.ctx → t.pal.get {} j = s.pal.get {} j)


namespace Sys2Proof.Claims

-- The intersection unit: issue

/-- A target descriptor of the layout of R372: base, width and height in tiles. -/
def TargetForm (ws : List Word) (base tw th : Nat) : Prop :=
  let b := dwordBits ws
  b 0 63 52 = 0 ∧ b 0 15 0 = 0 ∧ b 1 63 32 = 0 ∧ b 2 63 0 = 0 ∧ b 3 63 0 = 0 ∧ 1 ≤ b 1 15 0 ∧ b 1 15 0 ≤ 1024 ∧ 1 ≤ b 1 31 16 ∧ b 1 31 16 ≤ 1024 ∧
    base = b 0 63 0 ∧ tw = b 1 15 0 ∧ th = b 1 31 16

/-- The descriptor that lane l's operand names, as one load at issue finds it (R348): its dwords, a wait for the lane's own writes, or a fault with its address. -/
def descFound (s u : State) (l : Nat) (b : BitVec 8) (n : Nat) : State × Except (Nat × Nat) (Option (List Word)) :=
  u.descAt s.cur.core s.cur.slot l (s.op64 s.cur.core s.cur.slot l b).toNat n

/-- The instance that lane l alone makes, in the unit's queue (R362). -/
def iuInstance (s : State) (l kind : Nat) (flag : Bool) (x : IuLane) : IuJob :=
  { kind := kind, slot := s.cur.slot, team := s.ownKey s.cur.core, ctx := (s.team s.cur.core).ctx, cls := s.laneClass s.cur.core s.cur.slot l
    user := s.isUser s.cur.core s.cur.slot l, flag := flag, id := s.seq, lanes := [x] }

/-- From u the instance has joined the unit's queue, and lane l has gone on with a pending handle in D and n registers after it that wait for results. -/
def JoinsUnit (s u t : State) (l : Nat) (d : BitVec 8) (n kind : Nat) (flag : Bool) (x : FutRef → IuLane) : Prop :=
  let (c, w) := (s.cur.core, s.cur.slot)
  ∃ (y : State) (fut : FutRef), TakesEntry c false fut u y ∧
    LanesOnly c w [l] [l] (dsts d (n + 1)) false { u with
      fut := y.fut, free := y.free, seq := u.seq + 1, iu := u.iu.set c (u.iu.get [] c ++ [iuInstance s l kind flag (x fut)]) } t ∧
    (∀ r ∈ dsts d 1, (t.mark c w l r).fut = some fut ∧ wKind (t.reg c w l r) = 0xE) ∧ ∀ k < n, (t.mark c w l (d.toNat + 1 + k)).pend = s.seq + 1

/-- The unit's queue and the future table have room (R362, R344). -/
def unitRoom (s : State) : Prop := (s.iu.get [] s.cur.core).length < 64 ∧ s.futRoom s.cur.core 1 false = true

/-- No instance of the unit has the next number. -/
def unitFresh (s : State) : Prop := ∀ y ∈ s.iu.get [] s.cur.core, y.id ≠ s.seq

/-- Half k of the words that a range of registers gives lane l. -/
def halfOf (s : State) (l : Nat) (a : BitVec 8) (k : Nat) : Nat := (s.opndAt s.cur.core s.cur.slot l a (k / 2)).toNat / 2 ^ (32 * (k % 2)) % 2 ^ 32

/-- Half k read as an i32. -/
def intOf (s : State) (l : Nat) (a : BitVec 8) (k : Nat) : Int := codeInt .i32 (halfOf s l a k)

end Sys2Proof.Claims

/-- R344, R362, R366, R367, R372, R373, R376: `trav`, `tvis` and `occq` join the unit's queue with a pending handle, and wait while it or the future table is full; a malformed target
stops the instance, a coordinate out of range its lane, a page that may not be written its lane with its fault; `occq`'s predicate word meets the checks of atomics. -/
def Sys2Proof.Claims.Intersection_words : Prop := ∀ (s : State) (f : Eng) (l : Nat),
  let (c, w) := (s.cur.core, s.cur.slot)
  let flag := f.mod.toNat % 2 == 1
  let ranged := ∀ k < 6, -2 ^ 23 ≤ intOf s l f.a k ∧ intOf s l f.a k < 2 ^ 23
  let regs := fun (n : Nat) (a : BitVec 8) => (List.range n).map fun k => s.opndAt c w l a k
  (∀ i ∈ [Instr.trav f, .tvis f, .occq f], s.Alone i l → ¬unitRoom s → Retries s i l s) ∧
  (s.Alone (.trav f) l → unitRoom s → unitFresh s → f.d.toNat < 125 → ∃ t, exec (.trav f) s = .next t ∧ JoinsUnit s s t l f.d 3 0 flag fun fut =>
    { lane := l, words := regs 4 f.a, desc := [s.op64 c w l f.b], place := none, dst := f.d.toNat, fut := fut }) ∧
  (s.Alone (.tvis f) l → unitRoom s → unitFresh s →
    let found := descFound s s l f.b 32
    (∀ u ws, found = (u, .ok (some ws)) → (∀ b tw th, ¬TargetForm ws b tw th) → Traps s s (.tvis f) l 0x05 0 0) ∧
    (¬ranged → (∀ u ws, found = (u, .ok (some ws)) → ∃ b tw th, TargetForm ws b tw th) → Traps s s (.tvis f) l 0x05 0 0) ∧
    (ranged → (∀ u k a, found = (u, .error (k, a)) → Traps s u (.tvis f) l k a 0) ∧ (∀ u, found = (u, .ok none) → Retries s (.tvis f) l u) ∧
      ∀ u ws b tw th, found = (u, .ok (some ws)) → TargetForm ws b tw th →
        (∀ v k a, u.targetPages c (u.isUser c w l) b (tw * th) = (v, some (k, a)) → Traps s v (.tvis f) l k a 0) ∧
        ∀ v, u.targetPages c (u.isUser c w l) b (tw * th) = (v, none) → v.iu = s.iu → v.seq = s.seq → v.fut = s.fut → ∃ t, exec (.tvis f) s = .next t ∧
          JoinsUnit s v t l f.d 0 1 flag fun fut => { lane := l, words := regs 6 f.a, desc := ws, place := none, dst := f.d.toNat, fut := fut })) ∧
  (s.Alone (.occq f) l → unitRoom s → unitFresh s →
    let a := (s.op64 c w l f.a).toNat
    (∀ u ws, descFound s s l f.c 32 = (u, .ok (some ws)) → (∀ b tw th, ¬TargetForm ws b tw th) → Traps s s (.occq f) l 0x05 0 0) ∧
    ((∀ u ws, descFound s s l f.c 32 = (u, .ok (some ws)) → ∃ b tw th, TargetForm ws b tw th) →
      (∀ u k, placeOf s l .g .atomic a 8 = (u, .error k) → Traps s u (.occq f) l k a 0) ∧
      ∀ u y leaf, placeOf s l .g .atomic a 8 = (u, .ok (y, leaf)) →
        (match y with | .host _ | .peer .. => Traps s u (.occq f) l 0x0C a 0 | _ => True) ∧
        ∀ v ws b tw th x, asked y → descFound s u l f.c 32 = (v, .ok (some ws)) → TargetForm ws b tw th → v.targetPages c (v.isUser c w l) b (tw * th) = (x, none) →
          x.iu = s.iu → x.seq = s.seq → x.fut = s.fut → ∃ t, exec (.occq f) s = .next t ∧
          JoinsUnit s x t l f.d 0 2 false fun fut => { lane := l, words := regs 2 f.b, desc := ws, place := some (y, leaf), dst := f.d.toNat, fut := fut }))


namespace Sys2Proof.Claims

-- The intersection unit: its work

/-- Numeric order, with −0 = +0 and NaN unordered. -/
def numLe : ExtQ → ExtQ → Prop
  | .nan, _ | _, .nan => False
  | .inf true, _ | _, .inf false => True
  | _, .inf true | .inf false, _ => False
  | .val x _, .val y _ => x ≤ y

def numLt (a b : ExtQ) : Prop := numLe a b ∧ ¬numLe b a

/-- An f32 code's value, and an f64 code's. -/
def v32 (c : Nat) : ExtQ := extQ (f32.val c)
def v64 (c : Nat) : ExtQ := extQ (f64.val c)

/-- RND to f32 and RNE to f64 of an exact value. -/
def rnd (rm : Rm) (c : Nat) (r : ExtQ) : Prop := once f32 rm false c r
def rne64 (c : Nat) (r : ExtQ) : Prop := once f64 .rne false c r

/-- Axis i of BOX (R369): its entry n and exit f, for a box whose six codes are b. -/
def AxisSpan (r : Ray) (b : Nat → Nat) (i : Nat) (n f : ExtQ) : Prop :=
  ∃ q x lo y hi, rnd .rne q (divR (.val 1 false) (v32 (r.d.getD i 0))) ∧
    rnd .rdn x (sumR .rdn [v32 (b i), negR (v32 (r.o.getD i 0))]) ∧ rnd .rdn lo (mulR (v32 x) (v32 q)) ∧
    rnd .rup y (sumR .rup [v32 (b (i + 3)), negR (v32 (r.o.getD i 0))]) ∧ rnd .rup hi (mulR (v32 y) (v32 q)) ∧
    ((v32 lo).isNan = true ∨ (v32 hi).isNan = true → n = .inf true ∧ f = .inf false) ∧
    ((v32 lo).isNan = false → (v32 hi).isNan = false →
      (n = v32 lo ∨ n = v32 hi) ∧ numLe n (v32 lo) ∧ numLe n (v32 hi) ∧ (f = v32 lo ∨ f = v32 hi) ∧ numLe (v32 lo) f ∧ numLe (v32 hi) f)

/-- BOX (R369): whether the ray hits the box. -/
def BoxHit (r : Ray) (b : Nat → Nat) (hit : Prop) : Prop :=
  ∃ (n f : Nat → ExtQ) (near far : ExtQ), (∀ i < 3, AxisSpan r b i (n i) (f i)) ∧ (∃ i < 3, near = n i) ∧ (∀ i < 3, numLe (n i) near) ∧
    (∃ i < 3, far = f i) ∧ (∀ i < 3, numLe far (f i)) ∧ (hit ↔ numLe near far ∧ numLe (v32 r.tmin) far ∧ numLe near (v32 r.tmax))

/-- The axis with the largest |d|, the lowest winning ties (R370). -/
def largestAxis (r : Ray) (k : Nat) : Prop :=
  let m := fun (i : Nat) => |(v32 (r.d.getD i 0)).rat|
  k < 3 ∧ (∀ i < 3, m i ≤ m k) ∧ ∀ i < k, m i < m k

/-- TRI (R370) on the nine codes of a triangle: t, u and v of a hit, or none. -/
def TriGives (r : Ray) (p : Nat → Nat) (res : Option (Nat × Nat × Nat)) : Prop :=
  ∃ (kz kx ky sx sy sz : Nat) (q : Nat → Nat → Nat) (x y z : Nat → Nat) (U V W : Nat), largestAxis r kz ∧
    (let d := fun (i : Nat) => v32 (r.d.getD i 0)
     (if (d kz).rat < 0 then kx = (kz + 2) % 3 ∧ ky = (kz + 1) % 3 else kx = (kz + 1) % 3 ∧ ky = (kz + 2) % 3) ∧
     rnd .rne sx (divR (d kx) (d kz)) ∧ rnd .rne sy (divR (d ky) (d kz)) ∧ rnd .rne sz (divR (.val 1 false) (d kz))) ∧
    (∀ v < 3, (∀ i < 3, rnd .rne (q v i) (sumR .rne [v32 (p (3 * v + i)), negR (v32 (r.o.getD i 0))])) ∧
      rnd .rne (x v) (sumR .rne [v32 (q v kx), negR (mulR (v32 sx) (v32 (q v kz)))]) ∧
      rnd .rne (y v) (sumR .rne [v32 (q v ky), negR (mulR (v32 sy) (v32 (q v kz)))]) ∧ rnd .rne (z v) (mulR (v32 sz) (v32 (q v kz)))) ∧
    (let X := fun (v : Nat) => v32 (x v)
     let Y := fun (v : Nat) => v32 (y v)
     let edge := fun (c : Nat) (a b : Nat) => rne64 c (sumR .rne [mulR (X a) (Y b), negR (mulR (Y a) (X b))])
     edge U 2 1 ∧ edge V 0 2 ∧ edge W 1 0) ∧
    (let ok := ((∀ c ∈ [U, V, W], numLe (.val 0 false) (v64 c)) ∨ ∀ c ∈ [U, V, W], numLe (v64 c) (.val 0 false)) ∧ ∃ c ∈ [U, V, W], numLt (.val 0 false) (v64 c) ∨ numLt (v64 c) (.val 0 false)
     (¬ok → res = none) ∧
     (ok → ∃ s det m n T t u v, rne64 s (sumR .rne [v64 U, v64 V]) ∧ rne64 det (sumR .rne [v64 s, v64 W]) ∧ rne64 m (mulR (v64 U) (v32 (z 0))) ∧
        rne64 n (sumR .rne [v64 m, mulR (v64 V) (v32 (z 1))]) ∧ rne64 T (sumR .rne [v64 n, mulR (v64 W) (v32 (z 2))]) ∧
        rnd .rne t (divR (v64 T) (v64 det)) ∧ rnd .rne u (divR (v64 V) (v64 det)) ∧ rnd .rne v (divR (v64 W) (v64 det)) ∧ res = some (t, u, v)))

/-- A hit: address of its triangle record, t, u, v and triangle id. -/
abbrev Hit := Nat × Nat × Nat × Nat × Nat

/-- One triangle record at address a (R368): best and hit before and after. -/
def Scanned (r : Ray) (p : Nat → Nat) (a : Nat) (x y : Nat × Option Hit) : Prop :=
  ∃ res, TriGives r p res ∧ (res = none → y = x) ∧ ∀ t u v, res = some (t, u, v) →
    let takes := numLe (v32 r.tmin) (v32 t) ∧ ((x.2 = none → numLe (v32 t) (v32 x.1)) ∧ (x.2 ≠ none → numLt (v32 t) (v32 x.1)))
    (takes → y = (t, some (a, t, u, v, p 9))) ∧ (¬takes → y = x)

/-- The unit reads n aligned pieces of 16 bytes from address a at pa, in HBM, with no poison (R371). -/
def UnitReads (s : State) (c : Nat) (j : IuJob) (a n : Nat) (pa : Nat → Nat) : Prop :=
  ∀ k < n, (∃ leaf, s.xlate (some c) j.ctx j.user (.ld 16) (a + 16 * k) 16 = (s, .ok (.hbm (pa k), leaf))) ∧ rowHere s j.ctx (.hbm (pa k)) ∧
    s.badIn (s.place (.hbm (pa k))) 8 = false ∧ s.badIn ((s.place (.hbm (pa k))).add 8) 8 = false

/-- The n bytes from offset o of what it reads, as a number. -/
def unitWord (s : State) (pa : Nat → Nat) (o n : Nat) : Nat :=
  leNat ((List.range n).map fun b => s.byte ((s.place (.hbm (pa ((o + b) / 16)))).add ((o + b) % 16)))

/-- A leaf of n records at address a (R365, R368): the best hit from start on. With `.any` the first hit ends it. -/
def LeafGives (s : State) (r : Ray) (any : Bool) (pa : Nat → Nat) (a n : Nat) (start out : Nat × Option Hit) : Prop :=
  ∃ (b : Nat → Nat × Option Hit) (m : Nat), m ≤ n ∧ b 0 = start ∧ out = b m ∧
    (∀ k < m, Scanned r (fun i => unitWord s pa (48 * k + 4 * i) 4) (a + 48 * k) (b k) (b (k + 1))) ∧
    (any = false → m = n) ∧ (any = true → (∀ k < m, (b k).2 = none) ∧ (m = n ∨ (b m).2 ≠ none))

/-- A leaf's records are well formed (R365). -/
def leafForm (s : State) (pa : Nat → Nat) (n : Nat) : Prop := ∀ k < n, unitWord s pa (48 * k + 40) 8 = 0

/-- A reference of the layout of R363: kind, count, address. -/
def RefForm (x : Word) (kind cnt a : Nat) : Prop :=
  let f := fun (hi lo : Nat) => x.toNat / 2 ^ lo % 2 ^ (hi + 1 - lo)
  kind = f 63 62 ∧ cnt = f 61 56 ∧ a = f 51 0 ∧ f 55 52 = 0 ∧ (kind = 0 → cnt = 0 ∧ a = 0) ∧ (kind = 1 → cnt = 0 ∧ a % 64 = 0) ∧ (kind = 2 → a % 16 = 0) ∧ kind < 3

/-- A ray that misses with no access (R367). -/
def voidRay (r : Ray) : Prop :=
  (∃ c ∈ r.o ++ r.d ++ [r.tmin, r.tmax], (v32 c).isNan = true ∨ (v32 c).isInf true = true ∨ (v32 c).isInf false = true) ∨ numLt (v32 r.tmax) (v32 r.tmin) ∨ ∀ c ∈ r.d, (v32 c).rat = 0

/-- The hit record (R367). -/
def hitRecord (tmax : Nat) (h : Option Hit) : List Word :=
  match h with
  | some (a, t, u, v, tid) => [BitVec.ofNat 64 (t + u * 2 ^ 32), BitVec.ofNat 64 (v + tid * 2 ^ 32), BitVec.ofNat 64 a]
  | none => [BitVec.ofNat 64 tmax, 0xFFFFFFFF00000000, 0]

/-- From s to t the unit's oldest instance, of one lane, has ended: its results set out, and its handle's work is over. -/
def RayEnds (s t : State) (c : Nat) (j : IuJob) (x : IuLane) (rest : List IuJob) (h : Option Hit) : Prop :=
  WorkOver s t x.fut 0 0 0 ∧
  t = { s with fut := t.fut, iu := s.iu.set c rest, seq := s.seq + 1, lanes := s.wake.lanes
               replies := s.replies.set s.seq { who := ⟨c, j.slot, x.lane⟩, team := j.team, load := false, id := j.id
                                                regs := (List.range 3).map fun k => (x.dst + 1 + k, (hitRecord (rayOf x.words).tmax h).getD k 0, ({} : Mark)) } }

/-- The signed area term of two points and a sample (R374). -/
def areaOf (p q s : Int × Int) : Int := (q.1 - p.1) * (s.2 - p.2) - (q.2 - p.2) * (s.1 - p.1)

/-- Sample (px, py) is covered by a triangle (R374): its vertices, and the order in which the positive winding takes them. -/
def Covers (cull : Bool) (v : Nat → Int × Int) (order : Nat → Nat) (px py : Nat) : Prop :=
  let a := areaOf (v 0) (v 1) (v 2)
  let p := fun (k : Nat) => v (order (k % 3))
  let e := fun (k : Nat) => areaOf (p (k + 1)) (p (k + 2)) (256 * px + 128, 256 * py + 128)
  let topLeft := fun (k : Nat) => (p (k + 2)).2 < (p (k + 1)).2 ∨ ((p (k + 2)).2 = (p (k + 1)).2 ∧ (p (k + 1)).1 < (p (k + 2)).1)
  a ≠ 0 ∧ (a < 0 → cull = false) ∧ (∀ k < 3, order k = if a < 0 then [0, 2, 1].getD k 0 else k) ∧ ∀ k < 3, 0 < e k ∨ (e k = 0 ∧ topLeft k)

/-- The depth code of a covered sample (R374). -/
def DepthOf (v : Nat → Int × Int) (zs order : Nat → Nat) (px py z : Nat) : Prop :=
  let a := |areaOf (v 0) (v 1) (v 2)|
  let p := fun (k : Nat) => v (order (k % 3))
  let e := fun (k : Nat) => areaOf (p (k + 1)) (p (k + 2)) (256 * px + 128, 256 * py + 128)
  let zz := fun (k : Nat) => v32 (zs (order k))
  ∃ b1 b2 d1 d2 m, rnd .rne b1 (.val (e 1 / a : ℚ) false) ∧ rnd .rne b2 (.val (e 2 / a : ℚ) false) ∧
    rnd .rne d1 (sumR .rne [zz 1, negR (zz 0)]) ∧ rnd .rne d2 (sumR .rne [zz 2, negR (zz 0)]) ∧
    rnd .rne m (sumR .rne [mulR (v32 b1) (v32 d1), zz 0]) ∧ rnd .rne z (sumR .rne [mulR (v32 b2) (v32 d2), v32 m])

/-- Address of sample (px, py) (R372). -/
def sampleAt (base tw px py : Nat) : Nat := base + (py / 64 * tw + px / 64) * 65536 + (py % 64 * 64 + px % 64) * 16

end Sys2Proof.Claims

/-- R367-R371: a void ray or an empty root misses with no access; a malformed root stops the lane, whose handle's first reader takes the engine fault; a leaf gives its nearest
hit, by TRI, or with `.any` its first; a node with one leaf gives that leaf's where BOX hits. The hit record and the null witness set out.
What is tested first is the model's reading: log entry 54. -/
def Sys2Proof.Claims.Ray_traversal : Prop := ∀ (s : State) (c : Nat) (j : IuJob) (x : IuLane) (rest : List IuJob),
  s.iu.get [] c = j :: rest → j.kind = 0 → j.lanes = [x] → x.walk = none → x.words.length = 4 → Holds s x.fut → x.fut.core = c →
  let r := rayOf x.words
  let root := x.desc.getD 0 0
  let void := voidRay r ∨ RefForm root 0 0 0
  (void → ∃ t, exec (.iuInstanceStart c) s = .next t ∧ RayEnds s t c j x rest none) ∧
  (¬void → (∀ k n a, ¬RefForm root k n a) → ∃ t, exec (.iuInstanceStart c) s = .next t ∧ WorkOver s t x.fut 0 0x15 0 ∧ t.mem = s.mem ∧ t.iu.get [] c = rest) ∧
  (∀ n a pa, ¬void → RefForm root 2 n a → UnitReads s c j a (3 * (n + 1)) pa → leafForm s pa (n + 1) →
    ∃ t out, exec (.iuInstanceStart c) s = .next t ∧ LeafGives s r j.flag pa a (n + 1) (r.tmax, none) out ∧ RayEnds s t c j x rest out.2) ∧
  ∀ a pa, ¬void → RefForm root 1 0 a → UnitReads s c j a 4 pa →
    let ref := fun (k : Nat) => (BitVec.ofNat 64 (unitWord s pa (48 + 8 * k) 8) : Word)
    ∀ k < 2, ∀ n b pb, RefForm (ref k) 2 n b → RefForm (ref (1 - k)) 0 0 0 → UnitReads s c j b (3 * (n + 1)) pb → leafForm s pb (n + 1) →
      ∃ t hit out, exec (.iuInstanceStart c) s = .next t ∧ BoxHit r (fun i => unitWord s pa (24 * k + 4 * i) 4) hit ∧
        (hit → LeafGives s r j.flag pb b (n + 1) (r.tmax, none) out) ∧ (¬hit → out.2 = none) ∧ RayEnds s t c j x rest out.2

/-- R374-R376: `tvis` sends one update for each covered sample of its target, and its handle is null where there is none; `occq` sets its predicate word where some sample of
its rectangle is no nearer than zmin. An update puts the sample's new entry where its key is the lesser. With the last update of a lane done, its handle is ready with a
pk frontier once each has closed.
That pages are tested at issue is the model's reading: log entry 54. -/
def Sys2Proof.Claims.Visibility : Prop := ∀ (s : State) (c : Nat) (j : IuJob) (x : IuLane) (rest : List IuJob) (b tw th : Nat) (pa : Nat → Nat → Nat) (leaf : Nat → Nat → Word),
  let half := fun (k : Nat) => (x.words.getD (k / 2) 0).toNat / 2 ^ (32 * (k % 2)) % 2 ^ 32
  let samples := fun (acc : Acc) => ∀ px < 64 * tw, ∀ py < 64 * th, s.xlate (some c) j.ctx j.user acc (sampleAt b tw px py) 16 = (s, .ok (.hbm (pa px py), leaf px py))
  (s.iu.get [] c = j :: rest → j.lanes = [x] → TargetForm x.desc b tw th → Holds s x.fut → x.fut.core = c →
    (j.kind = 1 → samples .atomic →
      let v := fun (k : Nat) => (codeInt .i32 (half (2 * k)), codeInt .i32 (half (2 * k + 1)))
      let zs := fun (k : Nat) => half (6 + k)
      let covered := fun (px py : Nat) => px < 64 * tw ∧ py < 64 * th ∧ ∃ order, Covers j.flag v order px py
      ∃ t ps, exec (.iuInstanceStart c) s = .next t ∧ t.mem = s.mem ∧ t.iu.get [] c = rest ∧ (ps.map fun (p : Nat × Nat × Nat) => (p.1, p.2.1)).Nodup ∧
        (∀ p ∈ ps, covered p.1 p.2.1) ∧
        (∀ px py, covered px py → ∃ order z, Covers j.flag v order px py ∧ DepthOf v zs order px py z ∧ ((v32 z).isNan = true → ∀ y, (px, py, y) ∉ ps) ∧
          ((v32 z).isNan = false → (px, py, z) ∈ ps)) ∧
        (ps = [] → WorkOver s t x.fut 0 0 0 ∧ t.reqs = s.reqs) ∧
        (ps ≠ [] → t.seq = s.seq + 1 + ps.length ∧
          t.joins.find? s.seq = some { who := ⟨c, j.slot, x.lane⟩, lanes := Mask.one x.lane, team := j.team, id := s.seq, dst := none, left := ps.length, wits := [], fut := some x.fut, shut := some {} } ∧
          ∀ (i : Nat) (p : Nat × Nat × Nat), ps[i]? = some p → t.reqs.find? (s.seq + 1 + i) = some {
            who := ⟨c, j.slot, x.lane⟩, lanes := Mask.one x.lane, team := j.team, own := false, ord := s.seq + 1 + i, inst := 0, ctx := j.ctx, cls := j.cls
            loc := .hbm (pa p.1 p.2.1), op := .unit 0 [p.2.2, half 10, half 9], dst := none, path := some c, leaf := leaf p.1 p.2.1, join := some s.seq, since := s.now })) ∧
    (j.kind = 2 → samples (.ld 16) → (∀ px < 64 * tw, ∀ py < 64 * th, rowHere s j.ctx (.hbm (pa px py))) → ∀ y w, x.place = some (y, w) →
      let h := fun (k : Nat) => (x.words.getD 0 0).toNat / 2 ^ (16 * k) % 2 ^ 16
      let zmin := v32 ((x.words.getD 1 0).toNat % 2 ^ 32)
      let seen := ∃ px py, px < 64 * tw ∧ py < 64 * th ∧ h 0 ≤ px ∧ px ≤ h 2 ∧ h 1 ≤ py ∧ py ≤ h 3 ∧
        (zmin.isNan = true ∨ numLe zmin (v32 (leNat (s.bytes (s.place (.hbm (pa px py))) 4))))
      (¬seen → ∃ t, exec (.iuInstanceStart c) s = .next t ∧ WorkOver s t x.fut 0 0 0 ∧ t = { s with fut := t.fut, iu := s.iu.set c rest, lanes := s.wake.lanes }) ∧
      (seen → ∃ t, exec (.iuInstanceStart c) s = .next t ∧ t = { s with fut := t.fut, iu := s.iu.set c rest, lanes := s.wake.lanes, seq := s.seq + 2, joins := s.joins.set s.seq { who := ⟨c, j.slot, x.lane⟩, lanes := Mask.one x.lane, team := j.team, id := s.seq, dst := none, left := 1, wits := [], fut := some x.fut }, reqs := s.reqs.set (s.seq + 1) { who := ⟨c, j.slot, x.lane⟩, lanes := Mask.one x.lane, team := j.team, own := false, ord := s.seq + 1, inst := 0, ctx := j.ctx, cls := j.cls, loc := y, op := .atomic 5 .n64 1 0 .pk false, dst := none, path := some c, leaf := w, join := some s.seq, since := s.now } }))) ∧
  (∀ k q z inst tri, Ready s k q → q.op = .unit 0 [z, inst, tri] → z < 2 ^ 32 → inst < 2 ^ 32 → tri < 2 ^ 32 → s.mons = [] → s.saved = [] → s.wf → (v32 z).isNan = false →
    let y := s.place q.loc
    let old := fun (i : Nat) => leNat (s.bytes (y.add (4 * i)) 4)
    let less := (v32 (old 0)).isNan = true ∨ numLt (v32 z) (v32 (old 0)) ∨
      (numLe (v32 z) (v32 (old 0)) ∧ numLe (v32 (old 0)) (v32 z) ∧ (inst < old 2 ∨ (inst = old 2 ∧ tri < old 1)))
    (∀ i < 16, holdsBytes (y.add i)) → ∃ t, exec (performStep s k q) s = .next t ∧
      (less → Wrote s t y (leBytes 16 (z + tri * 2 ^ 32 + inst * 2 ^ 64))) ∧ (¬less → ∀ a, holdsBytes a → t.byte a = s.byte a) ∧
      ∀ i o e, q.join = some i → s.joins = [(i, o)] → 1 ≤ o.left → o.shut = some e → ∃ o' e', t.joins = [(i, o')] ∧ o'.left = o.left - 1 ∧ o'.fut = o.fut ∧
        o'.shut = some e' ∧ OpensMore s e (· = y.agent) e' ∧ t.fut = s.fut) ∧
  ∀ a i o e, a < 0x802 → published s a + 64 ≤ s.now → s.joins = [(i, o)] → s.conns = [] → s.colls = [] → (∀ y ∈ s.ctxs, y.2.advs = []) →
    o.left = 0 → o.shut = some e → e.links = [] → ∃ t, exec (.closedTickPublish (some a)) s = .next t ∧ t.mem = s.mem ∧
      (ShutBy s a e → WorkOver s t o.fut (Machine.frontier 7 s.now) 0 0 ∧ t.joins = []) ∧ (¬ShutBy s a e → t.joins = s.joins ∧ t.fut = s.fut)


namespace Sys2Proof.Claims

-- Amplification and the sampler

/-- A lane's place in `amp`'s outputs (R383): stored lanes name their record, the others that they are not stored. -/
def ampStatus (pcap n first j : Nat) : Word :=
  if n ≤ j then BitVec.ofNat 64 (2 ^ 63 + n * 2 ^ 48) else BitVec.ofNat 64 (n * 2 ^ 48 + (if first + j < pcap then 0 else 2 ^ 32) + (first + j) % 2 ^ 32)

/-- A texture descriptor of the layout of R384. -/
def TextureForm (ws : List Word) (x : Texture) : Prop :=
  let b := dwordBits ws
  b 0 63 52 = 0 ∧ b 1 63 16 = 0 ∧ b 2 63 0 = 0 ∧ b 3 63 0 = 0 ∧ b 1 13 12 ≠ 3 ∧ b 1 15 14 ≤ 1 ∧ b 1 11 8 ≤ max (b 1 3 0) (b 1 7 4) ∧
    x = { base := b 0 63 0, lw := b 1 3 0, lh := b 1 7 4, lv := b 1 11 8, fmt := b 1 13 12, clamp := b 1 14 14 == 1 }

/-- Sizes of level k, and bytes of a texel (R384). -/
def texW (x : Texture) (k : Nat) : Nat := max 1 (2 ^ x.lw / 2 ^ k)
def texH (x : Texture) (k : Nat) : Nat := max 1 (2 ^ x.lh / 2 ^ k)
def texBytes (x : Texture) : Nat := if x.fmt = 1 then 8 else 4

/-- Address of texel (i, j) of level k (R384). -/
def texelAt (x : Texture) (k i j : Nat) : Nat :=
  x.base + (((List.range k).map fun m => texW x m * texH x m).sum + j * texW x k + i) * texBytes x

/-- WEIGHTS (R385) of a coordinate on an axis of n texels: both indices and the second one's weight. -/
def AxisWeights (clamp : Bool) (u : ℚ) (n i0 i1 w : Nat) : Prop :=
  ∃ a : Int, roundsTo .rne (256 * (u * n - 1 / 2)) a ∧ (w : Int) = a % 256 ∧
    let wraps := fun (i : Nat) (k : Int) => if clamp then (i : Int) = min (max k 0) (n - 1) else (i : Int) = k % n
    wraps i0 (a / 256) ∧ wraps i1 (a / 256 + 1)

/-- SUM's texels of level k with their weights (R385). -/
def Taps (x : Texture) (u v : ℚ) (k : Nat) (ts : List (Nat × Nat)) : Prop :=
  ∃ i0 i1 wx j0 j1 wy, AxisWeights x.clamp u (texW x k) i0 i1 wx ∧ AxisWeights x.clamp v (texH x k) j0 j1 wy ∧
    ts = [(texelAt x k i0 j0, (256 - wx) * (256 - wy)), (texelAt x k i1 j0, wx * (256 - wy)), (texelAt x k i0 j1, (256 - wx) * wy), (texelAt x k i1 j1, wx * wy)]

/-- All texels of a sample, with weights of 2^16, or of 2^24 under `.tri` (R385). -/
def SampleTaps (x : Texture) (tri : Bool) (u v lam : ℚ) (ts : List (Nat × Nat)) : Prop :=
  if tri then ∃ (b : Int) (l0 wl : Nat) (p q : List (Nat × Nat)), roundsTo .rne (256 * lam) b ∧
      (b / 256 < 0 → l0 = 0 ∧ wl = 0) ∧ ((x.lv : Int) ≤ b / 256 → l0 = x.lv ∧ wl = 0) ∧ (0 ≤ b / 256 → b / 256 < x.lv → (l0 : Int) = b / 256 ∧ (wl : Int) = b % 256) ∧
      Taps x u v l0 p ∧ Taps x u v (l0 + 1) q ∧ ts = p.map (fun (t : Nat × Nat) => (t.1, (256 - wl) * t.2)) ++ q.map fun (t : Nat × Nat) => (t.1, wl * t.2)
  else Taps x u v 0 ts

/-- Channel i of a texel (R385); rgba8's is 255 times as great. -/
def channelOf (x : Texture) (bs : List Byte) (i : Nat) : ExtQ :=
  match x.fmt with
  | 0 => .val (leNat ((bs.drop i).take 1) : ℚ) false
  | 1 => extQ (f16.val (leNat ((bs.drop (2 * i)).take 2)))
  | _ => if i = 0 then v32 (leNat bs) else .val (if i = 3 then 1 else 0) false

/-- A channel of the result: one rounding of the whole weighted sum (R385). -/
def Filters (x : Texture) (tri : Bool) (ts : List (List Byte × Nat)) (i code : Nat) : Prop :=
  rnd .rne code (divR (sumR .rne (ts.map fun (t : List Byte × Nat) => mulR (channelOf x t.1 i) (.val (t.2 : ℚ) false)))
    (.val ((if tri then 2 ^ 24 else 2 ^ 16 : ℚ) * (if x.fmt = 0 then 255 else 1)) false))

/-- Two f32 codes in a register. -/
def pairOf (a b : Nat) : Word := BitVec.ofNat 64 (b * 2 ^ 32 + a)

end Sys2Proof.Claims

/-- R382, R383: `amp` checks its descriptor, and waits at its word for one request that holds each lane's record; at the descriptor's agent that takes as many records as there is
room for, sets OVF where some are left out, and each lane's record is stored at its index, with its status and a pk frontier on their way.
What a failing record does is the model's choice: log entry 25. -/
def Sys2Proof.Claims.Amplification : Prop := ∀ (s : State) (f : Eng) (l : Nat),
  let (c, w) := (s.cur.core, s.cur.slot)
  let a := (s.op64 c w l f.b).toNat
  let form := fun (ws : List Word) => (∀ j ∈ [0, 2], dwordBits ws j 63 52 = 0 ∧ dwordBits ws j 3 0 = 0) ∧ ∀ j ∈ [5, 6, 7], dwordBits ws j 63 0 = 0
  (s.Alone (.amp f) l → s.drainFull c = false →
    (∀ u ws, descFound s s l f.b 64 = (u, .ok (some ws)) → ¬form ws → Traps s s (.amp f) l 0x05 0 0) ∧
    ((∀ u ws, descFound s s l f.b 64 = (u, .ok (some ws)) → form ws) →
      (a % 64 ≠ 0 → Traps s s (.amp f) l 0x0A a 0) ∧
      (a % 64 = 0 → ∀ u, (∀ k, s.xlate (some c) (s.team c).ctx (s.isUser c w l) .atomic a 64 = (u, .error k) → Traps s u (.amp f) l k a 0) ∧
        ∀ y leaf, s.xlate (some c) (s.team c).ctx (s.isUser c w l) .atomic a 64 = (u, .ok (y, leaf)) →
          ((∀ pa, y ≠ .hbm pa) → Traps s u (.amp f) l 0x0C a 0) ∧
          ∀ pa, y = .hbm pa → u = s → ∃ t, exec (.amp f) s = .next t ∧ (t.lane c w l).park = .replies s.seq ∧ (t.lane c w l).pc = (s.lane c w l).pc ∧ t.mem = s.mem ∧
            (∀ r ∈ dsts f.d 2, (t.mark c w l r).pend = s.seq + 2) ∧
            t.reqs = s.reqs.set (s.seq + 1) {
              who := ⟨c, w, l⟩, lanes := Mask.ofLanes [l], team := s.ownKey c, own := false, ord := s.seq + 1, inst := s.seq + 1, ctx := (s.team c).ctx, cls := s.laneClass c w l
              loc := y, op := .unit 1 [l, (s.opndAt c w l f.a 0).toNat, (s.opndAt c w l f.a 1).toNat], dst := (dsts f.d 1).head?, path := some c, leaf := leaf, join := some s.seq, since := s.now }))) ∧
  ∀ (k : Nat) (q : Req) (args : List Nat) (d : Nat) (pa : Nat), Ready s k q → q.op = .unit 1 args → q.loc = .hbm pa → s.place (.hbm pa) = .hbm pa → q.dst = some d → s.mons = [] → s.saved = [] → s.wf →
    let dw := fun (j : Nat) => leNat (s.bytes (.hbm (pa + 8 * j)) 8)
    let lanes := q.lanes.lanes
    let n := min lanes.length (dw 1 % 2 ^ 32 + dw 1 / 2 ^ 32 - dw 3)
    let va := fun (j : Nat) => if dw 3 + j < dw 1 % 2 ^ 32 then dw 0 + 16 * (dw 3 + j) else dw 2 + 16 * (dw 3 + j - dw 1 % 2 ^ 32)
    ∃ (t v0 : State) (v u : Nat → State) (res : Nat → Except Nat (Loc × Word)), exec (performStep s k q) s = .next t ∧
      Wrote s v0 (.hbm (pa + 24)) (leBytes 8 (dw 3 + n)) ∧ v0.teams = s.teams ∧ (v 0).teams = s.teams ∧ (v 0).tlb = s.tlb ∧ (v 0).ctxs = s.ctxs ∧
      (n = lanes.length → ∀ x, holdsBytes x → (v 0).byte x = v0.byte x) ∧ (n < lanes.length → Wrote v0 (v 0) (.hbm (pa + 32)) (leBytes 8 1)) ∧
      (∀ j < n, (v j).laneXlate q .st (va j) 16 = (u j, res j) ∧ (∀ e, res j = .error e → v (j + 1) = u j) ∧
        ∀ y leaf, res j = .ok (y, leaf) → (∀ i < 16, holdsBytes (((u j).place y).add i)) →
          Wrote (u j) (v (j + 1)) ((u j).place y) (leBytes 16 (args.getD (3 * j + 1) 0 + 2 ^ 64 * args.getD (3 * j + 2) 0)) ∧
          t.replies.find? (s.seq + j) = some { who := { q.who with lane := lanes.getD j 0 }, team := q.team, load := false, id := k, join := q.join.map fun i => (i, 0, 0), regs := [
            (d, ampStatus (dw 1 % 2 ^ 32) n (dw 3) j, {}), (d + 1, Machine.frontier 7 s.now, {})] }) ∧
      (∀ j, n ≤ j → j < lanes.length → t.replies.find? (s.seq + j) = some { who := { q.who with lane := lanes.getD j 0 }, team := q.team, load := false, id := k, join := q.join.map fun i => (i, 0, 0), regs := [
        (d, ampStatus (dw 1 % 2 ^ 32) n (dw 3) j, {}), (d + 1, Machine.frontier 7 s.now, {})] }) ∧
      ∀ x, holdsBytes x → t.byte x = (v n).byte x

/-- R384, R385: `smp` refuses a malformed descriptor; NaN or infinite coordinates give four canonical NaNs; else it reads the texels that have a weight, and each channel is their
exact weighted sum, rounded once. -/
def Sys2Proof.Claims.Sampling : Prop := ∀ (s : State) (f : Eng) (l : Nat), s.Alone (.smp f) l →
  let (c, w) := (s.cur.core, s.cur.slot)
  let tri := f.mod.toNat % 2 == 1
  let (u, v, lam) := (v32 (halfOf s l f.a 0), v32 (halfOf s l f.a 1), if tri then v32 (halfOf s l f.a 2) else .val 0 false)
  let finite := fun (x : ExtQ) => x.isNan = false ∧ x.isInf true = false ∧ x.isInf false = false
  let gives := fun (u t : State) (cs : Nat → Nat) (bad : Bool) => Waits c w l (dsts f.d 2) u.seq u t ∧ t.seq = u.seq + 2 ∧ t.reqs = u.reqs ∧
    t.replies = u.replies.set (u.seq + 1) (loadReply s u l [(f.d.toNat, pairOf (cs 0) (cs 1), { bad := bad }), (f.d.toNat + 1, pairOf (cs 2) (cs 3), { bad := bad })])
  (∀ u k a, descFound s s l f.b 32 = (u, .error (k, a)) → Traps s u (.smp f) l k a 0) ∧
  (∀ u ws, descFound s s l f.b 32 = (u, .ok (some ws)) → (∀ x, ¬TextureForm ws x) → Traps s s (.smp f) l 0x05 0 0) ∧
  ∀ d ws x, descFound s s l f.b 32 = (d, .ok (some ws)) → TextureForm ws x →
    (¬(finite u ∧ finite v ∧ finite lam) → ∃ t, exec (.smp f) s = .next t ∧ gives d t (fun _ => 0x7FC00000) false) ∧
    (finite u → finite v → finite lam → ∀ ts, SampleTaps x tri u.rat v.rat lam.rat ts → ∀ pa : Nat → Nat,
      let taps := ts.filter fun (t : Nat × Nat) => t.2 != 0
      (∀ t ∈ taps, (∃ leaf, d.locate c (d.isUser c w l) .g (.ld (texBytes x)) t.1 (texBytes x) = (d, .ok (.hbm (pa t.1), leaf))) ∧
        rowHere d (d.team c).ctx (.hbm (pa t.1)) ∧ d.laneBusy c w l (.hbm (pa t.1)) (texBytes x) = false) →
      ∃ t cs, exec (.smp f) s = .next t ∧
        (∀ i < 4, Filters x tri (taps.map fun (t : Nat × Nat) => (d.bytes (d.place (.hbm (pa t.1))) (texBytes x), t.2)) i (cs i)) ∧
        gives d t cs (taps.any fun (t : Nat × Nat) => d.badIn (d.place (.hbm (pa t.1))) (texBytes x)))


namespace Sys2Proof.Claims

-- Collectives

/-- A descriptor that `coll` accepts from one of p ranks (R293, R294), less ORDER's permutation. -/
def CollForm (ws : List Word) (p : Nat) (chain : Bool) : Prop :=
  let b := dwordBits ws
  let size := if b 0 3 0 = 0 then (if b 0 12 8 = 0x0A then 4 else 2) * b 1 31 0 else (if b 0 3 0 = 3 then 16 else 8) * (4096 * b 1 31 0)
  b 0 63 56 = 0 ∧ b 0 31 24 = 0 ∧ b 0 15 15 = 0 ∧ b 0 13 13 = 0 ∧ b 1 63 32 = 0 ∧ b 2 63 52 = 0 ∧ b 3 63 40 = 0 ∧ b 4 63 52 = 0 ∧ b 5 63 13 = 0 ∧ b 7 63 52 = 0 ∧
    b 0 3 0 ≤ 3 ∧ b 0 5 4 ≤ 1 ∧ b 0 7 6 ≤ 1 ∧ b 3 39 0 % 64 = 0 ∧ 1 ≤ b 1 31 0 ∧ size ≤ 2 ^ 30 ∧
    (b 0 3 0 = 0 → (b 0 12 8 = 0x0A ∨ b 0 12 8 = 0x09) ∧ b 0 23 16 ≠ 0) ∧ (b 0 3 0 ≠ 0 → b 0 12 8 = 0 ∧ b 0 23 16 = 0) ∧
    (b 0 3 0 ≠ 2 → b 7 51 0 = 0) ∧ (b 0 5 4 = 1 → ∃ n, p = 2 ^ n) ∧ (chain = true → b 5 12 12 = 1)

/-- The group that an entry names: rank, ranks, the neighbours' connections (R423); the context has both of these (R285). -/
def GroupOf (s : State) (c m rank p left right : Nat) : Prop :=
  ∃ x, Grants s c m 4 2 x ∧ rank = x.base % 4096 ∧ p = x.base / 2 ^ 16 % 4096 + 1 ∧ left = x.size % 2 ^ 16 ∧ right = x.size / 2 ^ 16 % 2 ^ 16 ∧
    ∀ n ∈ [left, right], ∃ k, s.conns.find? n = some k ∧ k.opened = true ∧ k.cctl.toNat / 2 ^ 44 % 2 ^ 12 = (s.team c).ctx

/-- A connection that a group names is open and not up yet (R275, R285). -/
def comesUp (s : State) (n : Nat) : Prop := ∃ k, s.conns.find? n = some k ∧ k.up = false ∧ k.failed = false

/-- In priority mode a goes before b (R301): the smaller PRI, then the earlier issue. -/
def goesFirst (a b : CollSt) : Prop := a.pri < b.pri ∨ (a.pri = b.pri ∧ a.issued ≤ b.issued)

/-- ORDER names each rank once (R294). -/
def permutes (p : Nat) (xs : List Nat) : Prop := xs.length = p ∧ ∀ r < p, r ∈ xs

end Sys2Proof.Claims

/-- R285, R293, R294, R301-R303: `coll` checks its capability, waits until its group's connections are up, checks its descriptor, ORDER and its pages, and waits for room; then its collective joins those of the package with one handle for
all of M, and runs at once where it waits for no semaphore and none runs. `bkt` gives the collectives of a tag their priority.
What coll checks at issue is the model's reading: log entry 58. -/
def Sys2Proof.Claims.Collective_words : Prop := ∀ (s : State) (f : Eng) (l : Nat),
  let (c, w) := (s.cur.core, s.cur.slot)
  let ctx := (s.team c).ctx
  let a := (s.op64 c w l f.a).toNat
  let bval := (s.op64 c w l f.b).toNat
  let ms := s.lanesM (.coll f)
  let chain := (s.ctxs.get {} ctx).collmode.toNat % 2 == 1
  (Whole s (.coll f) → ms.head? = some l → (∀ m ∈ ms, s.op64 c w m f.a = s.op64 c w l f.a) →
    ((∀ r p x y, ¬GroupOf s c f.c.toNat r p x y) → exec (.coll f) s = .next (s.trapAll ms 0x12 0)) ∧
    (∀ rank p left right, GroupOf s c f.c.toNat rank p left right → comesUp s left ∨ comesUp s right → ∃ t, exec (.coll f) s = .next t ∧ AllRetry s s t (.coll f)) ∧
    ∀ rank p left right, GroupOf s c f.c.toNat rank p left right → ¬comesUp s left → ¬comesUp s right → ∀ u,
      (∀ k b, s.descAt c w l a 64 = (u, .error (k, b)) → exec (.coll f) s = .next (u.trapAll ms k 0 fun _ => b)) ∧
      (s.descAt c w l a 64 = (u, .ok none) → ∃ t, exec (.coll f) s = .next t ∧ AllRetry s u t (.coll f)) ∧
      ∀ ws, s.descAt c w l a 64 = (u, .ok (some ws)) →
        let b := dwordBits ws
        let d := collFields ws
        (¬CollForm ws p chain → exec (.coll f) s = .next (u.trapAll ms 0x05 0)) ∧
        (CollForm ws p chain → b 5 12 12 = 1 → s.psemOwner.find? (b 5 11 0) ≠ some ctx → exec (.coll f) s = .next (u.trapAll ms 0x0C 0)) ∧
        (CollForm ws p chain → (b 5 12 12 = 1 → s.psemOwner.find? (b 5 11 0) = some ctx) →
          let order := u.placeAll (some c) ctx (s.isUser c w l) (.ld 2) ((List.range p).map fun j => (b 7 51 0 + 2 * j, 2))
          (b 0 3 0 = 2 → ∀ v k z, order = (v, .error (k, z)) → exec (.coll f) s = .next (v.trapAll ms k 0 fun _ => z)) ∧
          ∀ v ranks, (b 0 3 0 ≠ 2 → v = u ∧ ranks = []) →
            (b 0 3 0 = 2 → ∃ v0 xs bs bad, order = (v0, .ok xs) ∧ (∀ y ∈ xs, v0.laneBusy c w l y.1 2 = false) ∧ v0.readPieces ctx xs = (bs, bad, v) ∧
              ranks = (List.range p).map fun j => leNat ((bs.drop (2 * j)).take 2)) →
            (b 0 3 0 = 2 → ¬permutes p ranks → exec (.coll f) s = .next (v.trapAll ms 0x05 0)) ∧
            ((b 0 3 0 = 2 → permutes p ranks) → ∀ e,
              (∀ k z, v.srcPages (some c) ctx (s.isUser c w l) d d.dies = (e, .error (k, z)) → exec (.coll f) s = .next (e.trapAll ms k 0 fun _ => z)) ∧
              ∀ srcs, v.srcPages (some c) ctx (s.isUser c w l) d d.dies = (e, .ok srcs) → ∀ g,
                (∀ k z, e.localPages (some c) ctx (s.isUser c w l) .stp (pagesOf (b 4 51 0) d.bytes) = (g, .error (k, z)) → exec (.coll f) s = .next (g.trapAll ms k 0 fun _ => z)) ∧
                ∀ dsts', e.localPages (some c) ctx (s.isUser c w l) .stp (pagesOf (b 4 51 0) d.bytes) = (g, .ok dsts') →
                  (g.futRoom c 1 false = false → ∃ t, exec (.coll f) s = .next t ∧ AllRetry s g t (.coll f)) ∧
                  (g.futRoom c 1 false = true → g.seq = s.seq → g.colls = s.colls → g.psems = s.psems → ∃ t fut y,
                    exec (.coll f) s = .next t ∧ TakesEntry c false fut g y ∧ t.fut = startedEntry y fut ∧ t.seq = s.seq + 1 ∧ t.mem = g.mem ∧
                    (∀ m ∈ ms, (t.lane c w m).pc = (s.lane c w m).next.pc ∧ ∀ r ∈ dsts f.d 1, (t.mark c w m r).fut = some fut ∧ wKind (t.reg c w m r) = 0xE) ∧
                    (let x : CollSt := { who := ⟨c, w, l⟩, ctx := ctx, desc := ws, rank := rank, ranks := p, conns := (left, right), order := ranks, chain := chain, pri := b 0 55 48, tag := b 0 47 32, issued := s.seq, fut := some fut, running := false, user := s.isUser c w l, srcs := srcs, dsts := dsts', metAt := if b 5 12 12 = 1 then none else some s.seq }
                     (b 5 12 12 = 0 → t.psems = s.psems ∧ (s.colls = [] → t.colls.find? s.seq = some { x with running := true }) ∧
                       ((∃ y ∈ s.colls, y.2.running = true ∧ y.1 ≠ s.seq) → t.colls = s.colls.set s.seq x)) ∧
                     (b 5 12 12 = 1 → let q := s.psems.get {} (b 5 11 0)
                       q.v < (ws.getD 6 0).toNat → q.wait = [] → t.colls = s.colls.set s.seq x ∧
                         t.psems.get {} (b 5 11 0) = { q with wait := [{ who := .coll s.seq, thr := (ws.getD 6 0).toNat, take := false, since := s.now }] })))))) ∧
  (Whole s (.bkt f) → (∀ m ∈ s.lanesM (.bkt f), s.op64 c w m f.a = s.op64 c w l f.a ∧ s.op64 c w m f.b = s.op64 c w l f.b) → (s.lanesM (.bkt f)).head? = some l →
    (255 < bval → exec (.bkt f) s = .next (s.trapAll (s.lanesM (.bkt f)) 0x05 0)) ∧
    (bval ≤ 255 → ∃ t, exec (.bkt f) s = .next t ∧ AllPast s (.bkt f) { s with
      colls := s.colls.map fun (x : Nat × CollSt) => (x.1, if x.2.ctx = ctx ∧ x.2.tag = a % 65536 then { x.2 with pri := bval } else x.2) } t))

namespace Sys2Proof.Claims

/-- Code r is an f32 value that has crossed a gateway as bf16 (R296): w is what was sent. -/
def Crossed (x w r : Nat) : Prop := once bf16 .rne false w (v32 x) ∧ once f32 .rne false r (extQ (bf16.val w))

/-- Element i of a die's source, as f32 (R295). -/
def sourceOf (s : State) (x : CollSt) (m die i : Nat) : Nat :=
  let b := dwordBits x.desc
  let size := if b 0 12 8 = 0x0A then 4 else 2
  leNat ((List.range size).map fun j => s.byte (.hbm (pageAt (x.srcs.getD m []) (b 2 51 0 + die * b 3 39 0 + i * size + j))))

/-- The package's own sum of element i (R295): dies in ascending order. -/
def OwnSum (s : State) (x : CollSt) (i own : Nat) : Prop :=
  let b := dwordBits x.desc
  let dies := (List.range 8).filter (b 0 23 16).testBit
  let value := fun (m : Nat) (r : Nat) => let y := sourceOf s x m (dies.getD m 0) i
    if b 0 12 8 = 0x0A then r = y else once f32 .rne false r (extQ (bf16.val y))
  ∃ acc y : Nat → Nat, (∀ m < dies.length, value m (y m)) ∧ acc 0 = y 0 ∧ (∀ m, m + 1 < dies.length → rnd .rne (acc (m + 1)) (sumR .rne [v32 (acc m), v32 (y (m + 1))])) ∧
    own = acc (dies.length - 1)

/-- The ring's sum of one element over p ranks, in segment j (R296): what is written, in the collective's type, with WIRE = 0. -/
def RingGives (p j : Nat) (own : Nat → Nat) (ity out : Nat) : Prop :=
  ∃ acc wire got : Nat → Nat, acc 0 = own ((j + 1) % p) ∧
    (∀ k, k < p - 1 → Crossed (acc k) (wire k) (got k) ∧ rnd .rne (acc (k + 1)) (sumR .rne [v32 (got k), v32 (own ((j + 2 + k) % p))])) ∧
    Crossed (acc (p - 1)) (wire (p - 1)) (got (p - 1)) ∧
    (ity = 0x0A → out = got (p - 1)) ∧ (ity = 0x09 → once bf16 .rne false out (v32 (got (p - 1))))

/-- Depth merge of two pixels (R298): a is the earlier. -/
def DepthMerge (a b r : Nat) : Prop :=
  let (x, y) := (v32 (a % 2 ^ 32), v32 (b % 2 ^ 32))
  (x.isNan = true → y.isNan = true → r = a) ∧ (x.isNan = true → y.isNan = false → r = b) ∧ (x.isNan = false → y.isNan = true → r = a) ∧
    (numLe x y → r = a) ∧ (x.isNan = false → y.isNan = false → ¬numLe x y → r = b)

end Sys2Proof.Claims

/-- R293-R300, R455: when every rank has issued a matching one, a running collective writes its result, and once each write has closed its handle is ready: a sum of elements by the
ring with one rounding for each addition and one bf16 gateway for each hop; a depth composite's nearest pixels. Ranks that do not match end it with an error record and the
remote-access fault.
The wire's scale is read by R455's letter: log entry 65; a winning pixel's NaN depth, log entry 85. -/
def Sys2Proof.Claims.Collective_results : Prop := ∀ (s : State) (k : Nat) (x : CollSt) (others : List RankData), s.colls.find? k = some x →
  let b := dwordBits x.desc
  let count := b 1 31 0
  let size := if b 0 3 0 = 0 then (if b 0 12 8 = 0x0A then 4 else 2) else 8
  let n := if b 0 3 0 = 0 then count else count * 4096
  let p := x.ranks
  let ends := fun (t : State) => t.colls.find? k = none ∧ t.lanes = s.wake.lanes
  let writes := b 0 14 14 = 0 ∨ x.rank = 0
  let performed := fun (t : State) =>
    (writes → ∃ o, t.colls.find? k = some { x with running := false, shut := some o } ∧ t.fut = s.fut ∧ t.lanes = s.wake.lanes ∧
      OpenAt s (fun a => ∃ i < n * size, a = haOf (pageAt x.dsts (b 4 51 0 + i))) o) ∧
    (¬writes → WorkOver s t x.fut (Machine.frontier 7 s.now) 0 0 ∧ ends t)
  let fits := x.rank < p ∧ others.length + 1 = p ∧ (∀ r < p, r ≠ x.rank → ∃ o ∈ others, o.rank = r) ∧ (∀ o ∈ others, o.rank ≠ x.rank ∧ o.vals.length = n ∧ o.bad = List.replicate n false)
  let from_ := fun (r : Nat) => ((others.find? fun (o : RankData) => o.rank == r).map (·.vals)).getD []
  (∀ o a, x.shut = some o → o.links = [] → a < 0x802 → published s a + 64 ≤ s.now → s.colls = [(k, x)] → s.conns = [] → NoSampleCloses s → (∀ y ∈ s.ctxs, y.2.advs = []) →
    ∃ t, exec (.closedTickPublish (some a)) s = .next t ∧ t.mem = s.mem ∧
      (ShutBy s a o → WorkOver s t x.fut (Machine.frontier 7 s.now) 0 0 ∧ t.colls = []) ∧ (¬ShutBy s a o → t.colls = s.colls ∧ t.fut = s.fut)) ∧
  (x.running = true →
    ∃ t, exec (.collectivePerform k others false) s = .next t ∧ Recorded_ s t x.ctx [4, b 0 47 32, x.rank, p] ∧ WorkOver s t x.fut 0 0x13 0 ∧ ends t ∧ t.mem = s.mem) ∧
  (x.running = true → CollForm x.desc p x.chain → fits → Plain s → found x.dsts (b 4 51 0) (n * size) →
    (∀ m < x.srcs.length, ∀ o, s.bad (.hbm (pageAt (x.srcs.getD m []) o)) = false) →
    let wrote := fun (t : State) (v : Nat → Nat) => (writes → ∀ i < n, ∀ j < size, t.byte (.hbm (pageAt x.dsts (b 4 51 0 + i * size + j))) = BitVec.ofNat 8 (v i / 2 ^ (8 * j))) ∧
      (∀ pa, (∀ o < n * size, ¬writes ∨ pa ≠ pageAt x.dsts (b 4 51 0 + o)) → t.byte (.hbm pa) = s.byte (.hbm pa))
    (b 0 3 0 = 0 → b 0 7 6 = 0 → b 0 5 4 = 0 → x.srcs.length = ((List.range 8).filter (b 0 23 16).testBit).length → ∃ (t : State) (own out : Nat → Nat),
      exec (.collectivePerform k others true) s = .next t ∧ performed t ∧ wrote t out ∧ (∀ i < n, OwnSum s x i (own i)) ∧
      ∀ i < n, (1 < p → let seg := (n + p - 1) / p
          RingGives p (i / seg) (fun r => if r = x.rank then own i else (from_ r).getD i 0) (b 0 12 8) (out i)) ∧
        (p = 1 → if b 0 12 8 = 0x0A then ((v32 (own i)).isNan = false → out i = own i) else once bf16 .rne false (out i) (v32 (own i)))) ∧
    (b 0 3 0 = 1 → b 0 5 4 = 0 → x.srcs.length = 1 → ∃ (t : State) (out : Nat → Nat) (acc : Nat → Nat → Nat),
      exec (.collectivePerform k others true) s = .next t ∧ performed t ∧ wrote t out ∧
      ∀ i < n, let pixel := fun (r : Nat) => if r = x.rank then leNat ((List.range 8).map fun j => s.byte (.hbm (pageAt (x.srcs.getD 0 []) (b 2 51 0 + i * 8 + j)))) else (from_ r).getD i 0
        acc i 0 = pixel 0 ∧ (∀ r, r + 1 < p → DepthMerge (acc i r) (pixel (r + 1)) (acc i (r + 1))) ∧ out i = acc i (p - 1)))

/-- R301, R303: a running collective of priority mode yields to the first of those that may run, by PRI and then by issue; one of chain mode to none. A collective's wait is over once the
witness that it received is satisfied, and it runs where none does.
The order between modes is the model's choice: log entry 70. -/
def Sys2Proof.Claims.Collective_order : Prop := ∀ (s : State) (k : Nat) (x : CollSt), s.colls.find? k = some x → (s.colls.map (·.1)).Nodup →
  let others := fun (y : Nat × CollSt) => y ∈ s.colls ∧ y.1 ≠ k ∧ y.2.metAt ≠ none ∧ y.2.shut = none
  (x.running = false ∨ x.chain = true ∨ (∀ y, ¬others y) → exec (.collectiveYield k) s = .next s) ∧
  (x.running = true → x.chain = false → (∃ y, others y) → (∀ y ∈ s.colls, y.2.chain = false) → ∃ t y, others y ∧ (∀ z, others z → goesFirst y.2 z.2) ∧
    exec (.collectiveYield k) s = .next t ∧ t = { s with colls := t.colls } ∧
    ∀ j, t.colls.find? j = if j = y.1 then some { y.2 with running := true } else if j = k then some { x with running := false } else s.colls.find? j) ∧
  ∀ w, x.semGot = some w → HoldsWit w → x.who.core < 1536 →
    (x.metAt ≠ none ∨ ¬Satisfied s x.who.core w → exec (.collectiveSemWaitMet k) s = .next s) ∧
    (x.metAt = none → Satisfied s x.who.core w →
      ((∃ y ∈ s.colls, y.1 ≠ k ∧ y.2.running = true) → exec (.collectiveSemWaitMet k) s = .next { s with colls := s.colls.set k { x with metAt := some s.seq }, seq := s.seq + 1, lanes := s.wake.lanes }) ∧
      ((∀ y ∈ s.colls, y.1 ≠ k → y.2.running = false ∧ y.2.metAt = none) → x.running = false → x.shut = none →
        ∃ t, exec (.collectiveSemWaitMet k) s = .next t ∧ t = { s with colls := t.colls, seq := s.seq + 1, lanes := s.wake.lanes } ∧
          t.colls.find? k = some { x with metAt := some s.seq, running := true } ∧ ∀ j, j ≠ k → t.colls.find? j = s.colls.find? j))


namespace Sys2Proof.Claims

-- The front, the host, and the package

/-- A counter of the lifetime records has gone up by one, as far as it goes (R448). -/
def counted (s : State) (i : Nat) : Tab Nat := s.nv.set i (min (s.nv.get 0 i + 1) (2 ^ 64 - 1))

/-- The lane waits for a line of its code (R310): where its PC stands in HBM. -/
def waitsLine (s : State) (c w l line : Nat) : Prop :=
  (s.lane c w l).park = .fetch ∧ ∀ pa, (s.fetchPlace c w l (s.lane c w l).pc).2 = some pa → pa / 128 = line

/-- Core c's instruction cache has no room for one more line (R16). -/
def fullCache (s : State) (c line : Nat) : Prop :=
  let own := s.ic.filter fun (x : Nat × IcLine) => x.1 / 2 ^ 40 == c
  512 ≤ own.length ∧ ∀ x ∈ own, x.1 % 2 ^ 40 ≠ line

/-- Entry e of the inbound map serves an offset (R420). -/
def servesOff (e : List Word) (o : Nat) : Bool :=
  dwordBits e 0 63 63 == 1 && decide (dwordBits e 1 39 0 ≤ o) && decide (o < dwordBits e 1 39 0 + dwordBits e 2 40 0)

/-- A host request of n bytes at an offset runs in a context at a virtual address (R420): one entry serves it, and allows it by bit `allow`. -/
def HostRuns (s : State) (o n allow ctx va : Nat) : Prop :=
  ∃ i e, (s.inb.filter fun (x : Nat × List Word) => servesOff x.2 o) = [(i, e)] ∧ dwordBits e 0 allow allow = 1 ∧ servesOff e (o + n - 1) = true ∧
    ctx = dwordBits e 0 59 48 ∧ va = dwordBits e 3 51 0 + (o - dwordBits e 1 39 0)

/-- A posted write of the host has not closed yet (R420). -/
def hostOpen (s : State) : Prop := ∃ t, s.hostWrote = some t ∧ ∃ a ≤ 0x800, ¬tickAtLeast (s.ctOf a) t

/-- A host request is refused: counted and, where it is not posted, completed with Unsupported Request (R420). -/
def HostRefused (s t : State) (posted : Bool) : Prop := t = { s with nv := counted s 0x0A29, hostOut := if posted then s.hostOut else s.hostOut ++ [none] }

/-- The pieces of a host request stand in HBM or in a core of the context, and hold bytes. -/
def piecesHere (u : State) (ctx : Nat) (xs : List (Loc × Word × Nat)) : Prop :=
  ∀ x ∈ xs, u.engineOpen ctx x.1 = true ∧ (match x.1 with | .hbm _ | .sp .. => True | _ => False) ∧ rowHere u ctx x.1 ∧ ∀ i < x.2.2, holdsBytes ((u.place x.1).add i)

/-- A pair can lead: it works, and has not failed (R444-R446). -/
def canLead (s : State) (d : Nat) : Prop := (s.pairs.get {} d).working = true ∧ (s.pairs.get {} d).failed = false

/-- Fields of LEAD (R445). -/
def leadTerm (w : Word) : Nat := w.toNat / 2 ^ 32
def leadHeld (w : Word) : Prop := w.toNat / 8 % 2 = 1
def leadDie (w : Word) : Nat := w.toNat % 8

/-- Pair d has claimed a term (R445, R446): LEAD, FENCE and the pair's own view. -/
def Claimed (s t : State) (d term : Nat) (nv : Tab Nat) : Prop :=
  t = { s with lead := BitVec.ofNat 64 (term * 2 ^ 32 + 8 + d), fence := term, pairs := s.pairs.set d { s.pairs.get {} d with term := term }, lanes := s.wake.lanes, nv := nv }

/-- Pair d's ring distance after the leader, counted over dies in service whose pair can lead (R445). -/
def RingDistance (s : State) (d k : Nat) : Prop :=
  ∃ j, 1 ≤ j ∧ j ≤ 7 ∧ d = (leadDie s.lead + j) % 8 ∧ canLead s d ∧ s.absent.get false (192 * d) = false ∧
    k = 1 + ((List.range (j - 1)).filter fun i => let e := (leadDie s.lead + i + 1) % 8
      (s.pairs.get {} e).working && !(s.pairs.get {} e).failed && !s.absent.get false (192 * e)).length

/-- Fields of a context block and single registers of the Burzon die that the service OS writes (R28, R407, R445): offset in the range, and what a store of v leaves. -/
def burzonWrites (s : State) (v : Word) (ctx : Nat) : List (Nat × State) :=
  let x := s.ctxs.get {} ctx
  let at_ := fun (o : Nat) (y : CtxSt) => (0x400000 + 128 * ctx + o, { s with ctxs := s.ctxs.set ctx y })
  [at_ 8 { x with pgNew := v.toNat / 4096 % 2 ^ 28 * 4096 }, at_ 24 { x with tvec := v.toNat }, at_ 32 { x with trbase := v.toNat }, at_ 40 { x with factab := v.toNat },
   at_ 48 { x with drainlim := max 10000 (v.toNat % 2 ^ 40) }, (0x500008, { s with shootVa := v }), (0x500018, { s with shootId := v }), (0xA00008, { s with hbeat := v.toNat }),
   (0xA00010, { s with fence := v.toNat }), (0xA00018, { s with jbase := v }), (0xA00020, { s with jhead := v }),
   (0xC00000, if 2000 ≤ v.toNat ∧ v.toNat ≤ 5200 then { s with powerLimit := v.toNat } else s)]

end Sys2Proof.Claims

/-- R310, R315: a line of code that arrives joins the instruction cache, from which another goes where it is full, and the lanes of the core that waited for it go on; a fill puts the window of 48 words from the base on, as far as it
translates, into the loop buffers of every lane of its group.
Which line leaves a full cache is a free value: log entry 14. -/
def Sys2Proof.Claims.Fetched : Prop := ∀ (s : State) (c line sub : Nat),
  ((∀ w l, w < 64 → l < 32 → ¬waitsLine s c w l line) → (s.lanes.map (·.1)).Nodup → exec (.instructionFetchReturn c line) s = .next s) ∧
  (∀ w l, w < 64 → l < 32 → waitsLine s c w l line → c < 1536 → ∃ t, exec (.instructionFetchReturn c line) s = .next t ∧
    t = { s with ic := t.ic, free := t.free, lanes := t.lanes } ∧
    (let joins := fun (ic : Tab IcLine) => t.ic = ic.set (c * 2 ^ 40 + line) { ctx := (s.team c).ctx, bytes := s.bytes (s.place (.hbm (128 * line))) 128 }
     (¬fullCache s c line → joins s.ic ∧ t.free = s.free) ∧ (fullCache s c line → ∃ x ∈ s.ic, x.1 / 2 ^ 40 = c ∧ joins (s.ic.erase x.1))) ∧
    ∀ d v m, d < 1536 → v < 64 → m < 32 → (d = c ∧ waitsLine s c v m line → t.lane d v m = { s.lane d v m with park := .none }) ∧
      (¬(d = c ∧ waitsLine s c v m line) → t.lane d v m = s.lane d v m)) ∧
  ((∀ x ∈ s.fills, ¬(x.core = c ∧ x.sub = sub)) → exec (.loopBufferFill c sub) s = .next s) ∧
  ∀ x l0, (s.fills.find? fun (y : Fill) => y.core == c && y.sub == sub) = some x → x.lanes.lanes.head? = some l0 → sub < 4 → ∃ t words, exec (.loopBufferFill c sub) s = .next t ∧
    t = { s with fills := s.fills.erase x, lb := t.lb } ∧ words.length ≤ 48 ∧
    (∀ j < words.length, ∃ pa, (s.fetchPlace c x.slot l0 (BitVec.ofNat 64 (x.base + 8 * j))).2 = some pa ∧ words[j]? = some (s.wordAt c pa)) ∧
    (words.length < 48 → (s.fetchPlace c x.slot l0 (BitVec.ofNat 64 (x.base + 8 * words.length))).2 = none) ∧
    (∀ l ∈ x.lanes.lanes, t.lb.find? (c * 128 + sub * 32 + l) = some { slot := x.slot, base := x.base, words := words }) ∧
    ∀ k, (∀ l ∈ x.lanes.lanes, k ≠ c * 128 + sub * 32 + l) → t.lb.find? k = s.lb.find? k

/-- R343, R420: a message reaches both cores of its pair; a host request runs in the context of the one entry of the inbound map that serves and allows it: reads answer with bytes, and wait
until the posted writes before them have closed; posted writes are stored, AtomicOps answer with the old value; any other is refused and counted.
That a read that may go is answered in one step is the model's choice: log entry 26. -/
def Obligations.Host_requests : Prop := ∀ (s : State) (o n : Nat) (data : List Byte) (op : BitVec 4) (b c : BitVec 128),
  (∀ k page id, s.imsg.find? k = some (page, id) → ∃ t, exec (.imsicMessage k) s = .next t ∧ t = { s with imsg := s.imsg.erase k, imsic := t.imsic } ∧
    (1 ≤ id → id < 2048 → page < 32 → let pair := [page / 4 * 4 + page % 2, page / 4 * 4 + page % 2 + 2]
      (∀ p ∈ pair, id ∈ t.imsic.get [] p) ∧ (∀ p i, i ≠ id ∨ p ∉ pair → (i ∈ t.imsic.get [] p ↔ i ∈ s.imsic.get [] p))) ∧
    (id = 0 ∨ 2048 ≤ id ∨ 32 ≤ page → t.imsic = s.imsic)) ∧
  (hostOpen s → exec (.hostRead o n) s = .next s) ∧
  ((∀ ctx va, ¬HostRuns s o n 62 ctx va) → ¬hostOpen s → ∃ t, exec (.hostRead o n) s = .next t ∧ HostRefused s t false) ∧
  ((∀ ctx va, ¬HostRuns s o data.length 61 ctx va) → ∃ t, exec (.hostPostedWrite o data) s = .next t ∧ HostRefused s t true) ∧
  ((∀ ctx va, ¬HostRuns s o n 60 ctx va) → ∃ t, exec (.hostAtomicop o n op b c) s = .next t ∧ HostRefused s t false) ∧
  (∀ ctx va, HostRuns s o n 62 ctx va → ¬hostOpen s → ∀ u,
    (s.hostPlaces ctx false (rowPieces va n) = (u, none) → ∃ t, exec (.hostRead o n) s = .next t ∧ HostRefused u t false) ∧
    ∀ xs, s.hostPlaces ctx false (rowPieces va n) = (u, some xs) → piecesHere u ctx xs →
      exec (.hostRead o n) s = .next { u with hostOut := u.hostOut ++ [some (xs.flatMap fun (x : Loc × Word × Nat) => u.bytes (u.place x.1) x.2.2)] }) ∧
  (∀ ctx va, HostRuns s o data.length 61 ctx va → s.wf → s.mons = [] → s.saved = [] → s.pal = [] → ∀ u,
    (s.hostPlaces ctx true (rowPieces va data.length) = (u, none) → ∃ t, exec (.hostPostedWrite o data) s = .next t ∧ HostRefused u t true) ∧
    ∀ xs, s.hostPlaces ctx true (rowPieces va data.length) = (u, some xs) → piecesHere u ctx xs → ∃ (t : State) (ds : List (List Byte)),
      exec (.hostPostedWrite o data) s = .next t ∧ ds.length = xs.length ∧ ds.flatten = data.take ((xs.map (·.2.2)).sum) ∧
      (∀ (i : Nat) (x : Loc × Word × Nat) (d : List Byte), xs[i]? = some x → ds[i]? = some d → d.length = min x.2.2 (data.length - ((xs.take i).map (·.2.2)).sum)) ∧
      Stored u t ((xs.map fun (x : Loc × Word × Nat) => u.place x.1).zip ds) ∧ t.hostOut = s.hostOut ∧ t.hostWrote = some s.now) ∧
  ∀ ctx va ty, HostRuns s o n 60 ctx va → (op = 0 ∨ op = 7 ∨ op = 8) → (n = 4 ∧ ty = .n32 ∨ n = 8 ∧ ty = .n64 ∨ n = 16 ∧ op = 8 ∧ ty = .b128) → s.wf → s.mons = [] → s.saved = [] → s.pal = [] →
    (va % n ≠ 0 → ∃ t, exec (.hostAtomicop o n op b c) s = .next t ∧ HostRefused s t false) ∧
    (va % n = 0 → ∀ u, (∀ k, s.enginePlace none ctx true .atomic va n = (u, .error k) → ∃ t, exec (.hostAtomicop o n op b c) s = .next t ∧ HostRefused u t false) ∧
      ∀ x leaf, s.enginePlace none ctx true .atomic va n = (u, .ok (x, leaf)) → (match x with | .hbm _ => True | _ => False) → u.badIn (u.place x) n = false →
        (∀ i < n, holdsBytes ((u.place x).add i)) → rowHere u ctx x → ∃ t new, exec (.hostAtomicop o n op b c) s = .next t ∧
          t.hostOut = s.hostOut ++ [some (u.bytes (u.place x) n)] ∧ atomResult ty op.toNat (leNat (u.bytes (u.place x) n)) (b.toNat % 2 ^ (8 * n)) (c.toNat % 2 ^ (8 * n)) new ∧
          Wrote u t (u.place x) (leBytes n new))

/-- R444-R446: the first pair whose time comes claims term 1 where none leads; a pair claims the next term once HBEAT is too old for its distance, and one whose view is old reads LEAD;
FENCE follows. A pair that diverges reruns, and a second time before its checkpoint fails, which is reported. A write under an older term than FENCE is refused, and any other is performed, to
a register, memory or a core's window, whichever team is there.
Where the power limit stands is the model's choice: log entry 79. -/
def Sys2Proof.Claims.Leadership : Prop := ∀ (s : State) (d : Nat), d < 8 →
  let x := s.pairs.get {} d
  (canLead s d → 100000 * d ≤ s.now → (s.lead = 0 → ∃ t, exec (.leaderBootClaim d) s = .next t ∧ Claimed s t d 1 s.nv) ∧
    (s.lead ≠ 0 → exec (.leaderBootClaim d) s = .next { s with pairs := s.pairs.set d { x with term := leadTerm s.lead } })) ∧
  (¬canLead s d ∨ s.now < 100000 * d → exec (.leaderBootClaim d) s = .next s) ∧
  (canLead s d → x.term < leadTerm s.lead → exec (.leaderTakeoverClaim d) s = .next { s with pairs := s.pairs.set d { x with term := leadTerm s.lead } }) ∧
  (∀ k, RingDistance s d k → leadTerm s.lead ≤ x.term → let due := leadHeld s.lead ∧ s.hbeat ≠ 0 ∧ s.hbeat + 10000000 + (k - 1) * 2000000 ≤ s.now
    (due → ∃ t, exec (.leaderTakeoverClaim d) s = .next t ∧ Claimed s t d (leadTerm s.lead + 1) (counted s (0x0A00 + 4 * d + 3))) ∧
    (¬due → exec (.leaderTakeoverClaim d) s = .next s)) ∧
  exec (.lockstepCheckpoint d) s = .next { s with pairs := s.pairs.set d { x with diverged := 0 } } ∧
  (canLead s d → ∃ t m, exec (.lockstepDivergence d) s = .next t ∧
    t = (if x.diverged = 0 then { s with pairs := t.pairs, nv := t.nv } else { s with pairs := t.pairs, nv := t.nv, imsg := s.imsg.set s.seq m, seq := s.seq + 1, free := s.free + 1 }) ∧
    t.pairs = s.pairs.set d (if x.diverged = 0 then { x with diverged := 1 } else { x with failed := true, diverged := 2 }) ∧
    ∀ i, t.nv.get 0 i = if i = 0x0A00 + 4 * d ∨ i = (if x.diverged = 0 then 0x0A00 + 4 * d + 1 else 0x0A00 + 4 * d + 2) then min (s.nv.get 0 i + 1) (2 ^ 64 - 1) else s.nv.get 0 i) ∧
  ∀ addr v, (x.term < s.fence → exec (.registerWrite d addr v) s = .next { s with nv := counted s 0x0A26, pairs := s.pairs.set d { x with term := leadTerm s.lead } }) ∧
    (s.fence ≤ x.term → ∀ ctx < 4096, ∀ y ∈ burzonWrites s v ctx, addr = 0xF80000000000 + y.1 → exec (.registerWrite d addr v) s = .next { y.2 with lanes := s.wake.lanes }) ∧
    (s.fence ≤ x.term → addr < 2 ^ 40 → addr % 8 = 0 → s.wf → s.mons = [] → s.saved = [] → ∃ t, exec (.registerWrite d addr v) s = .next t ∧
      Wrote s t (s.place (.hbm addr)) (leBytes 8 v.toNat)) ∧
    (s.fence ≤ x.term → 0xF00000000000 ≤ addr → addr < 0xF80000000000 → addr % 8 = 0 → ∀ y, windowLoc (addr - 0xF00000000000) false .st 8 = some y → holdsBytes y → s.wf →
      s.mons = [] → s.absent.get false (y.agent - 0x200) = false → ∃ t, exec (.registerWrite d addr v) s = .next t ∧ Wrote s t y (leBytes 8 v.toNat))

/-- R14, R15, R428, R446: module reset keeps the lifetime records and the cores lost in the field, takes a die that these leave too few out of the mesh, runs the images that verify and are new enough and counts the others, and
asserts the fault output where no pair works; every other state is as after reset. -/
def Sys2Proof.Claims.Module_reset : Prop := ∀ (s : State) (spares : List Nat) (images : List (Nat × Nat × Bool)),
  let runs := images.filter fun (x : Nat × Nat × Bool) => x.2.2 && decide (s.minVer.get 0 (x.1 / 8) ≤ x.2.1)
  let works := fun (d : Nat) => (∃ x ∈ images, x.1 % 8 = d) ∧ ∀ x ∈ images, x.1 % 8 = d → x ∈ runs
  let rejected := images.length - runs.length
  ∃ t, exec (.moduleReset spares images) s = .next t ∧
    t = { State.reset with absent := t.absent, lost := s.lost, nv := t.nv, shutdowns := s.shutdowns, minVer := s.minVer, revoked := s.revoked, lanesUp := s.lanesUp, images := runs, pairs := t.pairs, faultOut := t.faultOut } ∧
    (∀ d < 8, ∀ j < 192, t.absent.get false (192 * d + j) = decide (spares.getD d 200 - s.lost.get 0 d < 192)) ∧
    (∀ d < 8, ((t.pairs.get {} d).working = true ↔ works d) ∧ (t.pairs.get {} d).failed = false ∧ (t.pairs.get {} d).term = 0) ∧
    (t.faultOut = true ↔ ∀ d < 8, ¬works d) ∧ ∀ i, t.nv.get 0 i = if i = 0x0A28 then min (s.nv.get 0 i + rejected) (2 ^ 64 - 1) else s.nv.get 0 i

/-- R28, R29, R211, R429, R443, R447, R448: what is measured or fails is recorded: corrected errors, poison in memory with its channel, in scratchpads and pools, samples of temperature and supply; a failed core is retired, a failed channel
reported, a port goes on with seven lanes, a die that is too hot stops the module; a report carries its nonce and counts. -/
def Sys2Proof.Claims.Records_of_the_part : Prop := ∀ (s : State) (d n m : Nat),
  (d < 8 → n < 256 → exec (.correctedError d n) s = .next { s with nv := counted s (256 * d + n) }) ∧
  (n < 2 ^ 40 → ∃ t, exec (.poisonCreate n) s = .next t ∧ t.bad (s.place (.hbm n)) = true ∧ t.nv = counted s (0x0800 + haOf n) ∧ t.mem = s.mem ∧ t.sp = s.sp) ∧
  (0xF00000000000 ≤ n → ∀ x, windowLoc (n - 0xF00000000000) false (.ld 8) 8 = some x → holdsBytes x → writable s x → ∃ t, exec (.poisonCreate n) s = .next t ∧
    t.bad x = true ∧ t.nv = s.nv ∧ t.mem = s.mem ∧ t.sp = s.sp ∧ t.pool = s.pool) ∧
  (d < 8 → exec (.thermalSample d n) s = .next { s with nv := counted s (0x1000 + 64 * d + min 63 (n / 2)) }) ∧
  (d < 8 → exec (.droopWindow d n) s = .next { s with nv := counted s (0x1200 + 64 * d + min 63 (n / 5)) }) ∧
  exec (.throttle n m) s = .next { s with coreStep := n, haStep := m } ∧
  exec (.thermalShutdown d) s = .next { s with stopped := true, shutdowns := s.shutdowns ++ [d] } ∧
  (d < 8 → exec (.linkLaneFailure d) s = .next { s with lanesUp := s.lanesUp.set d 7 }) ∧
  (n < 512 → n ∉ s.chanFail → ∃ t x, exec (.hbmChannelFailure n) s = .next t ∧ t = { s with chanFail := s.chanFail ++ [n], imsg := s.imsg.set s.seq x, seq := s.seq + 1, free := s.free + 1 }) ∧
  (n < 1536 → n ∉ s.retired → s.teams.find? n = none → (∀ x ∈ s.saved, x.core ≠ n) →
    exec (.coreFieldFailure n) s = .next { s with retired := s.retired ++ [n], lost := s.lost.set (n / 192) (s.lost.get 0 (n / 192) + 1), lanes := s.wake.lanes }) ∧
  (∃ t r, exec (.attestationReport n) s = .next t ∧ t = { s with reports := s.reports ++ [r], free := s.free + 1 } ∧ r.headD 0 = n ∧
    r.getD 1 0 = ((List.range 8).map fun e => s.nv.get 0 (0x0A00 + 4 * e)).sum ∧ r.getD 2 0 = ((List.range 8).map fun e => s.nv.get 0 (0x0A00 + 4 * e + 1)).sum)


namespace Sys2Proof.Claims

-- The whole machine

/-- A guard that always holds (R43). -/
def always (stall : BitVec 3) : Hdr := { stall := stall, gneg := false, gp := 7 }

/-- The spec's worked encodings, and what it says that each word is. -/
def workedWords : List (Word × Instr) :=
  [-- R61: cmp.lt.i64 p1, %lane, 4 with stall 3; shfl.xor.f32 v2, v1, 1, s4
   (0x1B9000383C980302, .cmp { h := always 3, d := 1, a := 0xC1, b := 0xE4, c := 0xC0, ty := .i64, rm := .rne, sat := false, lo := false, opx := 2 }),
   (0x03A800403C308A03, .shfl { h := always 0, d := 2, a := 1, b := 0xE1, c := 0x84, ty := .f32, rm := .rne, sat := false, lo := false, opx := 3 }),
   -- R62: rdsys v3, 6
   (0x03F86078180000C7, .rdsys { h := always 0, d := 3, a := 0xC0, b := 0xC0, imm := 6, ty := .n64 }),
   -- R63: ldw.f32.g v12, [v1+32], v11; st.f32.g.pk v9, [v1+32], v8
   (0x03B10180216010A0, .ldwG { h := always 0, d := 12, a := 1, b := 11, imm := 8, ty := .f32, sc := .no }),
   (0x03B08120210010A7, .stG { h := always 0, d := 9, a := 1, b := 8, imm := 8, ty := .f32, sc := .pk }),
   -- R64: atom.cas.n64.g.pk v4, [v2], v6, v8; rput.fen.lk v5, [v8], v10, c3; trav.any v20, v8, s4
   (0x03C0008040C10E78, .atomG { h := always 0, d := 4, a := 2, b := 6, c := 8, sc := .pk, ty := .n64, mod := 8 }),
   (0x03E840A101407272, .rput { h := always 0, d := 5, a := 8, b := 10, c := 3, sc := .lk, ty := .n64, mod := 2 }),
   (0x03E0028110980071, .trav { h := always 0, d := 20, a := 8, b := 0x84, c := 0xC0, sc := .no, ty := .n64, mod := 1 }),
   -- R65: mma k1, a0, v16, s5, a0, s4, 0; hlp lc1, v3, +3
   (0x03D0200210B08040, .mma { h := always 0, d := 0, a := 16, b := 0x85, e := 0x84, acc := 0, k := 1, imm5 := 0, z := false }),
   (0x03F0C02078000003, .hlp { h := always 0, d := 1, a := 3, b := 0xC0, off := 3 }),
   -- R69: fadd.f32 v4, v4 || add.i64 v6, 80 with stall 3
   (0x76E70804005C3540, .pairFadd { stall := 3, h1 := { ty := .f32, gneg := false, gp := 7, d := 4, imm := false, s := 4 }, op2 := .add, h2 := { ty := .i64, gneg := false, gp := 7, d := 6, imm := true, s := 80 } })]

/-- Words that the spec says to be illegal, and the check that each fails. -/
def illegalWords : List (Word × DecodeError) :=
  [-- R58: a zero word; FORM 0b10
   (0, .field), (0x83B08120210010A7, .form),
   -- R65, R68: hlp with D = 0x02; wfen with SC = 0; ldw with SC = 7
   (0x03F0C04078000003, .field), (0x03B861D818180180, .field), (0x03B10180216010A7, .field),
   -- R72: H2 of the pair word writes v8
   (0x76E70804005C4540, .pair)]

end Sys2Proof.Claims

/-- Reset: what R446 says of the leadership block, and with log entry 2 every other register and byte at 0; the form that every step
keeps holds. -/
def Obligations.Reset_state : Prop :=
  let s := State.reset
  s.wf ∧ s.lead = 0 ∧ s.fence = 0 ∧ s.hbeat = 0 ∧ s.jbase = 0 ∧ s.jhead = BitVec.allOnes 64 ∧ s.now = 0 ∧ s.stopped = false ∧
  (∀ c w l, ∀ r < 192, s.reg c w l r = 0) ∧ (∀ pa, s.mem.get pa = 0) ∧ (∀ a, s.sp.get a = 0) ∧ ∀ c w l, (s.lane c w l).live = false

/-- The words that the spec works out decode to the instructions that it gives them, and those that it calls illegal are refused. -/
def Obligations.Worked_words : Prop :=
  (∀ x ∈ workedWords, decode x.1 = .ok x.2) ∧ ∀ x ∈ illegalWords, decode x.1 = .error x.2

/-- R54-R72: decoding an encoded well-formed word gives it back, and a word that decodes is the encoding of what it decodes to. -/
def Obligations.Encoding_round_trip : Prop :=
  (∀ i : Instr, i.isWord = true → i.wf = true → decode (encode i) = .ok i) ∧
  ∀ (w : Word) (i : Instr), decode w = .ok i → i.isWord = true ∧ i.wf = true ∧ encode i = w

/-- A step does what the front has chosen: it runs the instruction that an issued word decodes to, or the trap of a word that does not
decode (R82), or a step of the schedule; after an instruction whose lanes may wait it ties them (log entry 29), and it notes idle teams
(R262). A stopped module does not step. -/
def Obligations.Step_runs_the_word : Prop := ∀ (s t : State),
  (s.stopped = true → step s = .fault .moduleStopped) ∧
  (s.stopped = false →
    (∀ x i u, State.front { s with now := s.now + 1 } = (t, .issue x) → decode x.word = .ok i → exec i (t.load x) = .next u →
      step s = .next (State.noteIdle (State.tie i x (t.load x) u))) ∧
    (∀ x e u, State.front { s with now := s.now + 1 } = (t, .issue x) → decode x.word = .error e →
      (let user := !(x.lanes.lanes.any fun l => ((t.load x).lane x.core x.slot l).handler)
       exec (.trapEntry (decodeTrap user x.word e).1 (decodeTrap user x.word e).2) (t.load x) = .next u) →
      step s = .next u.noteIdle) ∧
    ∀ i u, State.front { s with now := s.now + 1 } = (t, .event i) → exec i { t with cur := {} } = .next u → step s = .next u.noteIdle)

/-- R310, R311, R318: a cycle that issues by the broadcast port issues, for open lanes of a warp of the sub-core that stand at one PC in
one mode, the word there: from the line that the core's instruction cache holds, or from one dropped after the warp was chosen. -/
def Sys2Proof.Claims.Cycle_issues : Prop := ∀ (s t : State) (c sub : Nat) (x : Issue), s.cycle c sub = (t, .issue x) →
  let u := (s.untie c sub).startFetches c sub
  x.core = c ∧ x.lbp = false ∧ x.slot / 12 = sub ∧ x.slot < (u.team c).nwarp ∧ x.lanes.lanes ≠ [] ∧
    ∃ pc mode l0 pa, (∀ l, l = l0 ∨ l ∈ x.lanes.lanes → u.open_ c x.slot l = true ∧ (u.lane c x.slot l).pc = pc ∧ (u.lane c x.slot l).handler = mode) ∧
      (u.fetchPlace c x.slot l0 pc).2 = some pa ∧ (u.icHas c (pa / 128) = true → x.word = u.wordAt c pa) ∧
      (u.icHas c (pa / 128) = false → ∃ n, (x.slot, pc, x.word, n) ∈ (u.subs.get {} (c * 4 + sub)).kept)

/-- R82 and the whole of the instruction set: every instruction of the table goes on from every state, and neither it nor a step of the
machine takes memory out of its canonical form, in which equal memories are equal data. -/
def Obligations.Steps_keep_form : Prop :=
  (∀ (i : Instr) (s : State), ∃ t, exec i s = .next t ∧ (s.wf → t.wf)) ∧ ∀ (s t : State), s.wf → step s = .next t → t.wf

/-- R82, R406, R431: a word that fails a check traps its whole instance with the check's cause; in user mode the privileged words fail
theirs. -/
def Sys2Proof.Claims.Failed_checks : Prop := ∀ (s : State),
  (∀ (i : Instr) (cause detail : Nat), i.isWord = true → s.check i (s.issuing i) = some (cause, detail) →
    exec i s = .next (s.trapAll (s.issuing i) cause detail)) ∧
  ∀ (f : Alu) (e : Eng) (m : Imm), ∀ x ∈ [Instr.tret f, .tlbiPg e, .tlbiCtx e, .capw e, .capi e] ++
      (if m.imm.toNat ∈ [3, 4, 5, 7] then [.rdsys m] else []),
    s.userMode (s.issuing x) = true → exec x s = .next (s.trapAll (s.issuing x) 0x02 0)

-- The statements that join several claims

/-- Integer words leave their exact result, written by R114; division; immediate forms. -/
def Obligations.Integer_words : Prop :=
  Claims.Integer_words ∧ Claims.Division_words ∧ Claims.Immediate_words

/-- Multiply-add, dot products, sad, lea and the carry words leave the results of R116 and R117. -/
def Obligations.Sums_and_carries : Prop :=
  Claims.Multiply_add_words ∧ Claims.Carry_words

/-- Words on bit patterns, bit by bit; counting; selecting and moving. -/
def Obligations.Bit_and_move_words : Prop :=
  Claims.Bit_words ∧ Claims.Move_words

/-- Floating sums, products, quotients, scaling and rounding: the exact result of the operands, rounded once. -/
def Obligations.Floating_arithmetic : Prop :=
  Claims.Float_arithmetic ∧ Claims.Float_scale_and_round

/-- Minimum, maximum and classes; roots, exponential, logarithm, sine and cosine. -/
def Obligations.Floating_functions : Prop :=
  Claims.Float_order ∧ Claims.Float_functions

/-- cvt: which subelement becomes which, and conversions into integers; xfm. -/
def Obligations.Conversions : Prop :=
  Claims.Conversion_words ∧ Claims.Integer_conversion ∧ Claims.Camera_transform

/-- Cross-lane words give every member lane what the members bring; rdln, wrln and perm. -/
def Obligations.Lane_exchange : Prop :=
  Claims.Shuffle ∧ Claims.Vote ∧ Claims.Reduce_and_scan ∧ Claims.Lane_registers

/-- Loads, stores and atomics send their access to the place of its address, or fault in the lane. -/
def Obligations.Accesses_sent : Prop :=
  Claims.Access_faults ∧ Claims.Loads_ask ∧ Claims.Stores_ask ∧ Claims.Atomics_ask

/-- A load reads the bytes of its place, and its reply lands in the registers that wait for it. -/
def Obligations.Loads_answered : Prop :=
  Claims.Loads_perform ∧ Claims.Replies_land

/-- A store writes its bytes and no other, and answers the witness of its stamp. -/
def Obligations.Stores_performed : Prop :=
  Claims.Stores_perform

/-- An atomic reads, computes and writes at one place, and writes nothing else. -/
def Obligations.Atomics_performed : Prop :=
  Claims.Atomics_perform

/-- Accesses of the scratchpad space, the host, peers and the Burzon die. -/
def Obligations.Other_places : Prop :=
  Claims.Scratchpad_lanes ∧ Claims.Accesses_elsewhere

/-- The transposed store, prefetch, eviction, clearing and block words. -/
def Obligations.Wide_and_cache_words : Prop :=
  Claims.Transposed_store ∧ Claims.Cache_words

/-- The agents of a scope, the narrowest scope of an agent, and the tables of wmrg and wscp. -/
def Obligations.Witness_forming : Prop :=
  Claims.Scopes ∧ Claims.Witness_forming

/-- wtst and wwait follow SATISFIED; a value that is no witness faults its reader. -/
def Obligations.Witness_tests : Prop :=
  Claims.Witness_tests ∧ Claims.Witness_faults

/-- semw, semrd and semset at a semaphore, and the order in which waits are served. -/
def Obligations.Semaphore_words : Prop :=
  Claims.Semaphore_words ∧ Claims.Semaphore_order

/-- Increments of semaphores, by word, store and message. -/
def Obligations.Semaphore_increments : Prop :=
  Claims.Semaphore_increment ∧ Claims.Semaphore_stores

/-- mwait parks its lane on a word, and a write, a poll or the deadline finishes it. -/
def Obligations.Monitors : Prop :=
  Claims.Monitor_wait ∧ Claims.Monitor_finish

/-- Loads, stores and atomics of decayed words. -/
def Obligations.Decayed_words : Prop :=
  Claims.Decayed_access ∧ Claims.Decayed_atomics

/-- The step and the factors: steprd, stepadv, rebasing, power tables. -/
def Obligations.Decay_steps : Prop :=
  Claims.Step_words ∧ Claims.Step_adoption

/-- Branches, calls and returns; exit and kill. -/
def Obligations.Branches : Prop :=
  Claims.Branches ∧ Claims.Lane_ends

/-- hlp starts a loop, and a lane that steps past its end counts it down. -/
def Obligations.Loops : Prop :=
  Claims.Loop_start ∧ Claims.Loop_end

/-- nap, bar and barg park their lanes; what ends the wait. -/
def Obligations.Waits : Prop :=
  Claims.Naps ∧ Claims.Barriers ∧ Claims.Barrier_timeout ∧ Claims.Overdue_swapped

/-- Taking a trap writes the record and enters the handler; tret returns by the record. -/
def Obligations.Traps : Prop :=
  Claims.Failed_checks ∧ Claims.Trap_entry ∧ Claims.Trap_return

/-- capw and capi write capabilities; tlbi and shootdowns drop translations. -/
def Obligations.Isolation_words : Prop :=
  Claims.Capability_words ∧ Claims.Translations_dropped

/-- Convergence registers: declaring, signing, and what a full signature starts. -/
def Obligations.Matrix_signing : Prop :=
  Claims.Matrix_settings ∧ Claims.Matrix_windows ∧ Claims.Matrix_signing

/-- Tile words enter the engine queue in order and move rows. -/
def Obligations.Tile_words : Prop :=
  Claims.Tile_words ∧ Claims.Tile_moves

/-- Copies enter a queue with a handle, and move their bytes. -/
def Obligations.Copies : Prop :=
  Claims.Copies_enter ∧ Claims.Copies_perform

/-- qpush, qpop, qfen and qtail. -/
def Obligations.Queues : Prop :=
  Claims.Architected_queues ∧ Claims.Queue_fence ∧ Claims.Queue_tail

/-- chn queues a chain of the Mill, the Mill streams it, mill.rd and mill.clr. -/
def Obligations.Mill : Prop :=
  Claims.Mill_words ∧ Claims.Mill_streams

/-- Handles: fwait, ftst, fcan, fmov, fst, fld, and what resolves them. -/
def Obligations.Futures : Prop :=
  Claims.Handle_words ∧ Claims.Handles_end

/-- Command chains: their registers, when an entry starts, and what completes it. -/
def Obligations.Chains : Prop :=
  Claims.Chain_control ∧ Claims.Chain_starts ∧ Claims.Chain_completes

/-- Graph nodes are accepted, counted down, completed and run again. -/
def Obligations.Nodes : Prop :=
  Claims.Node_submission ∧ Claims.Node_completion

/-- send, rput, rget and signals: their checks, and the message that goes out. -/
def Obligations.Fabric_words : Prop :=
  Claims.Fabric_checks ∧ Claims.Fabric_words

/-- Connections open, come up, close and fail; key epochs. -/
def Obligations.Connections : Prop :=
  Claims.Connection_life

/-- Acknowledgements end messages; peer reads; remote work records are placed. -/
def Obligations.Messages_end : Prop :=
  Claims.Messages_end ∧ Claims.Links ∧ Claims.Records

/-- Palette slots and queues, amplification and the sampler. -/
def Obligations.Rendering_words : Prop :=
  Claims.Palette_words ∧ Claims.Amplification ∧ Claims.Sampling

/-- trav, tvis and occq: their entry, the nearest hit, visibility and occlusion. -/
def Obligations.Intersection_words : Prop :=
  Claims.Intersection_words ∧ Claims.Ray_traversal ∧ Claims.Visibility

/-- Glaze collectives: coll and bkt, the results, and their order. -/
def Obligations.Collectives : Prop :=
  Claims.Collective_words ∧ Claims.Collective_results ∧ Claims.Collective_order

/-- The front: a cycle issues the word at the PC of its lanes; fetches and loop buffers. -/
def Obligations.Front : Prop :=
  Claims.Cycle_issues ∧ Claims.Fetched

/-- Leadership, module reset, and the records of the part. -/
def Obligations.The_part : Prop :=
  Claims.Leadership ∧ Claims.Module_reset ∧ Claims.Records_of_the_part
end

