-- ==== Sys2Proof/Laws/Memory.lean ====
section
/-! SUPPORT. Memory and tables: a read after a write, and that every memory operation keeps the canonical form. -/

namespace Sys2Proof.Machine

theorem Memory.wfFrom_mono {m n : Nat} {x : Memory} (h : n ≤ m) (hx : Memory.wfFrom m x = true) : Memory.wfFrom n x = true := by
  cases x with
  | nil => rfl
  | cons p t =>
    obtain ⟨a, b⟩ := p
    simp only [Memory.wfFrom, Bool.and_eq_true, decide_eq_true_eq] at hx ⊢
    exact ⟨⟨by omega, hx.1.2⟩, hx.2⟩

theorem Memory.wfFrom_put {n a : Nat} {b : Byte} {x : Memory} (hn : n ≤ a) (hx : Memory.wfFrom n x = true) :
    Memory.wfFrom n (x.put a b) = true := by
  induction x generalizing n with
  | nil => by_cases hb : b = 0#8 <;> simp [Memory.put, Memory.wfFrom, hb, hn]
  | cons p t ih =>
    obtain ⟨k, v⟩ := p
    simp only [Memory.wfFrom, Bool.and_eq_true, decide_eq_true_eq] at hx
    obtain ⟨⟨hk, hv⟩, ht⟩ := hx
    simp only [bne_iff_ne, ne_eq] at hv
    unfold Memory.put
    by_cases h1 : a < k
    · have hk' : a + 1 ≤ k := h1
      by_cases hb : b = 0#8 <;> simp_all [Memory.wfFrom]
    · by_cases h2 : a = k
      · subst h2
        by_cases hb : b = 0#8
        · simpa [hb] using Memory.wfFrom_mono (by omega : n ≤ a + 1) ht
        · simp_all [Memory.wfFrom]
      · have hk' : k + 1 ≤ a := by omega
        have := ih hk' ht
        simpa [h1, h2, Memory.wfFrom, hk, this] using hv

/-- Writing a byte keeps the canonical form. -/
theorem Memory.wf_put {m : Memory} (h : m.wf = true) (a : Nat) (b : Byte) : (m.put a b).wf = true :=
  Memory.wfFrom_put (Nat.zero_le a) h

/-- Writing bytes keeps the canonical form. -/
theorem Memory.wf_write {m : Memory} (h : m.wf = true) (a : Nat) (bs : List Byte) : (m.write a bs).wf = true := by
  induction bs generalizing m a with
  | nil => exact h
  | cons b t ih => exact ih (Memory.wf_put h a b) (a + 1)

theorem Memory.get_of_wfFrom {m : Memory} {n k : Nat} (h : Memory.wfFrom n m = true) (hk : k < n) : m.get k = 0 := by
  cases m with
  | nil => rfl
  | cons p t =>
    obtain ⟨a, b⟩ := p
    simp only [Memory.wfFrom, Bool.and_eq_true, decide_eq_true_eq] at h
    have : ¬a = k := by omega
    have : k < a := by omega
    simp [Memory.get, *]

theorem Memory.get_put_from {m : Memory} {n : Nat} (h : Memory.wfFrom n m = true) (a : Nat) (b : Byte) (k : Nat) :
    (m.put a b).get k = if k = a then b else m.get k := by
  induction m generalizing n with
  | nil => by_cases hb : b = 0#8 <;> by_cases hk : k = a <;> grind [Memory.put, Memory.get]
  | cons p t ih =>
    obtain ⟨j, v⟩ := p
    simp only [Memory.wfFrom, Bool.and_eq_true, decide_eq_true_eq] at h
    obtain ⟨-, ht⟩ := h
    unfold Memory.put
    by_cases h1 : a < j
    · by_cases hb : b = 0 <;> by_cases hk : k = a <;> grind [Memory.get]
    · by_cases h2 : a = j
      · subst h2
        have := @Memory.get_of_wfFrom t (a + 1) k ht
        by_cases hb : b = 0 <;> by_cases hk : k = a <;> grind [Memory.get]
      · simp only [h1, h2, if_false, Memory.get, ih ht]
        by_cases hk : k = a <;> grind

/-- A read of one byte after a write of one byte. -/
theorem Memory.get_put {m : Memory} (h : m.wf = true) (a : Nat) (b : Byte) (k : Nat) :
    (m.put a b).get k = if k = a then b else m.get k := Memory.get_put_from h a b k

/-- Bytes outside the written ones read as before. -/
theorem Memory.get_write_outside {m : Memory} (h : m.wf = true) (a : Nat) (bs : List Byte) {k : Nat}
    (hk : k < a ∨ a + bs.length ≤ k) : (m.write a bs).get k = m.get k := by
  induction bs generalizing m a with
  | nil => rfl
  | cons b t ih =>
    simp only [List.length_cons] at hk
    rw [Memory.write, ih (Memory.wf_put h a b) (a + 1) (by omega), Memory.get_put h]
    simp [show k ≠ a by omega]

/-- Two canonical memories that hold the same bytes are equal. -/
theorem Memory.ext_get {m n : Memory} {k : Nat} (hm : Memory.wfFrom k m = true) (hn : Memory.wfFrom k n = true)
    (h : ∀ a, m.get a = n.get a) : m = n := by
  induction m generalizing n k with
  | nil =>
    cases n with
    | nil => rfl
    | cons p t =>
      obtain ⟨a, b⟩ := p
      have := h a
      simp [Memory.get, Memory.wfFrom] at this hn
      exact absurd this.symm hn.1.2
  | cons p t ih =>
    obtain ⟨a, b⟩ := p
    simp only [Memory.wfFrom, Bool.and_eq_true, decide_eq_true_eq, bne_iff_ne] at hm
    cases n with
    | nil =>
      have := h a
      simp [Memory.get] at this
      exact absurd this hm.1.2
    | cons q u =>
      obtain ⟨c, d⟩ := q
      simp only [Memory.wfFrom, Bool.and_eq_true, decide_eq_true_eq, bne_iff_ne] at hn
      have ha := h a
      have hc := h c
      have hac : a = c := by
        rcases Nat.lt_trichotomy a c with l | l | l
        · exfalso; apply hm.1.2; simpa [Memory.get, show ¬ c = a by omega, l] using ha
        · exact l
        · exfalso; apply hn.1.2; simpa [Memory.get, show ¬ a = c by omega, l] using hc.symm
      subst hac
      have hbd : b = d := by simpa [Memory.get] using ha
      subst hbd
      congr 1
      apply ih hm.2 hn.2
      intro x
      by_cases hx : x ≤ a
      · rw [Memory.get_of_wfFrom hm.2 (by omega), Memory.get_of_wfFrom hn.2 (by omega)]
      · have := h x
        simpa [Memory.get, show ¬ a = x by omega, show ¬ x < a by omega] using this

end Sys2Proof.Machine

namespace Sys2Proof

/-- A key's value after a value is listed at it. -/
@[simp] theorem Tab.find?_set_same {α : Type} (t : Tab α) (k : Nat) (v : α) : (t.set k v).find? k = some v := by
  induction t with
  | nil => simp [Tab.set, Tab.find?]
  | cons p t ih =>
    obtain ⟨j, w⟩ := p
    unfold Tab.set
    by_cases h1 : j = k
    · simp [h1, Tab.find?]
    · by_cases h2 : k < j
      · simp [h1, h2, Tab.find?]
      · simp [h1, h2, Tab.find?, ih]

/-- Other keys keep what they list. -/
theorem Tab.find?_set_other {α : Type} (t : Tab α) {k n : Nat} (v : α) (h : n ≠ k) : (t.set k v).find? n = t.find? n := by
  induction t with
  | nil => simp [Tab.set, Tab.find?, Ne.symm h]
  | cons p t ih =>
    obtain ⟨j, w⟩ := p
    unfold Tab.set
    by_cases h1 : j = k
    · simp [h1, Tab.find?, Ne.symm h]
    · by_cases h2 : k < j
      · by_cases h3 : n < k
        · have : ¬ j = n := by omega
          simp [h1, h2, h3, Tab.find?, Ne.symm h, this, show n < j by omega]
        · simp [h1, h2, h3, Tab.find?, Ne.symm h]
      · simp only [h1, h2, if_false, Tab.find?, ih]

@[simp] theorem Tab.get_set_same {α : Type} (d : α) (t : Tab α) (k : Nat) (v : α) : Tab.get d (t.set k v) k = v := by
  simp [Tab.get]

theorem Tab.get_set_other {α : Type} (d : α) (t : Tab α) {k n : Nat} (v : α) (h : n ≠ k) :
    Tab.get d (t.set k v) n = Tab.get d t n := by
  simp [Tab.get, Tab.find?_set_other t v h]

end Sys2Proof
end

