-- ==== Sys2Proof/Laws/State.lean ====
section
/-! SUPPORT. What each update of a lane, a warp, a team or a context leaves of every other field, and what it writes. -/

namespace Sys2Proof.Machine

@[simp] theorem State.setLane_now (s : State) (c w l : Nat) (x : LaneSt) : (s.setLane c w l x).now = s.now := rfl
@[simp] theorem State.setLane_cur (s : State) (c w l : Nat) (x : LaneSt) : (s.setLane c w l x).cur = s.cur := rfl
@[simp] theorem State.setLane_second (s : State) (c w l : Nat) (x : LaneSt) : (s.setLane c w l x).second = s.second := rfl
@[simp] theorem State.setLane_agenda (s : State) (c w l : Nat) (x : LaneSt) : (s.setLane c w l x).agenda = s.agenda := rfl
@[simp] theorem State.setLane_turn (s : State) (c w l : Nat) (x : LaneSt) : (s.setLane c w l x).turn = s.turn := rfl
@[simp] theorem State.setLane_free (s : State) (c w l : Nat) (x : LaneSt) : (s.setLane c w l x).free = s.free := rfl
@[simp] theorem State.setLane_seq (s : State) (c w l : Nat) (x : LaneSt) : (s.setLane c w l x).seq = s.seq := rfl
@[simp] theorem State.setLane_stopped (s : State) (c w l : Nat) (x : LaneSt) : (s.setLane c w l x).stopped = s.stopped := rfl
@[simp] theorem State.setLane_faultOut (s : State) (c w l : Nat) (x : LaneSt) : (s.setLane c w l x).faultOut = s.faultOut := rfl
@[simp] theorem State.setLane_mem (s : State) (c w l : Nat) (x : LaneSt) : (s.setLane c w l x).mem = s.mem := rfl
@[simp] theorem State.setLane_poison (s : State) (c w l : Nat) (x : LaneSt) : (s.setLane c w l x).poison = s.poison := rfl
@[simp] theorem State.setLane_tags (s : State) (c w l : Nat) (x : LaneSt) : (s.setLane c w l x).tags = s.tags := rfl
@[simp] theorem State.setLane_comp (s : State) (c w l : Nat) (x : LaneSt) : (s.setLane c w l x).comp = s.comp := rfl
@[simp] theorem State.setLane_dirty (s : State) (c w l : Nat) (x : LaneSt) : (s.setLane c w l x).dirty = s.dirty := rfl
@[simp] theorem State.setLane_reps (s : State) (c w l : Nat) (x : LaneSt) : (s.setLane c w l x).reps = s.reps := rfl
@[simp] theorem State.setLane_attrs (s : State) (c w l : Nat) (x : LaneSt) : (s.setLane c w l x).attrs = s.attrs := rfl
@[simp] theorem State.setLane_absent (s : State) (c w l : Nat) (x : LaneSt) : (s.setLane c w l x).absent = s.absent := rfl
@[simp] theorem State.setLane_pool (s : State) (c w l : Nat) (x : LaneSt) : (s.setLane c w l x).pool = s.pool := rfl
@[simp] theorem State.setLane_marks (s : State) (c w l : Nat) (x : LaneSt) : (s.setLane c w l x).marks = s.marks := rfl
@[simp] theorem State.setLane_ureg (s : State) (c w l : Nat) (x : LaneSt) : (s.setLane c w l x).ureg = s.ureg := rfl
@[simp] theorem State.setLane_umarks (s : State) (c w l : Nat) (x : LaneSt) : (s.setLane c w l x).umarks = s.umarks := rfl
@[simp] theorem State.setLane_sp (s : State) (c w l : Nat) (x : LaneSt) : (s.setLane c w l x).sp = s.sp := rfl
@[simp] theorem State.setLane_spPoison (s : State) (c w l : Nat) (x : LaneSt) : (s.setLane c w l x).spPoison = s.spPoison := rfl
@[simp] theorem State.setLane_teams (s : State) (c w l : Nat) (x : LaneSt) : (s.setLane c w l x).teams = s.teams := rfl
@[simp] theorem State.setLane_warps (s : State) (c w l : Nat) (x : LaneSt) : (s.setLane c w l x).warps = s.warps := rfl
@[simp] theorem State.setLane_fut (s : State) (c w l : Nat) (x : LaneSt) : (s.setLane c w l x).fut = s.fut := rfl
@[simp] theorem State.setLane_tlb (s : State) (c w l : Nat) (x : LaneSt) : (s.setLane c w l x).tlb = s.tlb := rfl
@[simp] theorem State.setLane_dtlb (s : State) (c w l : Nat) (x : LaneSt) : (s.setLane c w l x).dtlb = s.dtlb := rfl
@[simp] theorem State.setLane_l1 (s : State) (c w l : Nat) (x : LaneSt) : (s.setLane c w l x).l1 = s.l1 := rfl
@[simp] theorem State.setLane_ic (s : State) (c w l : Nat) (x : LaneSt) : (s.setLane c w l x).ic = s.ic := rfl
@[simp] theorem State.setLane_lb (s : State) (c w l : Nat) (x : LaneSt) : (s.setLane c w l x).lb = s.lb := rfl
@[simp] theorem State.setLane_fills (s : State) (c w l : Nat) (x : LaneSt) : (s.setLane c w l x).fills = s.fills := rfl
@[simp] theorem State.setLane_subs (s : State) (c w l : Nat) (x : LaneSt) : (s.setLane c w l x).subs = s.subs := rfl
@[simp] theorem State.setLane_mx (s : State) (c w l : Nat) (x : LaneSt) : (s.setLane c w l x).mx = s.mx := rfl
@[simp] theorem State.setLane_iu (s : State) (c w l : Nat) (x : LaneSt) : (s.setLane c w l x).iu = s.iu := rfl
@[simp] theorem State.setLane_cq (s : State) (c w l : Nat) (x : LaneSt) : (s.setLane c w l x).cq = s.cq := rfl
@[simp] theorem State.setLane_dropped (s : State) (c w l : Nat) (x : LaneSt) : (s.setLane c w l x).dropped = s.dropped := rfl
@[simp] theorem State.setLane_replies (s : State) (c w l : Nat) (x : LaneSt) : (s.setLane c w l x).replies = s.replies := rfl
@[simp] theorem State.setLane_reqs (s : State) (c w l : Nat) (x : LaneSt) : (s.setLane c w l x).reqs = s.reqs := rfl
@[simp] theorem State.setLane_joins (s : State) (c w l : Nat) (x : LaneSt) : (s.setLane c w l x).joins = s.joins := rfl
@[simp] theorem State.setLane_ctBase (s : State) (c w l : Nat) (x : LaneSt) : (s.setLane c w l x).ctBase = s.ctBase := rfl
@[simp] theorem State.setLane_ct (s : State) (c w l : Nat) (x : LaneSt) : (s.setLane c w l x).ct = s.ct := rfl
@[simp] theorem State.setLane_mons (s : State) (c w l : Nat) (x : LaneSt) : (s.setLane c w l x).mons = s.mons := rfl
@[simp] theorem State.setLane_ctxs (s : State) (c w l : Nat) (x : LaneSt) : (s.setLane c w l x).ctxs = s.ctxs := rfl
@[simp] theorem State.setLane_nodes (s : State) (c w l : Nat) (x : LaneSt) : (s.setLane c w l x).nodes = s.nodes := rfl
@[simp] theorem State.setLane_ready (s : State) (c w l : Nat) (x : LaneSt) : (s.setLane c w l x).ready = s.ready := rfl
@[simp] theorem State.setLane_heldDec (s : State) (c w l : Nat) (x : LaneSt) : (s.setLane c w l x).heldDec = s.heldDec := rfl
@[simp] theorem State.setLane_saved (s : State) (c w l : Nat) (x : LaneSt) : (s.setLane c w l x).saved = s.saved := rfl
@[simp] theorem State.setLane_drains (s : State) (c w l : Nat) (x : LaneSt) : (s.setLane c w l x).drains = s.drains := rfl
@[simp] theorem State.setLane_backfillOff (s : State) (c w l : Nat) (x : LaneSt) : (s.setLane c w l x).backfillOff = s.backfillOff := rfl
@[simp] theorem State.setLane_caps (s : State) (c w l : Nat) (x : LaneSt) : (s.setLane c w l x).caps = s.caps := rfl
@[simp] theorem State.setLane_shadows (s : State) (c w l : Nat) (x : LaneSt) : (s.setLane c w l x).shadows = s.shadows := rfl
@[simp] theorem State.setLane_psems (s : State) (c w l : Nat) (x : LaneSt) : (s.setLane c w l x).psems = s.psems := rfl
@[simp] theorem State.setLane_psemOwner (s : State) (c w l : Nat) (x : LaneSt) : (s.setLane c w l x).psemOwner = s.psemOwner := rfl
@[simp] theorem State.setLane_chains (s : State) (c w l : Nat) (x : LaneSt) : (s.setLane c w l x).chains = s.chains := rfl
@[simp] theorem State.setLane_rr (s : State) (c w l : Nat) (x : LaneSt) : (s.setLane c w l x).rr = s.rr := rfl
@[simp] theorem State.setLane_conns (s : State) (c w l : Nat) (x : LaneSt) : (s.setLane c w l x).conns = s.conns := rfl
@[simp] theorem State.setLane_keys (s : State) (c w l : Nat) (x : LaneSt) : (s.setLane c w l x).keys = s.keys := rfl
@[simp] theorem State.setLane_endps (s : State) (c w l : Nat) (x : LaneSt) : (s.setLane c w l x).endps = s.endps := rfl
@[simp] theorem State.setLane_allow (s : State) (c w l : Nat) (x : LaneSt) : (s.setLane c w l x).allow = s.allow := rfl
@[simp] theorem State.setLane_inbox (s : State) (c w l : Nat) (x : LaneSt) : (s.setLane c w l x).inbox = s.inbox := rfl
@[simp] theorem State.setLane_errq (s : State) (c w l : Nat) (x : LaneSt) : (s.setLane c w l x).errq = s.errq := rfl
@[simp] theorem State.setLane_rrc (s : State) (c w l : Nat) (x : LaneSt) : (s.setLane c w l x).rrc = s.rrc := rfl
@[simp] theorem State.setLane_rrcFetch (s : State) (c w l : Nat) (x : LaneSt) : (s.setLane c w l x).rrcFetch = s.rrcFetch := rfl
@[simp] theorem State.setLane_reexec (s : State) (c w l : Nat) (x : LaneSt) : (s.setLane c w l x).reexec = s.reexec := rfl
@[simp] theorem State.setLane_pal (s : State) (c w l : Nat) (x : LaneSt) : (s.setLane c w l x).pal = s.pal := rfl
@[simp] theorem State.setLane_colls (s : State) (c w l : Nat) (x : LaneSt) : (s.setLane c w l x).colls = s.colls := rfl
@[simp] theorem State.setLane_imsic (s : State) (c w l : Nat) (x : LaneSt) : (s.setLane c w l x).imsic = s.imsic := rfl
@[simp] theorem State.setLane_imsg (s : State) (c w l : Nat) (x : LaneSt) : (s.setLane c w l x).imsg = s.imsg := rfl
@[simp] theorem State.setLane_shootVa (s : State) (c w l : Nat) (x : LaneSt) : (s.setLane c w l x).shootVa = s.shootVa := rfl
@[simp] theorem State.setLane_shootId (s : State) (c w l : Nat) (x : LaneSt) : (s.setLane c w l x).shootId = s.shootId := rfl
@[simp] theorem State.setLane_shootCount (s : State) (c w l : Nat) (x : LaneSt) : (s.setLane c w l x).shootCount = s.shootCount := rfl
@[simp] theorem State.setLane_shootQ (s : State) (c w l : Nat) (x : LaneSt) : (s.setLane c w l x).shootQ = s.shootQ := rfl
@[simp] theorem State.setLane_shootMark (s : State) (c w l : Nat) (x : LaneSt) : (s.setLane c w l x).shootMark = s.shootMark := rfl
@[simp] theorem State.setLane_inb (s : State) (c w l : Nat) (x : LaneSt) : (s.setLane c w l x).inb = s.inb := rfl
@[simp] theorem State.setLane_escid (s : State) (c w l : Nat) (x : LaneSt) : (s.setLane c w l x).escid = s.escid := rfl
@[simp] theorem State.setLane_lead (s : State) (c w l : Nat) (x : LaneSt) : (s.setLane c w l x).lead = s.lead := rfl
@[simp] theorem State.setLane_hbeat (s : State) (c w l : Nat) (x : LaneSt) : (s.setLane c w l x).hbeat = s.hbeat := rfl
@[simp] theorem State.setLane_fence (s : State) (c w l : Nat) (x : LaneSt) : (s.setLane c w l x).fence = s.fence := rfl
@[simp] theorem State.setLane_jbase (s : State) (c w l : Nat) (x : LaneSt) : (s.setLane c w l x).jbase = s.jbase := rfl
@[simp] theorem State.setLane_jhead (s : State) (c w l : Nat) (x : LaneSt) : (s.setLane c w l x).jhead = s.jhead := rfl
@[simp] theorem State.setLane_pairs (s : State) (c w l : Nat) (x : LaneSt) : (s.setLane c w l x).pairs = s.pairs := rfl
@[simp] theorem State.setLane_nv (s : State) (c w l : Nat) (x : LaneSt) : (s.setLane c w l x).nv = s.nv := rfl
@[simp] theorem State.setLane_shutdowns (s : State) (c w l : Nat) (x : LaneSt) : (s.setLane c w l x).shutdowns = s.shutdowns := rfl
@[simp] theorem State.setLane_retired (s : State) (c w l : Nat) (x : LaneSt) : (s.setLane c w l x).retired = s.retired := rfl
@[simp] theorem State.setLane_lost (s : State) (c w l : Nat) (x : LaneSt) : (s.setLane c w l x).lost = s.lost := rfl
@[simp] theorem State.setLane_coreStep (s : State) (c w l : Nat) (x : LaneSt) : (s.setLane c w l x).coreStep = s.coreStep := rfl
@[simp] theorem State.setLane_haStep (s : State) (c w l : Nat) (x : LaneSt) : (s.setLane c w l x).haStep = s.haStep := rfl
@[simp] theorem State.setLane_powerLimit (s : State) (c w l : Nat) (x : LaneSt) : (s.setLane c w l x).powerLimit = s.powerLimit := rfl
@[simp] theorem State.setLane_minVer (s : State) (c w l : Nat) (x : LaneSt) : (s.setLane c w l x).minVer = s.minVer := rfl
@[simp] theorem State.setLane_revoked (s : State) (c w l : Nat) (x : LaneSt) : (s.setLane c w l x).revoked = s.revoked := rfl
@[simp] theorem State.setLane_images (s : State) (c w l : Nat) (x : LaneSt) : (s.setLane c w l x).images = s.images := rfl
@[simp] theorem State.setLane_reports (s : State) (c w l : Nat) (x : LaneSt) : (s.setLane c w l x).reports = s.reports := rfl
@[simp] theorem State.setLane_lanesUp (s : State) (c w l : Nat) (x : LaneSt) : (s.setLane c w l x).lanesUp = s.lanesUp := rfl
@[simp] theorem State.setLane_chanFail (s : State) (c w l : Nat) (x : LaneSt) : (s.setLane c w l x).chanFail = s.chanFail := rfl
@[simp] theorem State.setLane_hostOut (s : State) (c w l : Nat) (x : LaneSt) : (s.setLane c w l x).hostOut = s.hostOut := rfl
@[simp] theorem State.setLane_hostWrote (s : State) (c w l : Nat) (x : LaneSt) : (s.setLane c w l x).hostWrote = s.hostWrote := rfl
@[simp] theorem State.setLane_outbox (s : State) (c w l : Nat) (x : LaneSt) : (s.setLane c w l x).outbox = s.outbox := rfl

@[simp] theorem State.setWarp_now (s : State) (c w : Nat) (x : WarpSt) : (s.setWarp c w x).now = s.now := rfl
@[simp] theorem State.setWarp_cur (s : State) (c w : Nat) (x : WarpSt) : (s.setWarp c w x).cur = s.cur := rfl
@[simp] theorem State.setWarp_second (s : State) (c w : Nat) (x : WarpSt) : (s.setWarp c w x).second = s.second := rfl
@[simp] theorem State.setWarp_agenda (s : State) (c w : Nat) (x : WarpSt) : (s.setWarp c w x).agenda = s.agenda := rfl
@[simp] theorem State.setWarp_turn (s : State) (c w : Nat) (x : WarpSt) : (s.setWarp c w x).turn = s.turn := rfl
@[simp] theorem State.setWarp_free (s : State) (c w : Nat) (x : WarpSt) : (s.setWarp c w x).free = s.free := rfl
@[simp] theorem State.setWarp_seq (s : State) (c w : Nat) (x : WarpSt) : (s.setWarp c w x).seq = s.seq := rfl
@[simp] theorem State.setWarp_stopped (s : State) (c w : Nat) (x : WarpSt) : (s.setWarp c w x).stopped = s.stopped := rfl
@[simp] theorem State.setWarp_faultOut (s : State) (c w : Nat) (x : WarpSt) : (s.setWarp c w x).faultOut = s.faultOut := rfl
@[simp] theorem State.setWarp_mem (s : State) (c w : Nat) (x : WarpSt) : (s.setWarp c w x).mem = s.mem := rfl
@[simp] theorem State.setWarp_poison (s : State) (c w : Nat) (x : WarpSt) : (s.setWarp c w x).poison = s.poison := rfl
@[simp] theorem State.setWarp_tags (s : State) (c w : Nat) (x : WarpSt) : (s.setWarp c w x).tags = s.tags := rfl
@[simp] theorem State.setWarp_comp (s : State) (c w : Nat) (x : WarpSt) : (s.setWarp c w x).comp = s.comp := rfl
@[simp] theorem State.setWarp_dirty (s : State) (c w : Nat) (x : WarpSt) : (s.setWarp c w x).dirty = s.dirty := rfl
@[simp] theorem State.setWarp_reps (s : State) (c w : Nat) (x : WarpSt) : (s.setWarp c w x).reps = s.reps := rfl
@[simp] theorem State.setWarp_attrs (s : State) (c w : Nat) (x : WarpSt) : (s.setWarp c w x).attrs = s.attrs := rfl
@[simp] theorem State.setWarp_absent (s : State) (c w : Nat) (x : WarpSt) : (s.setWarp c w x).absent = s.absent := rfl
@[simp] theorem State.setWarp_pool (s : State) (c w : Nat) (x : WarpSt) : (s.setWarp c w x).pool = s.pool := rfl
@[simp] theorem State.setWarp_marks (s : State) (c w : Nat) (x : WarpSt) : (s.setWarp c w x).marks = s.marks := rfl
@[simp] theorem State.setWarp_ureg (s : State) (c w : Nat) (x : WarpSt) : (s.setWarp c w x).ureg = s.ureg := rfl
@[simp] theorem State.setWarp_umarks (s : State) (c w : Nat) (x : WarpSt) : (s.setWarp c w x).umarks = s.umarks := rfl
@[simp] theorem State.setWarp_sp (s : State) (c w : Nat) (x : WarpSt) : (s.setWarp c w x).sp = s.sp := rfl
@[simp] theorem State.setWarp_spPoison (s : State) (c w : Nat) (x : WarpSt) : (s.setWarp c w x).spPoison = s.spPoison := rfl
@[simp] theorem State.setWarp_teams (s : State) (c w : Nat) (x : WarpSt) : (s.setWarp c w x).teams = s.teams := rfl
@[simp] theorem State.setWarp_lanes (s : State) (c w : Nat) (x : WarpSt) : (s.setWarp c w x).lanes = s.lanes := rfl
@[simp] theorem State.setWarp_fut (s : State) (c w : Nat) (x : WarpSt) : (s.setWarp c w x).fut = s.fut := rfl
@[simp] theorem State.setWarp_tlb (s : State) (c w : Nat) (x : WarpSt) : (s.setWarp c w x).tlb = s.tlb := rfl
@[simp] theorem State.setWarp_dtlb (s : State) (c w : Nat) (x : WarpSt) : (s.setWarp c w x).dtlb = s.dtlb := rfl
@[simp] theorem State.setWarp_l1 (s : State) (c w : Nat) (x : WarpSt) : (s.setWarp c w x).l1 = s.l1 := rfl
@[simp] theorem State.setWarp_ic (s : State) (c w : Nat) (x : WarpSt) : (s.setWarp c w x).ic = s.ic := rfl
@[simp] theorem State.setWarp_lb (s : State) (c w : Nat) (x : WarpSt) : (s.setWarp c w x).lb = s.lb := rfl
@[simp] theorem State.setWarp_fills (s : State) (c w : Nat) (x : WarpSt) : (s.setWarp c w x).fills = s.fills := rfl
@[simp] theorem State.setWarp_subs (s : State) (c w : Nat) (x : WarpSt) : (s.setWarp c w x).subs = s.subs := rfl
@[simp] theorem State.setWarp_mx (s : State) (c w : Nat) (x : WarpSt) : (s.setWarp c w x).mx = s.mx := rfl
@[simp] theorem State.setWarp_iu (s : State) (c w : Nat) (x : WarpSt) : (s.setWarp c w x).iu = s.iu := rfl
@[simp] theorem State.setWarp_cq (s : State) (c w : Nat) (x : WarpSt) : (s.setWarp c w x).cq = s.cq := rfl
@[simp] theorem State.setWarp_dropped (s : State) (c w : Nat) (x : WarpSt) : (s.setWarp c w x).dropped = s.dropped := rfl
@[simp] theorem State.setWarp_replies (s : State) (c w : Nat) (x : WarpSt) : (s.setWarp c w x).replies = s.replies := rfl
@[simp] theorem State.setWarp_reqs (s : State) (c w : Nat) (x : WarpSt) : (s.setWarp c w x).reqs = s.reqs := rfl
@[simp] theorem State.setWarp_joins (s : State) (c w : Nat) (x : WarpSt) : (s.setWarp c w x).joins = s.joins := rfl
@[simp] theorem State.setWarp_ctBase (s : State) (c w : Nat) (x : WarpSt) : (s.setWarp c w x).ctBase = s.ctBase := rfl
@[simp] theorem State.setWarp_ct (s : State) (c w : Nat) (x : WarpSt) : (s.setWarp c w x).ct = s.ct := rfl
@[simp] theorem State.setWarp_mons (s : State) (c w : Nat) (x : WarpSt) : (s.setWarp c w x).mons = s.mons := rfl
@[simp] theorem State.setWarp_ctxs (s : State) (c w : Nat) (x : WarpSt) : (s.setWarp c w x).ctxs = s.ctxs := rfl
@[simp] theorem State.setWarp_nodes (s : State) (c w : Nat) (x : WarpSt) : (s.setWarp c w x).nodes = s.nodes := rfl
@[simp] theorem State.setWarp_ready (s : State) (c w : Nat) (x : WarpSt) : (s.setWarp c w x).ready = s.ready := rfl
@[simp] theorem State.setWarp_heldDec (s : State) (c w : Nat) (x : WarpSt) : (s.setWarp c w x).heldDec = s.heldDec := rfl
@[simp] theorem State.setWarp_saved (s : State) (c w : Nat) (x : WarpSt) : (s.setWarp c w x).saved = s.saved := rfl
@[simp] theorem State.setWarp_drains (s : State) (c w : Nat) (x : WarpSt) : (s.setWarp c w x).drains = s.drains := rfl
@[simp] theorem State.setWarp_backfillOff (s : State) (c w : Nat) (x : WarpSt) : (s.setWarp c w x).backfillOff = s.backfillOff := rfl
@[simp] theorem State.setWarp_caps (s : State) (c w : Nat) (x : WarpSt) : (s.setWarp c w x).caps = s.caps := rfl
@[simp] theorem State.setWarp_shadows (s : State) (c w : Nat) (x : WarpSt) : (s.setWarp c w x).shadows = s.shadows := rfl
@[simp] theorem State.setWarp_psems (s : State) (c w : Nat) (x : WarpSt) : (s.setWarp c w x).psems = s.psems := rfl
@[simp] theorem State.setWarp_psemOwner (s : State) (c w : Nat) (x : WarpSt) : (s.setWarp c w x).psemOwner = s.psemOwner := rfl
@[simp] theorem State.setWarp_chains (s : State) (c w : Nat) (x : WarpSt) : (s.setWarp c w x).chains = s.chains := rfl
@[simp] theorem State.setWarp_rr (s : State) (c w : Nat) (x : WarpSt) : (s.setWarp c w x).rr = s.rr := rfl
@[simp] theorem State.setWarp_conns (s : State) (c w : Nat) (x : WarpSt) : (s.setWarp c w x).conns = s.conns := rfl
@[simp] theorem State.setWarp_keys (s : State) (c w : Nat) (x : WarpSt) : (s.setWarp c w x).keys = s.keys := rfl
@[simp] theorem State.setWarp_endps (s : State) (c w : Nat) (x : WarpSt) : (s.setWarp c w x).endps = s.endps := rfl
@[simp] theorem State.setWarp_allow (s : State) (c w : Nat) (x : WarpSt) : (s.setWarp c w x).allow = s.allow := rfl
@[simp] theorem State.setWarp_inbox (s : State) (c w : Nat) (x : WarpSt) : (s.setWarp c w x).inbox = s.inbox := rfl
@[simp] theorem State.setWarp_errq (s : State) (c w : Nat) (x : WarpSt) : (s.setWarp c w x).errq = s.errq := rfl
@[simp] theorem State.setWarp_rrc (s : State) (c w : Nat) (x : WarpSt) : (s.setWarp c w x).rrc = s.rrc := rfl
@[simp] theorem State.setWarp_rrcFetch (s : State) (c w : Nat) (x : WarpSt) : (s.setWarp c w x).rrcFetch = s.rrcFetch := rfl
@[simp] theorem State.setWarp_reexec (s : State) (c w : Nat) (x : WarpSt) : (s.setWarp c w x).reexec = s.reexec := rfl
@[simp] theorem State.setWarp_pal (s : State) (c w : Nat) (x : WarpSt) : (s.setWarp c w x).pal = s.pal := rfl
@[simp] theorem State.setWarp_colls (s : State) (c w : Nat) (x : WarpSt) : (s.setWarp c w x).colls = s.colls := rfl
@[simp] theorem State.setWarp_imsic (s : State) (c w : Nat) (x : WarpSt) : (s.setWarp c w x).imsic = s.imsic := rfl
@[simp] theorem State.setWarp_imsg (s : State) (c w : Nat) (x : WarpSt) : (s.setWarp c w x).imsg = s.imsg := rfl
@[simp] theorem State.setWarp_shootVa (s : State) (c w : Nat) (x : WarpSt) : (s.setWarp c w x).shootVa = s.shootVa := rfl
@[simp] theorem State.setWarp_shootId (s : State) (c w : Nat) (x : WarpSt) : (s.setWarp c w x).shootId = s.shootId := rfl
@[simp] theorem State.setWarp_shootCount (s : State) (c w : Nat) (x : WarpSt) : (s.setWarp c w x).shootCount = s.shootCount := rfl
@[simp] theorem State.setWarp_shootQ (s : State) (c w : Nat) (x : WarpSt) : (s.setWarp c w x).shootQ = s.shootQ := rfl
@[simp] theorem State.setWarp_shootMark (s : State) (c w : Nat) (x : WarpSt) : (s.setWarp c w x).shootMark = s.shootMark := rfl
@[simp] theorem State.setWarp_inb (s : State) (c w : Nat) (x : WarpSt) : (s.setWarp c w x).inb = s.inb := rfl
@[simp] theorem State.setWarp_escid (s : State) (c w : Nat) (x : WarpSt) : (s.setWarp c w x).escid = s.escid := rfl
@[simp] theorem State.setWarp_lead (s : State) (c w : Nat) (x : WarpSt) : (s.setWarp c w x).lead = s.lead := rfl
@[simp] theorem State.setWarp_hbeat (s : State) (c w : Nat) (x : WarpSt) : (s.setWarp c w x).hbeat = s.hbeat := rfl
@[simp] theorem State.setWarp_fence (s : State) (c w : Nat) (x : WarpSt) : (s.setWarp c w x).fence = s.fence := rfl
@[simp] theorem State.setWarp_jbase (s : State) (c w : Nat) (x : WarpSt) : (s.setWarp c w x).jbase = s.jbase := rfl
@[simp] theorem State.setWarp_jhead (s : State) (c w : Nat) (x : WarpSt) : (s.setWarp c w x).jhead = s.jhead := rfl
@[simp] theorem State.setWarp_pairs (s : State) (c w : Nat) (x : WarpSt) : (s.setWarp c w x).pairs = s.pairs := rfl
@[simp] theorem State.setWarp_nv (s : State) (c w : Nat) (x : WarpSt) : (s.setWarp c w x).nv = s.nv := rfl
@[simp] theorem State.setWarp_shutdowns (s : State) (c w : Nat) (x : WarpSt) : (s.setWarp c w x).shutdowns = s.shutdowns := rfl
@[simp] theorem State.setWarp_retired (s : State) (c w : Nat) (x : WarpSt) : (s.setWarp c w x).retired = s.retired := rfl
@[simp] theorem State.setWarp_lost (s : State) (c w : Nat) (x : WarpSt) : (s.setWarp c w x).lost = s.lost := rfl
@[simp] theorem State.setWarp_coreStep (s : State) (c w : Nat) (x : WarpSt) : (s.setWarp c w x).coreStep = s.coreStep := rfl
@[simp] theorem State.setWarp_haStep (s : State) (c w : Nat) (x : WarpSt) : (s.setWarp c w x).haStep = s.haStep := rfl
@[simp] theorem State.setWarp_powerLimit (s : State) (c w : Nat) (x : WarpSt) : (s.setWarp c w x).powerLimit = s.powerLimit := rfl
@[simp] theorem State.setWarp_minVer (s : State) (c w : Nat) (x : WarpSt) : (s.setWarp c w x).minVer = s.minVer := rfl
@[simp] theorem State.setWarp_revoked (s : State) (c w : Nat) (x : WarpSt) : (s.setWarp c w x).revoked = s.revoked := rfl
@[simp] theorem State.setWarp_images (s : State) (c w : Nat) (x : WarpSt) : (s.setWarp c w x).images = s.images := rfl
@[simp] theorem State.setWarp_reports (s : State) (c w : Nat) (x : WarpSt) : (s.setWarp c w x).reports = s.reports := rfl
@[simp] theorem State.setWarp_lanesUp (s : State) (c w : Nat) (x : WarpSt) : (s.setWarp c w x).lanesUp = s.lanesUp := rfl
@[simp] theorem State.setWarp_chanFail (s : State) (c w : Nat) (x : WarpSt) : (s.setWarp c w x).chanFail = s.chanFail := rfl
@[simp] theorem State.setWarp_hostOut (s : State) (c w : Nat) (x : WarpSt) : (s.setWarp c w x).hostOut = s.hostOut := rfl
@[simp] theorem State.setWarp_hostWrote (s : State) (c w : Nat) (x : WarpSt) : (s.setWarp c w x).hostWrote = s.hostWrote := rfl
@[simp] theorem State.setWarp_outbox (s : State) (c w : Nat) (x : WarpSt) : (s.setWarp c w x).outbox = s.outbox := rfl

@[simp] theorem State.setTeam_now (s : State) (c : Nat) (x : TeamSt) : (s.setTeam c x).now = s.now := rfl
@[simp] theorem State.setTeam_cur (s : State) (c : Nat) (x : TeamSt) : (s.setTeam c x).cur = s.cur := rfl
@[simp] theorem State.setTeam_second (s : State) (c : Nat) (x : TeamSt) : (s.setTeam c x).second = s.second := rfl
@[simp] theorem State.setTeam_agenda (s : State) (c : Nat) (x : TeamSt) : (s.setTeam c x).agenda = s.agenda := rfl
@[simp] theorem State.setTeam_turn (s : State) (c : Nat) (x : TeamSt) : (s.setTeam c x).turn = s.turn := rfl
@[simp] theorem State.setTeam_free (s : State) (c : Nat) (x : TeamSt) : (s.setTeam c x).free = s.free := rfl
@[simp] theorem State.setTeam_seq (s : State) (c : Nat) (x : TeamSt) : (s.setTeam c x).seq = s.seq := rfl
@[simp] theorem State.setTeam_stopped (s : State) (c : Nat) (x : TeamSt) : (s.setTeam c x).stopped = s.stopped := rfl
@[simp] theorem State.setTeam_faultOut (s : State) (c : Nat) (x : TeamSt) : (s.setTeam c x).faultOut = s.faultOut := rfl
@[simp] theorem State.setTeam_mem (s : State) (c : Nat) (x : TeamSt) : (s.setTeam c x).mem = s.mem := rfl
@[simp] theorem State.setTeam_poison (s : State) (c : Nat) (x : TeamSt) : (s.setTeam c x).poison = s.poison := rfl
@[simp] theorem State.setTeam_tags (s : State) (c : Nat) (x : TeamSt) : (s.setTeam c x).tags = s.tags := rfl
@[simp] theorem State.setTeam_comp (s : State) (c : Nat) (x : TeamSt) : (s.setTeam c x).comp = s.comp := rfl
@[simp] theorem State.setTeam_dirty (s : State) (c : Nat) (x : TeamSt) : (s.setTeam c x).dirty = s.dirty := rfl
@[simp] theorem State.setTeam_reps (s : State) (c : Nat) (x : TeamSt) : (s.setTeam c x).reps = s.reps := rfl
@[simp] theorem State.setTeam_attrs (s : State) (c : Nat) (x : TeamSt) : (s.setTeam c x).attrs = s.attrs := rfl
@[simp] theorem State.setTeam_absent (s : State) (c : Nat) (x : TeamSt) : (s.setTeam c x).absent = s.absent := rfl
@[simp] theorem State.setTeam_pool (s : State) (c : Nat) (x : TeamSt) : (s.setTeam c x).pool = s.pool := rfl
@[simp] theorem State.setTeam_marks (s : State) (c : Nat) (x : TeamSt) : (s.setTeam c x).marks = s.marks := rfl
@[simp] theorem State.setTeam_ureg (s : State) (c : Nat) (x : TeamSt) : (s.setTeam c x).ureg = s.ureg := rfl
@[simp] theorem State.setTeam_umarks (s : State) (c : Nat) (x : TeamSt) : (s.setTeam c x).umarks = s.umarks := rfl
@[simp] theorem State.setTeam_sp (s : State) (c : Nat) (x : TeamSt) : (s.setTeam c x).sp = s.sp := rfl
@[simp] theorem State.setTeam_spPoison (s : State) (c : Nat) (x : TeamSt) : (s.setTeam c x).spPoison = s.spPoison := rfl
@[simp] theorem State.setTeam_warps (s : State) (c : Nat) (x : TeamSt) : (s.setTeam c x).warps = s.warps := rfl
@[simp] theorem State.setTeam_lanes (s : State) (c : Nat) (x : TeamSt) : (s.setTeam c x).lanes = s.lanes := rfl
@[simp] theorem State.setTeam_fut (s : State) (c : Nat) (x : TeamSt) : (s.setTeam c x).fut = s.fut := rfl
@[simp] theorem State.setTeam_tlb (s : State) (c : Nat) (x : TeamSt) : (s.setTeam c x).tlb = s.tlb := rfl
@[simp] theorem State.setTeam_dtlb (s : State) (c : Nat) (x : TeamSt) : (s.setTeam c x).dtlb = s.dtlb := rfl
@[simp] theorem State.setTeam_l1 (s : State) (c : Nat) (x : TeamSt) : (s.setTeam c x).l1 = s.l1 := rfl
@[simp] theorem State.setTeam_ic (s : State) (c : Nat) (x : TeamSt) : (s.setTeam c x).ic = s.ic := rfl
@[simp] theorem State.setTeam_lb (s : State) (c : Nat) (x : TeamSt) : (s.setTeam c x).lb = s.lb := rfl
@[simp] theorem State.setTeam_fills (s : State) (c : Nat) (x : TeamSt) : (s.setTeam c x).fills = s.fills := rfl
@[simp] theorem State.setTeam_subs (s : State) (c : Nat) (x : TeamSt) : (s.setTeam c x).subs = s.subs := rfl
@[simp] theorem State.setTeam_mx (s : State) (c : Nat) (x : TeamSt) : (s.setTeam c x).mx = s.mx := rfl
@[simp] theorem State.setTeam_iu (s : State) (c : Nat) (x : TeamSt) : (s.setTeam c x).iu = s.iu := rfl
@[simp] theorem State.setTeam_cq (s : State) (c : Nat) (x : TeamSt) : (s.setTeam c x).cq = s.cq := rfl
@[simp] theorem State.setTeam_dropped (s : State) (c : Nat) (x : TeamSt) : (s.setTeam c x).dropped = s.dropped := rfl
@[simp] theorem State.setTeam_replies (s : State) (c : Nat) (x : TeamSt) : (s.setTeam c x).replies = s.replies := rfl
@[simp] theorem State.setTeam_reqs (s : State) (c : Nat) (x : TeamSt) : (s.setTeam c x).reqs = s.reqs := rfl
@[simp] theorem State.setTeam_joins (s : State) (c : Nat) (x : TeamSt) : (s.setTeam c x).joins = s.joins := rfl
@[simp] theorem State.setTeam_ctBase (s : State) (c : Nat) (x : TeamSt) : (s.setTeam c x).ctBase = s.ctBase := rfl
@[simp] theorem State.setTeam_ct (s : State) (c : Nat) (x : TeamSt) : (s.setTeam c x).ct = s.ct := rfl
@[simp] theorem State.setTeam_mons (s : State) (c : Nat) (x : TeamSt) : (s.setTeam c x).mons = s.mons := rfl
@[simp] theorem State.setTeam_ctxs (s : State) (c : Nat) (x : TeamSt) : (s.setTeam c x).ctxs = s.ctxs := rfl
@[simp] theorem State.setTeam_nodes (s : State) (c : Nat) (x : TeamSt) : (s.setTeam c x).nodes = s.nodes := rfl
@[simp] theorem State.setTeam_ready (s : State) (c : Nat) (x : TeamSt) : (s.setTeam c x).ready = s.ready := rfl
@[simp] theorem State.setTeam_heldDec (s : State) (c : Nat) (x : TeamSt) : (s.setTeam c x).heldDec = s.heldDec := rfl
@[simp] theorem State.setTeam_saved (s : State) (c : Nat) (x : TeamSt) : (s.setTeam c x).saved = s.saved := rfl
@[simp] theorem State.setTeam_drains (s : State) (c : Nat) (x : TeamSt) : (s.setTeam c x).drains = s.drains := rfl
@[simp] theorem State.setTeam_backfillOff (s : State) (c : Nat) (x : TeamSt) : (s.setTeam c x).backfillOff = s.backfillOff := rfl
@[simp] theorem State.setTeam_caps (s : State) (c : Nat) (x : TeamSt) : (s.setTeam c x).caps = s.caps := rfl
@[simp] theorem State.setTeam_shadows (s : State) (c : Nat) (x : TeamSt) : (s.setTeam c x).shadows = s.shadows := rfl
@[simp] theorem State.setTeam_psems (s : State) (c : Nat) (x : TeamSt) : (s.setTeam c x).psems = s.psems := rfl
@[simp] theorem State.setTeam_psemOwner (s : State) (c : Nat) (x : TeamSt) : (s.setTeam c x).psemOwner = s.psemOwner := rfl
@[simp] theorem State.setTeam_chains (s : State) (c : Nat) (x : TeamSt) : (s.setTeam c x).chains = s.chains := rfl
@[simp] theorem State.setTeam_rr (s : State) (c : Nat) (x : TeamSt) : (s.setTeam c x).rr = s.rr := rfl
@[simp] theorem State.setTeam_conns (s : State) (c : Nat) (x : TeamSt) : (s.setTeam c x).conns = s.conns := rfl
@[simp] theorem State.setTeam_keys (s : State) (c : Nat) (x : TeamSt) : (s.setTeam c x).keys = s.keys := rfl
@[simp] theorem State.setTeam_endps (s : State) (c : Nat) (x : TeamSt) : (s.setTeam c x).endps = s.endps := rfl
@[simp] theorem State.setTeam_allow (s : State) (c : Nat) (x : TeamSt) : (s.setTeam c x).allow = s.allow := rfl
@[simp] theorem State.setTeam_inbox (s : State) (c : Nat) (x : TeamSt) : (s.setTeam c x).inbox = s.inbox := rfl
@[simp] theorem State.setTeam_errq (s : State) (c : Nat) (x : TeamSt) : (s.setTeam c x).errq = s.errq := rfl
@[simp] theorem State.setTeam_rrc (s : State) (c : Nat) (x : TeamSt) : (s.setTeam c x).rrc = s.rrc := rfl
@[simp] theorem State.setTeam_rrcFetch (s : State) (c : Nat) (x : TeamSt) : (s.setTeam c x).rrcFetch = s.rrcFetch := rfl
@[simp] theorem State.setTeam_reexec (s : State) (c : Nat) (x : TeamSt) : (s.setTeam c x).reexec = s.reexec := rfl
@[simp] theorem State.setTeam_pal (s : State) (c : Nat) (x : TeamSt) : (s.setTeam c x).pal = s.pal := rfl
@[simp] theorem State.setTeam_colls (s : State) (c : Nat) (x : TeamSt) : (s.setTeam c x).colls = s.colls := rfl
@[simp] theorem State.setTeam_imsic (s : State) (c : Nat) (x : TeamSt) : (s.setTeam c x).imsic = s.imsic := rfl
@[simp] theorem State.setTeam_imsg (s : State) (c : Nat) (x : TeamSt) : (s.setTeam c x).imsg = s.imsg := rfl
@[simp] theorem State.setTeam_shootVa (s : State) (c : Nat) (x : TeamSt) : (s.setTeam c x).shootVa = s.shootVa := rfl
@[simp] theorem State.setTeam_shootId (s : State) (c : Nat) (x : TeamSt) : (s.setTeam c x).shootId = s.shootId := rfl
@[simp] theorem State.setTeam_shootCount (s : State) (c : Nat) (x : TeamSt) : (s.setTeam c x).shootCount = s.shootCount := rfl
@[simp] theorem State.setTeam_shootQ (s : State) (c : Nat) (x : TeamSt) : (s.setTeam c x).shootQ = s.shootQ := rfl
@[simp] theorem State.setTeam_shootMark (s : State) (c : Nat) (x : TeamSt) : (s.setTeam c x).shootMark = s.shootMark := rfl
@[simp] theorem State.setTeam_inb (s : State) (c : Nat) (x : TeamSt) : (s.setTeam c x).inb = s.inb := rfl
@[simp] theorem State.setTeam_escid (s : State) (c : Nat) (x : TeamSt) : (s.setTeam c x).escid = s.escid := rfl
@[simp] theorem State.setTeam_lead (s : State) (c : Nat) (x : TeamSt) : (s.setTeam c x).lead = s.lead := rfl
@[simp] theorem State.setTeam_hbeat (s : State) (c : Nat) (x : TeamSt) : (s.setTeam c x).hbeat = s.hbeat := rfl
@[simp] theorem State.setTeam_fence (s : State) (c : Nat) (x : TeamSt) : (s.setTeam c x).fence = s.fence := rfl
@[simp] theorem State.setTeam_jbase (s : State) (c : Nat) (x : TeamSt) : (s.setTeam c x).jbase = s.jbase := rfl
@[simp] theorem State.setTeam_jhead (s : State) (c : Nat) (x : TeamSt) : (s.setTeam c x).jhead = s.jhead := rfl
@[simp] theorem State.setTeam_pairs (s : State) (c : Nat) (x : TeamSt) : (s.setTeam c x).pairs = s.pairs := rfl
@[simp] theorem State.setTeam_nv (s : State) (c : Nat) (x : TeamSt) : (s.setTeam c x).nv = s.nv := rfl
@[simp] theorem State.setTeam_shutdowns (s : State) (c : Nat) (x : TeamSt) : (s.setTeam c x).shutdowns = s.shutdowns := rfl
@[simp] theorem State.setTeam_retired (s : State) (c : Nat) (x : TeamSt) : (s.setTeam c x).retired = s.retired := rfl
@[simp] theorem State.setTeam_lost (s : State) (c : Nat) (x : TeamSt) : (s.setTeam c x).lost = s.lost := rfl
@[simp] theorem State.setTeam_coreStep (s : State) (c : Nat) (x : TeamSt) : (s.setTeam c x).coreStep = s.coreStep := rfl
@[simp] theorem State.setTeam_haStep (s : State) (c : Nat) (x : TeamSt) : (s.setTeam c x).haStep = s.haStep := rfl
@[simp] theorem State.setTeam_powerLimit (s : State) (c : Nat) (x : TeamSt) : (s.setTeam c x).powerLimit = s.powerLimit := rfl
@[simp] theorem State.setTeam_minVer (s : State) (c : Nat) (x : TeamSt) : (s.setTeam c x).minVer = s.minVer := rfl
@[simp] theorem State.setTeam_revoked (s : State) (c : Nat) (x : TeamSt) : (s.setTeam c x).revoked = s.revoked := rfl
@[simp] theorem State.setTeam_images (s : State) (c : Nat) (x : TeamSt) : (s.setTeam c x).images = s.images := rfl
@[simp] theorem State.setTeam_reports (s : State) (c : Nat) (x : TeamSt) : (s.setTeam c x).reports = s.reports := rfl
@[simp] theorem State.setTeam_lanesUp (s : State) (c : Nat) (x : TeamSt) : (s.setTeam c x).lanesUp = s.lanesUp := rfl
@[simp] theorem State.setTeam_chanFail (s : State) (c : Nat) (x : TeamSt) : (s.setTeam c x).chanFail = s.chanFail := rfl
@[simp] theorem State.setTeam_hostOut (s : State) (c : Nat) (x : TeamSt) : (s.setTeam c x).hostOut = s.hostOut := rfl
@[simp] theorem State.setTeam_hostWrote (s : State) (c : Nat) (x : TeamSt) : (s.setTeam c x).hostWrote = s.hostWrote := rfl
@[simp] theorem State.setTeam_outbox (s : State) (c : Nat) (x : TeamSt) : (s.setTeam c x).outbox = s.outbox := rfl

@[simp] theorem State.modCtx_now (s : State) (x : Nat) (f : CtxSt → CtxSt) : (s.modCtx x f).now = s.now := rfl
@[simp] theorem State.modCtx_cur (s : State) (x : Nat) (f : CtxSt → CtxSt) : (s.modCtx x f).cur = s.cur := rfl
@[simp] theorem State.modCtx_second (s : State) (x : Nat) (f : CtxSt → CtxSt) : (s.modCtx x f).second = s.second := rfl
@[simp] theorem State.modCtx_agenda (s : State) (x : Nat) (f : CtxSt → CtxSt) : (s.modCtx x f).agenda = s.agenda := rfl
@[simp] theorem State.modCtx_turn (s : State) (x : Nat) (f : CtxSt → CtxSt) : (s.modCtx x f).turn = s.turn := rfl
@[simp] theorem State.modCtx_free (s : State) (x : Nat) (f : CtxSt → CtxSt) : (s.modCtx x f).free = s.free := rfl
@[simp] theorem State.modCtx_seq (s : State) (x : Nat) (f : CtxSt → CtxSt) : (s.modCtx x f).seq = s.seq := rfl
@[simp] theorem State.modCtx_stopped (s : State) (x : Nat) (f : CtxSt → CtxSt) : (s.modCtx x f).stopped = s.stopped := rfl
@[simp] theorem State.modCtx_faultOut (s : State) (x : Nat) (f : CtxSt → CtxSt) : (s.modCtx x f).faultOut = s.faultOut := rfl
@[simp] theorem State.modCtx_mem (s : State) (x : Nat) (f : CtxSt → CtxSt) : (s.modCtx x f).mem = s.mem := rfl
@[simp] theorem State.modCtx_poison (s : State) (x : Nat) (f : CtxSt → CtxSt) : (s.modCtx x f).poison = s.poison := rfl
@[simp] theorem State.modCtx_tags (s : State) (x : Nat) (f : CtxSt → CtxSt) : (s.modCtx x f).tags = s.tags := rfl
@[simp] theorem State.modCtx_comp (s : State) (x : Nat) (f : CtxSt → CtxSt) : (s.modCtx x f).comp = s.comp := rfl
@[simp] theorem State.modCtx_dirty (s : State) (x : Nat) (f : CtxSt → CtxSt) : (s.modCtx x f).dirty = s.dirty := rfl
@[simp] theorem State.modCtx_reps (s : State) (x : Nat) (f : CtxSt → CtxSt) : (s.modCtx x f).reps = s.reps := rfl
@[simp] theorem State.modCtx_attrs (s : State) (x : Nat) (f : CtxSt → CtxSt) : (s.modCtx x f).attrs = s.attrs := rfl
@[simp] theorem State.modCtx_absent (s : State) (x : Nat) (f : CtxSt → CtxSt) : (s.modCtx x f).absent = s.absent := rfl
@[simp] theorem State.modCtx_pool (s : State) (x : Nat) (f : CtxSt → CtxSt) : (s.modCtx x f).pool = s.pool := rfl
@[simp] theorem State.modCtx_marks (s : State) (x : Nat) (f : CtxSt → CtxSt) : (s.modCtx x f).marks = s.marks := rfl
@[simp] theorem State.modCtx_ureg (s : State) (x : Nat) (f : CtxSt → CtxSt) : (s.modCtx x f).ureg = s.ureg := rfl
@[simp] theorem State.modCtx_umarks (s : State) (x : Nat) (f : CtxSt → CtxSt) : (s.modCtx x f).umarks = s.umarks := rfl
@[simp] theorem State.modCtx_sp (s : State) (x : Nat) (f : CtxSt → CtxSt) : (s.modCtx x f).sp = s.sp := rfl
@[simp] theorem State.modCtx_spPoison (s : State) (x : Nat) (f : CtxSt → CtxSt) : (s.modCtx x f).spPoison = s.spPoison := rfl
@[simp] theorem State.modCtx_teams (s : State) (x : Nat) (f : CtxSt → CtxSt) : (s.modCtx x f).teams = s.teams := rfl
@[simp] theorem State.modCtx_warps (s : State) (x : Nat) (f : CtxSt → CtxSt) : (s.modCtx x f).warps = s.warps := rfl
@[simp] theorem State.modCtx_lanes (s : State) (x : Nat) (f : CtxSt → CtxSt) : (s.modCtx x f).lanes = s.lanes := rfl
@[simp] theorem State.modCtx_fut (s : State) (x : Nat) (f : CtxSt → CtxSt) : (s.modCtx x f).fut = s.fut := rfl
@[simp] theorem State.modCtx_tlb (s : State) (x : Nat) (f : CtxSt → CtxSt) : (s.modCtx x f).tlb = s.tlb := rfl
@[simp] theorem State.modCtx_dtlb (s : State) (x : Nat) (f : CtxSt → CtxSt) : (s.modCtx x f).dtlb = s.dtlb := rfl
@[simp] theorem State.modCtx_l1 (s : State) (x : Nat) (f : CtxSt → CtxSt) : (s.modCtx x f).l1 = s.l1 := rfl
@[simp] theorem State.modCtx_ic (s : State) (x : Nat) (f : CtxSt → CtxSt) : (s.modCtx x f).ic = s.ic := rfl
@[simp] theorem State.modCtx_lb (s : State) (x : Nat) (f : CtxSt → CtxSt) : (s.modCtx x f).lb = s.lb := rfl
@[simp] theorem State.modCtx_fills (s : State) (x : Nat) (f : CtxSt → CtxSt) : (s.modCtx x f).fills = s.fills := rfl
@[simp] theorem State.modCtx_subs (s : State) (x : Nat) (f : CtxSt → CtxSt) : (s.modCtx x f).subs = s.subs := rfl
@[simp] theorem State.modCtx_mx (s : State) (x : Nat) (f : CtxSt → CtxSt) : (s.modCtx x f).mx = s.mx := rfl
@[simp] theorem State.modCtx_iu (s : State) (x : Nat) (f : CtxSt → CtxSt) : (s.modCtx x f).iu = s.iu := rfl
@[simp] theorem State.modCtx_cq (s : State) (x : Nat) (f : CtxSt → CtxSt) : (s.modCtx x f).cq = s.cq := rfl
@[simp] theorem State.modCtx_dropped (s : State) (x : Nat) (f : CtxSt → CtxSt) : (s.modCtx x f).dropped = s.dropped := rfl
@[simp] theorem State.modCtx_replies (s : State) (x : Nat) (f : CtxSt → CtxSt) : (s.modCtx x f).replies = s.replies := rfl
@[simp] theorem State.modCtx_reqs (s : State) (x : Nat) (f : CtxSt → CtxSt) : (s.modCtx x f).reqs = s.reqs := rfl
@[simp] theorem State.modCtx_joins (s : State) (x : Nat) (f : CtxSt → CtxSt) : (s.modCtx x f).joins = s.joins := rfl
@[simp] theorem State.modCtx_ctBase (s : State) (x : Nat) (f : CtxSt → CtxSt) : (s.modCtx x f).ctBase = s.ctBase := rfl
@[simp] theorem State.modCtx_ct (s : State) (x : Nat) (f : CtxSt → CtxSt) : (s.modCtx x f).ct = s.ct := rfl
@[simp] theorem State.modCtx_mons (s : State) (x : Nat) (f : CtxSt → CtxSt) : (s.modCtx x f).mons = s.mons := rfl
@[simp] theorem State.modCtx_nodes (s : State) (x : Nat) (f : CtxSt → CtxSt) : (s.modCtx x f).nodes = s.nodes := rfl
@[simp] theorem State.modCtx_ready (s : State) (x : Nat) (f : CtxSt → CtxSt) : (s.modCtx x f).ready = s.ready := rfl
@[simp] theorem State.modCtx_heldDec (s : State) (x : Nat) (f : CtxSt → CtxSt) : (s.modCtx x f).heldDec = s.heldDec := rfl
@[simp] theorem State.modCtx_saved (s : State) (x : Nat) (f : CtxSt → CtxSt) : (s.modCtx x f).saved = s.saved := rfl
@[simp] theorem State.modCtx_drains (s : State) (x : Nat) (f : CtxSt → CtxSt) : (s.modCtx x f).drains = s.drains := rfl
@[simp] theorem State.modCtx_backfillOff (s : State) (x : Nat) (f : CtxSt → CtxSt) : (s.modCtx x f).backfillOff = s.backfillOff := rfl
@[simp] theorem State.modCtx_caps (s : State) (x : Nat) (f : CtxSt → CtxSt) : (s.modCtx x f).caps = s.caps := rfl
@[simp] theorem State.modCtx_shadows (s : State) (x : Nat) (f : CtxSt → CtxSt) : (s.modCtx x f).shadows = s.shadows := rfl
@[simp] theorem State.modCtx_psems (s : State) (x : Nat) (f : CtxSt → CtxSt) : (s.modCtx x f).psems = s.psems := rfl
@[simp] theorem State.modCtx_psemOwner (s : State) (x : Nat) (f : CtxSt → CtxSt) : (s.modCtx x f).psemOwner = s.psemOwner := rfl
@[simp] theorem State.modCtx_chains (s : State) (x : Nat) (f : CtxSt → CtxSt) : (s.modCtx x f).chains = s.chains := rfl
@[simp] theorem State.modCtx_rr (s : State) (x : Nat) (f : CtxSt → CtxSt) : (s.modCtx x f).rr = s.rr := rfl
@[simp] theorem State.modCtx_conns (s : State) (x : Nat) (f : CtxSt → CtxSt) : (s.modCtx x f).conns = s.conns := rfl
@[simp] theorem State.modCtx_keys (s : State) (x : Nat) (f : CtxSt → CtxSt) : (s.modCtx x f).keys = s.keys := rfl
@[simp] theorem State.modCtx_endps (s : State) (x : Nat) (f : CtxSt → CtxSt) : (s.modCtx x f).endps = s.endps := rfl
@[simp] theorem State.modCtx_allow (s : State) (x : Nat) (f : CtxSt → CtxSt) : (s.modCtx x f).allow = s.allow := rfl
@[simp] theorem State.modCtx_inbox (s : State) (x : Nat) (f : CtxSt → CtxSt) : (s.modCtx x f).inbox = s.inbox := rfl
@[simp] theorem State.modCtx_errq (s : State) (x : Nat) (f : CtxSt → CtxSt) : (s.modCtx x f).errq = s.errq := rfl
@[simp] theorem State.modCtx_rrc (s : State) (x : Nat) (f : CtxSt → CtxSt) : (s.modCtx x f).rrc = s.rrc := rfl
@[simp] theorem State.modCtx_rrcFetch (s : State) (x : Nat) (f : CtxSt → CtxSt) : (s.modCtx x f).rrcFetch = s.rrcFetch := rfl
@[simp] theorem State.modCtx_reexec (s : State) (x : Nat) (f : CtxSt → CtxSt) : (s.modCtx x f).reexec = s.reexec := rfl
@[simp] theorem State.modCtx_pal (s : State) (x : Nat) (f : CtxSt → CtxSt) : (s.modCtx x f).pal = s.pal := rfl
@[simp] theorem State.modCtx_colls (s : State) (x : Nat) (f : CtxSt → CtxSt) : (s.modCtx x f).colls = s.colls := rfl
@[simp] theorem State.modCtx_imsic (s : State) (x : Nat) (f : CtxSt → CtxSt) : (s.modCtx x f).imsic = s.imsic := rfl
@[simp] theorem State.modCtx_imsg (s : State) (x : Nat) (f : CtxSt → CtxSt) : (s.modCtx x f).imsg = s.imsg := rfl
@[simp] theorem State.modCtx_shootVa (s : State) (x : Nat) (f : CtxSt → CtxSt) : (s.modCtx x f).shootVa = s.shootVa := rfl
@[simp] theorem State.modCtx_shootId (s : State) (x : Nat) (f : CtxSt → CtxSt) : (s.modCtx x f).shootId = s.shootId := rfl
@[simp] theorem State.modCtx_shootCount (s : State) (x : Nat) (f : CtxSt → CtxSt) : (s.modCtx x f).shootCount = s.shootCount := rfl
@[simp] theorem State.modCtx_shootQ (s : State) (x : Nat) (f : CtxSt → CtxSt) : (s.modCtx x f).shootQ = s.shootQ := rfl
@[simp] theorem State.modCtx_shootMark (s : State) (x : Nat) (f : CtxSt → CtxSt) : (s.modCtx x f).shootMark = s.shootMark := rfl
@[simp] theorem State.modCtx_inb (s : State) (x : Nat) (f : CtxSt → CtxSt) : (s.modCtx x f).inb = s.inb := rfl
@[simp] theorem State.modCtx_escid (s : State) (x : Nat) (f : CtxSt → CtxSt) : (s.modCtx x f).escid = s.escid := rfl
@[simp] theorem State.modCtx_lead (s : State) (x : Nat) (f : CtxSt → CtxSt) : (s.modCtx x f).lead = s.lead := rfl
@[simp] theorem State.modCtx_hbeat (s : State) (x : Nat) (f : CtxSt → CtxSt) : (s.modCtx x f).hbeat = s.hbeat := rfl
@[simp] theorem State.modCtx_fence (s : State) (x : Nat) (f : CtxSt → CtxSt) : (s.modCtx x f).fence = s.fence := rfl
@[simp] theorem State.modCtx_jbase (s : State) (x : Nat) (f : CtxSt → CtxSt) : (s.modCtx x f).jbase = s.jbase := rfl
@[simp] theorem State.modCtx_jhead (s : State) (x : Nat) (f : CtxSt → CtxSt) : (s.modCtx x f).jhead = s.jhead := rfl
@[simp] theorem State.modCtx_pairs (s : State) (x : Nat) (f : CtxSt → CtxSt) : (s.modCtx x f).pairs = s.pairs := rfl
@[simp] theorem State.modCtx_nv (s : State) (x : Nat) (f : CtxSt → CtxSt) : (s.modCtx x f).nv = s.nv := rfl
@[simp] theorem State.modCtx_shutdowns (s : State) (x : Nat) (f : CtxSt → CtxSt) : (s.modCtx x f).shutdowns = s.shutdowns := rfl
@[simp] theorem State.modCtx_retired (s : State) (x : Nat) (f : CtxSt → CtxSt) : (s.modCtx x f).retired = s.retired := rfl
@[simp] theorem State.modCtx_lost (s : State) (x : Nat) (f : CtxSt → CtxSt) : (s.modCtx x f).lost = s.lost := rfl
@[simp] theorem State.modCtx_coreStep (s : State) (x : Nat) (f : CtxSt → CtxSt) : (s.modCtx x f).coreStep = s.coreStep := rfl
@[simp] theorem State.modCtx_haStep (s : State) (x : Nat) (f : CtxSt → CtxSt) : (s.modCtx x f).haStep = s.haStep := rfl
@[simp] theorem State.modCtx_powerLimit (s : State) (x : Nat) (f : CtxSt → CtxSt) : (s.modCtx x f).powerLimit = s.powerLimit := rfl
@[simp] theorem State.modCtx_minVer (s : State) (x : Nat) (f : CtxSt → CtxSt) : (s.modCtx x f).minVer = s.minVer := rfl
@[simp] theorem State.modCtx_revoked (s : State) (x : Nat) (f : CtxSt → CtxSt) : (s.modCtx x f).revoked = s.revoked := rfl
@[simp] theorem State.modCtx_images (s : State) (x : Nat) (f : CtxSt → CtxSt) : (s.modCtx x f).images = s.images := rfl
@[simp] theorem State.modCtx_reports (s : State) (x : Nat) (f : CtxSt → CtxSt) : (s.modCtx x f).reports = s.reports := rfl
@[simp] theorem State.modCtx_lanesUp (s : State) (x : Nat) (f : CtxSt → CtxSt) : (s.modCtx x f).lanesUp = s.lanesUp := rfl
@[simp] theorem State.modCtx_chanFail (s : State) (x : Nat) (f : CtxSt → CtxSt) : (s.modCtx x f).chanFail = s.chanFail := rfl
@[simp] theorem State.modCtx_hostOut (s : State) (x : Nat) (f : CtxSt → CtxSt) : (s.modCtx x f).hostOut = s.hostOut := rfl
@[simp] theorem State.modCtx_hostWrote (s : State) (x : Nat) (f : CtxSt → CtxSt) : (s.modCtx x f).hostWrote = s.hostWrote := rfl
@[simp] theorem State.modCtx_outbox (s : State) (x : Nat) (f : CtxSt → CtxSt) : (s.modCtx x f).outbox = s.outbox := rfl

@[simp] theorem State.setLane_lanes (s : State) (c w l : Nat) (x : LaneSt) :
    (s.setLane c w l x).lanes = s.lanes.set (laneKey c w l) x := rfl
@[simp] theorem State.setWarp_warps (s : State) (c w : Nat) (x : WarpSt) :
    (s.setWarp c w x).warps = s.warps.set (warpKey c w) x := rfl
@[simp] theorem State.setTeam_teams (s : State) (c : Nat) (x : TeamSt) : (s.setTeam c x).teams = s.teams.set c x := rfl

/-- A lane that was just set reads as it was set. -/
@[simp] theorem State.lane_setLane (s : State) (c w l : Nat) (x : LaneSt) : (s.setLane c w l x).lane c w l = x := by
  simp [State.lane, State.setLane]

theorem State.lane_setLane_other (s : State) {c w l c' w' l' : Nat} (x : LaneSt) (h : laneKey c' w' l' ≠ laneKey c w l) :
    (s.setLane c w l x).lane c' w' l' = s.lane c' w' l' := by
  simp [State.lane, State.setLane, Tab.get_set_other _ _ _ h]

/-- Lanes of one warp have different keys. -/
theorem laneKey_ne {c w l l' : Nat} (h : l' ≠ l) : laneKey c w l' ≠ laneKey c w l := by
  unfold laneKey; omega

@[simp] theorem State.warp_setWarp (s : State) (c w : Nat) (x : WarpSt) : (s.setWarp c w x).warp c w = x := by
  simp [State.warp, State.setWarp]

@[simp] theorem State.team_setTeam (s : State) (c : Nat) (x : TeamSt) : (s.setTeam c x).team c = x := by
  simp [State.team, State.setTeam]

@[simp] theorem State.lane_modLane (s : State) (c w l : Nat) (f : LaneSt → LaneSt) :
    (s.modLane c w l f).lane c w l = f (s.lane c w l) := by simp [State.modLane]

theorem State.lane_modLane_other (s : State) {c w l l' : Nat} (f : LaneSt → LaneSt) (h : l' ≠ l) :
    (s.modLane c w l f).lane c w l' = s.lane c w l' := by
  simp [State.modLane, State.lane_setLane_other s _ (laneKey_ne h)]

@[simp] theorem State.warp_modLane (s : State) (c w l c' w' : Nat) (f : LaneSt → LaneSt) :
    (s.modLane c w l f).warp c' w' = s.warp c' w' := rfl

@[simp] theorem State.team_modLane (s : State) (c w l c' : Nat) (f : LaneSt → LaneSt) :
    (s.modLane c w l f).team c' = s.team c' := rfl

@[simp] theorem State.warp_modWarp (s : State) (c w : Nat) (f : WarpSt → WarpSt) : (s.modWarp c w f).warp c w = f (s.warp c w) := by
  simp [State.modWarp]

@[simp] theorem State.team_modTeam (s : State) (c : Nat) (f : TeamSt → TeamSt) : (s.modTeam c f).team c = f (s.team c) := by
  simp [State.modTeam]

end Sys2Proof.Machine
end

