-- ==== Sys2Proof/Laws/Issue.lean ====
section
/-! SUPPORT. What issuing a word does, said once: a word that passes its checks goes to its body in each lane of M, and a body that
only writes registers leaves everything else. -/

namespace Sys2Proof.Machine

-- Lanes

theorem Mask.mem_lanes {m : Mask} {l : Nat} (h : l ∈ Mask.lanes m) : l < 32 := by
  simpa using (List.mem_filter.mp h).1

theorem Mask.nodup_lanes (m : Mask) : (Mask.lanes m).Nodup := List.Nodup.filter _ List.nodup_range

theorem State.issuing_lt {s : State} {i : Instr} {l : Nat} (h : l ∈ s.issuing i) : l < 32 := by
  simp only [State.issuing] at h
  split at h
  · simp at h
  · exact Mask.mem_lanes (List.mem_filter.mp h).1

theorem State.issuing_nodup (s : State) (i : Instr) : (s.issuing i).Nodup := by
  simp only [State.issuing]
  split
  · simp
  · exact (Mask.nodup_lanes _).filter _

theorem State.lanesM_issuing {s : State} {i : Instr} {l : Nat} (h : l ∈ s.lanesM i) : l ∈ s.issuing i := (List.mem_filter.mp h).1

theorem State.lanesM_lt {s : State} {i : Instr} {l : Nat} (h : l ∈ s.lanesM i) : l < 32 := State.issuing_lt (State.lanesM_issuing h)

theorem State.lanesM_nodup (s : State) (i : Instr) : (s.lanesM i).Nodup := (State.issuing_nodup s i).filter _

-- The answers of the two ways to issue

/-- A per-lane word that passes its checks and whose sources are sound runs its body in each lane of M. -/
theorem State.perLane_clear {s : State} {i : Instr} {body pre ex} (h : s.clear i) (hp : pre s (s.lanesM i) = none) :
    s.perLane i body pre ex = .next ((s.skipLanes i.stall ((s.issuing i).filter fun l => !s.inM i s.cur.core s.cur.slot l)).runLanes
      i.stall (s.lanesM i) (fun l first u =>
        match s.sourceFault s.cur.core s.cur.slot l ((s.needs i s.cur.core s.cur.slot l).filter fun r => !ex.contains r) with
        | some (cause, aux) => (.fault cause 0 aux, u)
        | none => body s s.cur.core s.cur.slot l first u)
      ((s.issuing i).filter fun l => !s.inM i s.cur.core s.cur.slot l)) := by
  have h1 : s.check i (s.issuing i) = none := h.1
  unfold State.lanesM at hp ⊢
  simp only [State.perLane, h1, hp]
  all_goals rfl

/-- A word that fails a check traps in the lanes that the check names (R82, R149). -/
theorem State.perLane_fails {s : State} {i : Instr} {body pre ex} {cause detail : Nat}
    (h : s.check i (s.issuing i) = some (cause, detail)) :
    s.perLane i body pre ex = .next (s.trapAll (s.checkLanes i (s.issuing i) cause) cause detail) := by
  simp [State.perLane, h]

theorem State.perWarp_fails {s : State} {i : Instr} {key body late} {cause detail : Nat}
    (h : s.check i (s.issuing i) = some (cause, detail)) :
    s.perWarp i key body late = .next (s.trapAll (s.checkLanes i (s.issuing i) cause) cause detail) := by
  simp [State.perWarp, h]

theorem State.sourceFault_filter {s : State} {c w l : Nat} {rs : List Nat} {p : Nat → Bool} (h : s.sourceFault c w l rs = none) :
    s.sourceFault c w l (rs.filter p) = none := by
  unfold State.sourceFault at *
  rw [List.findSome?_eq_none_iff] at *
  exact fun x hx => h x (List.mem_filter.mp hx).1

/-- A warp operation that passes its checks, whose operands agree and whose sources are sound, runs its body once for M. -/
theorem State.perWarp_clear {s : State} {i : Instr} {key body late} (h : s.passes i) (hm : s.lanesM i ≠ [])
    (hk : s.disagree (s.lanesM i) (key s s.cur.core s.cur.slot) = none)
    (hs : late = true ∨ ∀ l ∈ s.lanesM i, s.sourceFault s.cur.core s.cur.slot l i.reads = none) :
    s.perWarp i key body late =
      match body s s.cur.core s.cur.slot (s.lanesM i)
        (s.skipLanes i.stall ((s.issuing i).filter fun l => !s.inM i s.cur.core s.cur.slot l)) with
      | (.own, u) => .next u
      | (.done, u) => .next (u.forLanes (s.lanesM i) fun l u => u.modLane s.cur.core s.cur.slot l (LaneOut.done.after i.stall))
      | (.park p, u) => .next (u.forLanes (s.lanesM i) fun l u =>
          u.modLane s.cur.core s.cur.slot l (LaneOut.after (.park p) i.stall))
      | (.fault cause addr aux, u) => .next (u.trapAll (s.lanesM i) cause 0 addr aux) := by
  have h1 : s.check i (s.issuing i) = none := h
  have h2 : (if late then ([], 0) else s.badLanes i s.cur.core s.cur.slot (s.lanesM i)) = ([], 0) := by
    rcases hs with hs | hs
    · simp [hs]
    · split
      · rfl
      · have h3 : ((s.lanesM i).filterMap fun l => (s.sourceFault s.cur.core s.cur.slot l i.reads).map fun f => (l, f)) = [] :=
          List.filterMap_eq_nil_iff.mpr fun l hl => by rw [hs l hl]; rfl
        simp only [State.badLanes, h3]
        rfl
  have h4 : ∀ ms : List Nat, (ms.filter fun l => !(([] : List LaneFault).any fun f => f.1 == l)) = ms := fun ms => by simp
  unfold State.lanesM at hm hk h2 ⊢
  simp only [State.perWarp, h1, hk, h2, h4, List.isEmpty_iff, hm, if_false]
  rcases body s s.cur.core s.cur.slot ((s.issuing i).filter (s.inM i s.cur.core s.cur.slot))
    (s.skipLanes i.stall ((s.issuing i).filter fun l => !s.inM i s.cur.core s.cur.slot l)) with ⟨o, u⟩
  cases o with
  | fault cause addr aux => simp [WarpOut.trap, WarpOut.settle, State.trapAll, hm]
  | _ => simp [WarpOut.trap, WarpOut.settle]

-- What a body that writes registers of one lane does

/-- One lane's step: registers `ds` of lane l, its generator where `sr` says so, and nothing else. -/
structure LaneEff (c w l : Nat) (ds : List Nat) (sr : Bool) (s t : State) : Prop where
  rest : t = { s with pool := t.pool, marks := t.marks, ureg := t.ureg, umarks := t.umarks, lanes := t.lanes }
  vector : ∀ k, (∀ r ∈ ds, r < 128 → k ≠ s.poolKey c w r l) →
    t.pool.get 0 k = s.pool.get 0 k ∧ t.marks.get {} k = s.marks.get {} k
  uniform : ∀ k, (∀ r ∈ ds, 128 ≤ r → r < 192 → k ≠ uregKey c w (r - 128)) →
    t.ureg.get 0 k = s.ureg.get 0 k ∧ t.umarks.get {} k = s.umarks.get {} k
  others : ∀ k, k ≠ laneKey c w l → t.lanes.get {} k = s.lanes.get {} k
  stands : ∃ p g sh, t.lane c w l = { s.lane c w l with preds := p, gen := g, shadow := sh }
  preds : ∀ p < 8, 256 + p ∉ ds → (t.lane c w l).preds.getLsbD p = (s.lane c w l).preds.getLsbD p
  gens : sr = false → (t.lane c w l).gen = (s.lane c w l).gen

theorem LaneEff.refl {c w l ds sr} (s : State) : LaneEff c w l ds sr s s :=
  ⟨rfl, fun _ _ => ⟨rfl, rfl⟩, fun _ _ => ⟨rfl, rfl⟩, fun _ _ => rfl, ⟨_, _, _, rfl⟩, fun _ _ _ => rfl, fun _ => rfl⟩

theorem LaneEff.poolKey {c w l ds sr} {s t : State} (h : LaneEff c w l ds sr s t) (c' w' r l' : Nat) :
    t.poolKey c' w' r l' = s.poolKey c' w' r l' := by
  rw [h.rest]; rfl

theorem LaneEff.trans {c w l ds sr} {s t u : State} (h : LaneEff c w l ds sr s t) (k : LaneEff c w l ds sr t u) :
    LaneEff c w l ds sr s u where
  rest := by rw [k.rest, h.rest]
  vector x hx := by
    have h1 := h.vector x hx
    have h2 := k.vector x fun r hr hl => by rw [h.poolKey]; exact hx r hr hl
    exact ⟨h2.1.trans h1.1, h2.2.trans h1.2⟩
  uniform x hx := ⟨(k.uniform x hx).1.trans (h.uniform x hx).1, (k.uniform x hx).2.trans (h.uniform x hx).2⟩
  others x hx := (k.others x hx).trans (h.others x hx)
  stands := by
    obtain ⟨p, g, sh, h1⟩ := h.stands
    obtain ⟨p', g', sh', h2⟩ := k.stands
    exact ⟨p', g', sh', by rw [h2, h1]⟩
  preds p hp hn := (k.preds p hp hn).trans (h.preds p hp hn)
  gens hs := (k.gens hs).trans (h.gens hs)

theorem LaneEff.mono {c w l ds ds' sr sr'} {s t : State} (h : LaneEff c w l ds sr s t) (hd : ∀ r ∈ ds, r ∈ ds') (hs : sr = true → sr' = true) :
    LaneEff c w l ds' sr' s t where
  rest := h.rest
  vector x hx := h.vector x fun r hr => hx r (hd r hr)
  uniform x hx := h.uniform x fun r hr => hx r (hd r hr)
  others := h.others
  stands := h.stands
  preds p hp hn := h.preds p hp fun hr => hn (hd _ hr)
  gens hs' := h.gens (by cases sr <;> simp_all)

theorem State.lanes_modLane_other (s : State) {c w l k : Nat} (f : LaneSt → LaneSt) (h : k ≠ laneKey c w l) :
    (s.modLane c w l f).lanes.get {} k = s.lanes.get {} k := by
  simp [State.modLane, State.setLane, Tab.get_set_other _ _ _ h]

/-- A change of what a lane has outstanding, its generator and its predicates. -/
theorem LaneEff.modLane {c w l ds sr} (s : State) (f : LaneSt → LaneSt)
    (hf : ∃ p g sh, f (s.lane c w l) = { s.lane c w l with preds := p, gen := g, shadow := sh })
    (hp : ∀ p < 8, 256 + p ∉ ds → (f (s.lane c w l)).preds.getLsbD p = (s.lane c w l).preds.getLsbD p)
    (hg : sr = false → (f (s.lane c w l)).gen = (s.lane c w l).gen) :
    LaneEff c w l ds sr s (s.modLane c w l f) where
  rest := rfl
  vector _ _ := ⟨rfl, rfl⟩
  uniform _ _ := ⟨rfl, rfl⟩
  others k hk := s.lanes_modLane_other f hk
  stands := by simpa using hf
  preds := by simpa using hp
  gens := by simpa using hg

theorem LaneSt.setPred_getLsbD (x : LaneSt) (p q : Nat) (b : Bool) (hp : p < 8) (hq : q < 8) :
    (x.setPred p b).preds.getLsbD q = if q = p ∧ p ≠ 7 then b else x.preds.getLsbD q := by
  unfold LaneSt.setPred
  by_cases h7 : p = 7
  · subst h7; simp
  · have : p % 8 = p := Nat.mod_eq_of_lt hp
    by_cases hqp : q = p
    · subst hqp; cases b <;> simp [this, h7, hq]
    · cases b <;> simp [this, h7, hq, hqp]

/-- Writing one register's value and mark. -/
theorem LaneEff.putReg {c w l ds sr} (s : State) (r : Nat) (v : Word) (m : Mark) (hr : r ∈ ds) (hp : r < 192 ∨ 256 ≤ r ∧ r < 264) :
    LaneEff c w l ds sr s (s.putReg c w l r v m) := by
  unfold State.putReg
  split
  · rename_i h
    refine ⟨rfl, fun k hk => ?_, fun _ _ => ⟨rfl, rfl⟩, fun _ _ => rfl, ⟨_, _, _, rfl⟩, fun _ _ _ => rfl, fun _ => rfl⟩
    have := hk r hr h
    exact ⟨Tab.get_set_other _ _ _ this, Tab.get_set_other _ _ _ this⟩
  · split
    · rename_i h h'
      refine ⟨rfl, fun _ _ => ⟨rfl, rfl⟩, fun k hk => ?_, fun _ _ => rfl, ⟨_, _, _, rfl⟩, fun _ _ _ => rfl, fun _ => rfl⟩
      have := hk r hr (by omega) h'
      exact ⟨Tab.get_set_other _ _ _ this, Tab.get_set_other _ _ _ this⟩
    · rename_i h h'
      refine LaneEff.modLane s _ ?_ ?_ ?_
      · unfold LaneSt.setPred; split
        · exact ⟨_, _, _, rfl⟩
        · exact ⟨_, _, _, rfl⟩
      · intro p hp' hn
        have h2 : r < 264 ∧ 256 ≤ r := by omega
        rw [LaneSt.setPred_getLsbD _ _ _ _ (by omega) hp']
        have : p ≠ r - 256 := fun e => hn (by rw [e, show 256 + (r - 256) = r by omega]; exact hr)
        simp [this]
      · intro _
        unfold LaneSt.setPred
        split
        · rfl
        · rfl

theorem LaneEff.dropShadow {c w l ds sr} (s : State) (r : Nat) : LaneEff c w l ds sr s (s.dropShadow c w l r) :=
  LaneEff.modLane s _ ⟨_, _, _, rfl⟩ (fun _ _ _ => rfl) fun _ => rfl

/-- Writing a result (R75, R78). -/
theorem LaneEff.result {c w l ds sr} (s : State) (first : Bool) (lat r : Nat) (v : Word) (m : Mark) (hr : r ∈ ds)
    (hp : r < 192 ∨ 256 ≤ r ∧ r < 264) : LaneEff c w l ds sr s (s.result c w l first lat r v m) := by
  unfold State.result
  split
  · dsimp only
    split
    · exact (LaneEff.putReg s r v m hr hp).trans (LaneEff.dropShadow _ r)
    · exact (LaneEff.putReg s r v m hr hp).trans
        (LaneEff.modLane _ _ ⟨_, _, _, rfl⟩ (fun _ _ _ => rfl) fun _ => rfl)
  · exact LaneEff.refl s

/-- What register an operand names, by the number of its byte (R56). -/
def regNumber : Opnd → Nat → Bool
  | .v n, x => decide (n = x ∧ n < 128)
  | .s n, x => decide (128 + n = x ∧ n < 64)
  | _, x => decide (192 ≤ x)

theorem ofByte_regNumber : ∀ x : BitVec 8, regNumber (Opnd.ofByte x) x.toNat = true := by decide +kernel

/-- A destination byte names the register of its own number; from 0xC0 on it names none (R56). -/
theorem dstReg_eq (x : BitVec 8) (j : Nat) : dstReg x j = if x.toNat < 192 then some (x.toNat + j) else none := by
  have h := ofByte_regNumber x
  unfold dstReg
  cases hx : Opnd.ofByte x <;> simp only [hx, regNumber, decide_eq_true_eq] at h ⊢ <;> split <;> grind

theorem LaneEff.putLat {c w l ds sr} (s : State) (first : Bool) (lat : Nat) (d : BitVec 8) (v : Word) (j : Nat)
    (h : d.toNat < 192 → d.toNat + j ∈ ds ∧ d.toNat + j < 192) : LaneEff c w l ds sr s (s.putLat c w l first lat d v j) := by
  unfold State.putLat
  rw [dstReg_eq]
  by_cases hd : d.toNat < 192
  · simp only [hd, if_true]
    exact LaneEff.result s first lat _ v {} (h hd).1 (.inl (h hd).2)
  · simp only [hd, if_false]
    exact LaneEff.refl s

theorem LaneEff.putPred {c w l ds sr} (s : State) (lat p : Nat) (b : Bool) (h : 256 + p % 8 ∈ ds) :
    LaneEff c w l ds sr s (s.putPred c w l lat p b) :=
  LaneEff.result s true lat _ _ {} (by simpa [predId] using h) (by unfold predId; omega)

-- All lanes

theorem LanesOnly.refl (c w : Nat) (ds : List Nat) (sr : Bool) (s : State) : LanesOnly c w [] [] ds sr s s :=
  ⟨rfl, fun _ _ => ⟨rfl, rfl⟩, fun _ _ => ⟨rfl, rfl⟩, fun _ _ => rfl, by simp, by simp, by simp⟩

theorem LaneSt.next_change (x : LaneSt) (p : BitVec 8) (g : Word) (sh : List Shadow) :
    ({ x with preds := p, gen := g, shadow := sh } : LaneSt).next = { x.next with preds := p, gen := g, shadow := sh } := by
  unfold LaneSt.next
  dsimp only
  repeat' split
  all_goals rfl

@[simp] theorem LaneSt.next_preds (x : LaneSt) : x.next.preds = x.preds := by
  unfold LaneSt.next; dsimp only; repeat' split
  all_goals rfl

@[simp] theorem LaneSt.next_gen (x : LaneSt) : x.next.gen = x.gen := by
  unfold LaneSt.next; dsimp only; repeat' split
  all_goals rfl

/-- One more lane goes past its word, executing it (`e` true) or not. -/
theorem LanesOnly.step {c w l stall ds sr} {ls ms : List Nat} {s t u : State} (e : Bool) (h : LanesOnly c w ls ms ds sr s t)
    (hl : l ∉ ls) (k : LaneEff c w l (if e then ds else []) (e && sr) t u) :
    LanesOnly c w (ls ++ [l]) (if e then ms ++ [l] else ms) ds sr s
      (u.modLane c w l (LaneOut.done.after stall)) where
  rest := by
    have h1 := k.rest
    have h2 := h.rest
    rw [State.modLane, State.setLane, h1, h2]
  vector x hx := by
    have h1 := h.vector x fun y hy => hx y (by cases e <;> simp [hy])
    have hk : ∀ r ∈ (if e then ds else []), r < 128 → x ≠ t.poolKey c w r l := by
      intro r hr h128
      have : t.poolKey c w r l = s.poolKey c w r l := by rw [h.rest]; rfl
      rw [this]
      cases e with
      | false => simp at hr
      | true => exact hx l (by simp) r (by simpa using hr) h128
    have h2 := k.vector x hk
    exact ⟨h2.1.trans h1.1, h2.2.trans h1.2⟩
  uniform x hx := by
    have h1 := h.uniform x hx
    have h2 := k.uniform x fun r hr => hx r (by cases e <;> simp_all)
    exact ⟨h2.1.trans h1.1, h2.2.trans h1.2⟩
  others x hx := by
    have h1 := h.others x fun y hy => hx y (by simp [hy])
    have hne := hx l (by simp)
    rw [State.lanes_modLane_other _ _ hne, k.others x hne, h1]
  stands y hy := by
    by_cases hyl : y = l
    · subst hyl
      obtain ⟨p, g, sh, h1⟩ := k.stands
      have h2 : t.lane c w y = s.lane c w y := h.others _ fun z hz => laneKey_ne fun hc => hl (hc ▸ hz)
      refine ⟨p, g, (LaneSt.age { s.lane c w y with preds := p, gen := g, shadow := sh } (1 + stall)).shadow, ?_⟩
      rw [State.lane_modLane, h1, h2]
      exact LaneSt.next_change (s.lane c w y) p g _
    · have hy' : y ∈ ls := by simpa [hyl] using hy
      obtain ⟨p, g, sh, h1⟩ := h.stands y hy'
      refine ⟨p, g, sh, ?_⟩
      rw [State.lane_modLane_other _ _ hyl]
      exact (k.others _ (laneKey_ne hyl)).trans h1
  preds y hy p hp hn := by
    by_cases hyl : y = l
    · subst hyl
      have h2 : t.lane c w y = s.lane c w y := h.others _ fun z hz => laneKey_ne fun hc => hl (hc ▸ hz)
      rw [State.lane_modLane, ← h2]
      simp only [LaneOut.after, LaneSt.next_preds, LaneSt.age]
      refine k.preds p hp ?_
      cases e with
      | false => simp
      | true =>
        rcases hn with hn | hn
        · simpa using hn
        · simp at hn
    · have hy' : y ∈ ls := by simpa [hyl] using hy
      rw [State.lane_modLane_other _ _ hyl, show u.lane c w y = t.lane c w y from k.others _ (laneKey_ne hyl)]
      exact h.preds y hy' p hp (hn.imp id fun hn hm' => hn (by cases e <;> simp [hm']))
  gens y hy hn := by
    by_cases hyl : y = l
    · subst hyl
      have h2 : t.lane c w y = s.lane c w y := h.others _ fun z hz => laneKey_ne fun hc => hl (hc ▸ hz)
      rw [State.lane_modLane, ← h2]
      simp only [LaneOut.after, LaneSt.next_gen, LaneSt.age]
      refine k.gens ?_
      cases e with
      | false => rfl
      | true =>
        rcases hn with hn | hn
        · simpa using hn
        · simp at hn
    · have hy' : y ∈ ls := by simpa [hyl] using hy
      rw [State.lane_modLane_other _ _ hyl, show u.lane c w y = t.lane c w y from k.others _ (laneKey_ne hyl)]
      exact h.gens y hy' (hn.imp id fun hn hm' => hn (by cases e <;> simp [hm']))

/-- What is outstanding in one of the lanes changes. -/
theorem LanesOnly.shadow {c w l ds sr} {ls ms : List Nat} {s t : State} (h : LanesOnly c w ls ms ds sr s t) (hl : l ∈ ls) (f : LaneSt → LaneSt)
    (hf : ∀ x, ∃ sh, f x = { x with shadow := sh }) : LanesOnly c w ls ms ds sr s (t.modLane c w l f) := by
  have lane : ∀ y, ∃ sh, (t.modLane c w l f).lane c w y = { t.lane c w y with shadow := sh } := fun y => by
    by_cases hy : y = l
    · subst hy; rw [State.lane_modLane]; exact hf _
    · exact ⟨_, by rw [State.lane_modLane_other _ _ hy]⟩
  refine ⟨?_, h.vector, h.uniform, fun k hk => ?_, fun y hy => ?_, fun y hy p hp hn => ?_, fun y hy hn => ?_⟩
  · rw [State.modLane, State.setLane, h.rest]
  · rw [State.lanes_modLane_other _ _ (hk l hl)]; exact h.others k hk
  · obtain ⟨p, g, sh, e⟩ := h.stands y hy
    obtain ⟨sh', e'⟩ := lane y
    exact ⟨p, g, sh', by rw [e', e]⟩
  · obtain ⟨_, e⟩ := lane y
    rw [e]; exact h.preds y hy p hp hn
  · obtain ⟨_, e⟩ := lane y
    rw [e]; exact h.gens y hy hn

/-- A late write changes only what is outstanding. -/
theorem LaneSt.lates (late : List Shadow) (n : Nat) (x : LaneSt) :
    ∃ sh, (late.foldl (fun x e => if e.left ≤ n then x else x.late e.reg e.old (e.left - n)) x) = { x with shadow := sh } := by
  induction late generalizing x with
  | nil => exact ⟨_, rfl⟩
  | cons e t ih =>
    rw [List.foldl_cons]
    split
    · exact ih x
    · obtain ⟨sh, h⟩ := ih (x.late e.reg e.old (e.left - n))
      exact ⟨sh, by rw [h]; rfl⟩

theorem LanesOnly.lateIn {c w stall ds sr} {ls ms : List Nat} {s : State} (late : List Shadow) (ks : List Nat) (hk : ∀ l ∈ ks, l ∈ ls)
    (t : State) (h : LanesOnly c w ls ms ds sr s t) : LanesOnly c w ls ms ds sr s (t.lateIn c w stall late ks) := by
  induction ks generalizing t with
  | nil => exact h
  | cons k ks ih => exact ih (fun l hl => hk l (by simp [hl])) _ (h.shadow (hk k (by simp)) _ (LaneSt.lates late _))

theorem LanesOnly.cur {c w ls ms ds sr} {s t : State} (h : LanesOnly c w ls ms ds sr s t) : t.cur = s.cur := by rw [h.rest]

theorem LanesOnly.congr {c w ds sr} {ls ls' ms ms' : List Nat} {s t : State} (h : LanesOnly c w ls ms ds sr s t)
    (h1 : ∀ l, l ∈ ls ↔ l ∈ ls') (h2 : ∀ l, l ∈ ms ↔ l ∈ ms') : LanesOnly c w ls' ms' ds sr s t where
  rest := h.rest
  vector x hx := h.vector x fun l hl => hx l ((h2 l).mp hl)
  uniform := h.uniform
  others x hx := h.others x fun l hl => hx l ((h1 l).mp hl)
  stands l hl := h.stands l ((h1 l).mpr hl)
  preds l hl p hp hn := h.preds l ((h1 l).mpr hl) p hp (hn.imp id fun hn hm => hn ((h2 l).mp hm))
  gens l hl hn := h.gens l ((h1 l).mpr hl) (hn.imp id fun hn hm => hn ((h2 l).mp hm))

theorem State.reg_congr {s t : State} {c w l r : Nat} (h1 : r < 128 → t.pool.get 0 (t.poolKey c w r l) = s.pool.get 0 (s.poolKey c w r l))
    (h2 : 128 ≤ r → r < 192 → t.ureg.get 0 (uregKey c w (r - 128)) = s.ureg.get 0 (uregKey c w (r - 128)))
    (h3 : 192 ≤ r → (t.lane c w l).preds = (s.lane c w l).preds) : t.reg c w l r = s.reg c w l r := by
  unfold State.reg
  split
  · exact h1 ‹_›
  · split
    · exact h2 (by omega) ‹_›
    · have h := h3 (by omega)
      show (if ((r - 256) % 8 == 7 || (t.lane c w l).preds.getLsbD ((r - 256) % 8)) = true then (1 : Word) else 0) =
        if ((r - 256) % 8 == 7 || (s.lane c w l).preds.getLsbD ((r - 256) % 8)) = true then 1 else 0
      rw [h]

/-- A late write leaves every register's newest value, and every generator. -/
theorem State.lateIn_keeps {c w stall : Nat} (late : List Shadow) (ks : List Nat) (t : State) :
    (∀ l r, (t.lateIn c w stall late ks).reg c w l r = t.reg c w l r) ∧
      ∀ l, ((t.lateIn c w stall late ks).lane c w l).gen = (t.lane c w l).gen := by
  induction ks generalizing t with
  | nil => exact ⟨fun _ _ => rfl, fun _ => rfl⟩
  | cons k ks ih =>
    obtain ⟨i1, i2⟩ := ih (t.modLane c w k fun x => late.foldl (fun x e => if e.left ≤ 1 + stall then x else x.late e.reg e.old (e.left - (1 + stall))) x)
    have lane : ∀ y, ∃ sh, (t.modLane c w k fun x => late.foldl (fun x e => if e.left ≤ 1 + stall then x else x.late e.reg e.old (e.left - (1 + stall))) x).lane c w y =
        { t.lane c w y with shadow := sh } := fun y => by
      by_cases hy : y = k
      · subst hy; rw [State.lane_modLane]; exact LaneSt.lates late _ _
      · exact ⟨_, by rw [State.lane_modLane_other _ _ hy]⟩
    refine ⟨fun l r => (i1 l r).trans (State.reg_congr (fun _ => rfl) (fun _ _ => rfl) fun _ => ?_), fun l => (i2 l).trans ?_⟩
    · obtain ⟨_, e⟩ := lane l
      rw [e]
    · obtain ⟨_, e⟩ := lane l
      rw [e]

/-- Vector registers of other lanes, and their predicates, stay. -/
theorem LaneEff.reg_other {c w l l' r ds sr} {s t : State} (h : LaneEff c w l ds sr s t) (hl : l < 32) (hl' : l' < 32) (hne : l' ≠ l)
    (hr : r < 128 ∨ 192 ≤ r) : t.reg c w l' r = s.reg c w l' r := by
  refine State.reg_congr (fun h1 => ?_) (fun h1 h2 => by omega) fun _ => ?_
  · rw [h.poolKey]
    refine (h.vector _ fun q _ _ => ?_).1
    unfold State.poolKey
    omega
  · rw [show t.lane c w l' = s.lane c w l' from h.others _ (laneKey_ne hne)]

theorem State.reg_after (u : State) (c w l r stall l' : Nat) :
    (u.modLane c w l (LaneOut.done.after stall)).reg c w l' r = u.reg c w l' r := by
  refine State.reg_congr (fun _ => rfl) (fun _ _ => rfl) fun _ => ?_
  by_cases h : l' = l
  · subst h; simp [LaneOut.after, LaneSt.age]
  · rw [State.lane_modLane_other _ _ h]

theorem LanesOnly.skip {c w stall ds sr} (s : State) (ks : List Nat) (h : ks.Nodup) :
    ∀ (ls : List Nat) (t : State), LanesOnly c w ls [] ds sr s t → (∀ l ∈ ks, l ∉ ls) →
      LanesOnly c w (ls ++ ks) [] ds sr s (t.forLanes ks fun l u => u.modLane c w l (LaneOut.done.after stall)) := by
  induction ks with
  | nil => intro ls t ht _; simpa [State.forLanes] using ht
  | cons k ks ih =>
    intro ls t ht hd
    have h1 := LanesOnly.step (stall := stall) (ds := ds) (sr := sr) false ht (hd k (by simp)) (LaneEff.refl t)
    have h2 := ih (List.nodup_cons.mp h).2 (ls ++ [k]) _ h1 (by
      intro l hl
      have := (List.nodup_cons.mp h).1
      simp only [List.mem_append, List.mem_singleton, not_or]
      exact ⟨hd l (by simp [hl]), fun e => this (e ▸ hl)⟩)
    simpa [State.forLanes] using h2

/-- The lanes of M run a body that always goes on, one after another. -/
theorem runs {c w stall ds sr} (s : State) (body : Nat → Bool → State → LaneOut × State) (g : Nat → Bool → State → State)
    (ms : List Nat) (hms : ms.Nodup) (h32 : ∀ l ∈ ms, l < 32)
    (hb : ∀ l ∈ ms, ∀ first u, body l first u = (.done, g l first u))
    (hg : ∀ l ∈ ms, ∀ first u, LaneEff c w l ds sr u (g l first u))
    (hu : ∀ l ∈ ms, ∀ u k, (g l false u).ureg.get 0 k = u.ureg.get 0 k) :
    ∀ (ls : List Nat) (a : Acc3), LanesOnly c w ls a.done ds sr s a.s → a.faults = [] → (∀ l ∈ ms, l ∉ ls) →
      (∀ l ∈ ls, l < 32) → (∀ l ∈ a.done, l ∈ ls) →
      let b := ms.foldl (Acc3.lane stall c w body) a
      b.faults = [] ∧ b.done = a.done ++ ms ∧ LanesOnly c w (ls ++ ms) b.done ds sr s b.s ∧
      (∀ l ∈ ls, ∀ r, (r < 128 ∨ 192 ≤ r ∨ a.done ≠ []) → b.s.reg c w l r = a.s.reg c w l r) ∧
      (∀ l ∈ ls, (b.s.lane c w l).gen = (a.s.lane c w l).gen) ∧
      (∀ l ∈ ms, ∀ r v, (128 ≤ r ∧ r < 192 → a.done = [] ∧ ms.head? = some l) →
        (∀ first u, (128 ≤ r ∧ r < 192 → first = true) → u.teams = s.teams → u.lane c w l = s.lane c w l →
          (g l first u).reg c w l r = v) → b.s.reg c w l r = v) ∧
      (∀ l ∈ ms, ∀ v, (∀ first u, u.lane c w l = s.lane c w l → ((g l first u).lane c w l).gen = v) →
        (b.s.lane c w l).gen = v) := by
  induction ms with
  | nil => intro ls a ha hf _ _ _; simp [hf, ha]
  | cons m ms ih =>
    intro ls a ha hf hd hls hds
    obtain ⟨hm, hms'⟩ := List.nodup_cons.mp hms
    have hbm := hb m (by simp) a.done.isEmpty a.s
    have hgm := hg m (by simp) a.done.isEmpty a.s
    have hm32 := h32 m (by simp)
    have hml : m ∉ ls := hd m (by simp)
    have hstep := LanesOnly.step (stall := stall) (ds := ds) (sr := sr) true ha hml (by simpa using hgm)
    simp only [if_true] at hstep
    obtain ⟨b, hb'⟩ : ∃ b, b = Acc3.lane stall c w body a m := ⟨_, rfl⟩
    have es : b.s = (g m a.done.isEmpty a.s).modLane c w m (LaneOut.done.after stall) := by rw [hb', Acc3.lane, hbm]
    have ed : b.done = a.done ++ [m] := by rw [hb', Acc3.lane, hbm]
    have ef : b.faults = [] := by rw [hb', Acc3.lane, hbm]; exact hf
    have teams_a : a.s.teams = s.teams := by rw [ha.rest]
    have lane_m : a.s.lane c w m = s.lane c w m := ha.others _ fun z hz => laneKey_ne fun e => hml (e ▸ hz)
    obtain ⟨i1, i2, i3, i4, i5, i6, i7⟩ := ih hms' (fun l hl => h32 l (by simp [hl])) (fun l hl => hb l (by simp [hl]))
      (fun l hl => hg l (by simp [hl])) (fun l hl => hu l (by simp [hl])) (ls ++ [m]) b
      (by rw [es, ed]; exact hstep) ef
      (by
        intro l hl
        simp only [List.mem_append, List.mem_singleton, not_or]
        exact ⟨hd l (by simp [hl]), fun e => hm (e ▸ hl)⟩)
      (by simpa using fun l hl => hl.elim (hls l) fun e => e ▸ hm32)
      (by rw [ed]; simpa using fun l hl => hl.imp (hds l) id)
    have keep : ∀ l ∈ ls, ∀ r, (r < 128 ∨ 192 ≤ r ∨ a.done ≠ []) → b.s.reg c w l r = a.s.reg c w l r := by
      intro l hl r hr
      rw [es, State.reg_after]
      by_cases hr' : r < 128 ∨ 192 ≤ r
      · exact hgm.reg_other hm32 (hls l hl) (fun e => hml (e ▸ hl)) hr'
      · have hne : a.done ≠ [] := by
          rcases hr with h | h | h
          · exact absurd (.inl h) hr'
          · exact absurd (.inr h) hr'
          · exact h
        have : a.done.isEmpty = false := by simpa using hne
        refine State.reg_congr (fun h1 => absurd (.inl h1) hr') (fun _ _ => ?_) fun h1 => absurd (.inr h1) hr'
        rw [this]
        exact hu m (by simp) a.s _
    refine ⟨by rw [List.foldl_cons, ← hb']; exact i1, by rw [List.foldl_cons, ← hb', i2, ed]; simp, ?_, ?_, ?_, ?_, ?_⟩
    · simpa [← hb'] using i3
    · intro l hl r hr
      rw [List.foldl_cons, ← hb', i4 l (by simp [hl]) r (by rw [ed]; rcases hr with h | h | h <;> simp [h]), keep l hl r hr]
    · intro l hl
      rw [List.foldl_cons, ← hb', i5 l (by simp [hl]), es, State.lane_modLane_other _ _ (show l ≠ m from fun e => hml (e ▸ hl)),
        show (g m a.done.isEmpty a.s).lane c w l = a.s.lane c w l from hgm.others _ (laneKey_ne fun e => hml (e ▸ hl))]
    · intro l hl r v hr hv
      rw [List.foldl_cons, ← hb']
      by_cases hlm : l = m
      · subst hlm
        have hfirst : 128 ≤ r ∧ r < 192 → a.done.isEmpty = true := fun h => by simp [(hr h).1]
        rw [i4 l (by simp) r (by rw [ed]; simp), es, State.reg_after]
        exact hv _ _ hfirst teams_a lane_m
      · have hl' : l ∈ ms := by simpa [hlm] using hl
        refine i6 l hl' r v (fun h => ?_) hv
        have := (hr h).2
        simp at this
        exact absurd this.symm hlm
    · intro l hl v hv
      rw [List.foldl_cons, ← hb']
      by_cases hlm : l = m
      · subst hlm
        rw [i5 l (by simp), es, State.lane_modLane]
        simp only [LaneOut.after, LaneSt.next_gen, LaneSt.age]
        exact hv _ _ lane_m
      · exact i7 l (by simpa [hlm] using hl) v hv

/-- A per-lane word whose body always goes on and writes registers `ds` alone: everything that it leaves. -/
theorem State.perLane_regs {s : State} {i : Instr} {body pre ex} {ds : List Nat} {sr : Bool} (g : Nat → Bool → State → State)
    (hc : s.clear i) (hp : pre s (s.lanesM i) = none)
    (hb : ∀ l ∈ s.lanesM i, ∀ first u, body s s.cur.core s.cur.slot l first u = (.done, g l first u))
    (hg : ∀ l ∈ s.lanesM i, ∀ first u, LaneEff s.cur.core s.cur.slot l ds sr u (g l first u))
    (hu : ∀ l ∈ s.lanesM i, ∀ u k, (g l false u).ureg.get 0 k = u.ureg.get 0 k) :
    ∃ t, s.perLane i body pre ex = .next t ∧ OnlyRegs s t i ds sr ∧
      (∀ r, ∀ l ∈ s.writers i r, ∀ v,
        (∀ first u, (128 ≤ r ∧ r < 192 → first = true) → u.teams = s.teams →
          u.lane s.cur.core s.cur.slot l = s.lane s.cur.core s.cur.slot l → (g l first u).reg s.cur.core s.cur.slot l r = v) →
        t.reg s.cur.core s.cur.slot l r = v) ∧
      (∀ l ∈ s.lanesM i, ∀ v,
        (∀ first u, u.lane s.cur.core s.cur.slot l = s.lane s.cur.core s.cur.slot l →
          ((g l first u).lane s.cur.core s.cur.slot l).gen = v) → (t.lane s.cur.core s.cur.slot l).gen = v) := by
  rw [State.perLane_clear hc hp]
  have hskip := LanesOnly.skip (c := s.cur.core) (w := s.cur.slot) (stall := i.stall) (ds := ds) (sr := sr) s
    ((s.issuing i).filter fun l => !s.inM i s.cur.core s.cur.slot l) ((State.issuing_nodup s i).filter _) [] s
    (LanesOnly.refl _ _ _ _ _) (by simp)
  rw [List.nil_append] at hskip
  have e : s.skipLanes i.stall ((s.issuing i).filter fun l => !s.inM i s.cur.core s.cur.slot l) =
    s.forLanes ((s.issuing i).filter fun l => !s.inM i s.cur.core s.cur.slot l)
      fun l u => u.modLane s.cur.core s.cur.slot l (LaneOut.done.after i.stall) := by unfold State.skipLanes; rfl
  rw [← e] at hskip
  clear e
  generalize s.skipLanes i.stall ((s.issuing i).filter fun l => !s.inM i s.cur.core s.cur.slot l) = t0 at hskip ⊢
  have hcur : t0.cur = s.cur := hskip.cur
  have hr := runs (stall := i.stall) (c := s.cur.core) (w := s.cur.slot) (ds := ds) (sr := sr) s
    (fun l first u =>
        match s.sourceFault s.cur.core s.cur.slot l ((s.needs i s.cur.core s.cur.slot l).filter fun r => !ex.contains r) with
        | some (cause, aux) => (.fault cause 0 aux, u)
        | none => body s s.cur.core s.cur.slot l first u) g (s.lanesM i) (State.lanesM_nodup s i)
    (fun l hl => State.lanesM_lt hl)
    (by
      intro l hl first u
      rw [State.sourceFault_filter (hc.2 l hl)]
      exact hb l hl first u)
    hg hu ((s.issuing i).filter fun l => !s.inM i s.cur.core s.cur.slot l) { s := t0, done := [], faults := [], aux := 0 }
    hskip rfl
    (by
      intro l hl h
      have h1 := (List.mem_filter.mp h).2
      rw [(List.mem_filter.mp hl).2] at h1
      cases h1)
    (by intro l hl; exact State.issuing_lt (List.mem_filter.mp hl).1) (by simp)
  dsimp only at hr
  generalize hB : List.foldl _ _ _ = B at hr
  obtain ⟨r1, r2, r3, -, -, r6, r7⟩ := hr
  obtain ⟨k1, k2⟩ := State.lateIn_keeps (c := s.cur.core) (w := s.cur.slot) (stall := i.stall) B.late
    (((s.issuing i).filter fun l => !s.inM i s.cur.core s.cur.slot l) ++ B.done.drop 1) B.s
  refine ⟨B.s.lateIn s.cur.core s.cur.slot i.stall B.late
    (((s.issuing i).filter fun l => !s.inM i s.cur.core s.cur.slot l) ++ B.done.drop 1), ?_, ?_, ?_, fun l hl v hv => (k2 l).trans (r7 l hl v hv)⟩
  · simp only [State.runLanes, hcur, hB, r1]
    rfl
  · refine LanesOnly.lateIn B.late _ (fun l hl => ?_) _ (r3.congr (ls' := s.issuing i) (ms' := s.lanesM i) (fun l => ?_) (fun l => ?_))
    · rcases List.mem_append.mp hl with h | h
      · exact (List.mem_filter.mp h).1
      · have := List.mem_of_mem_drop h
        rw [r2] at this
        exact State.lanesM_issuing (by simpa using this)
    · simp only [List.mem_append, List.mem_filter, State.lanesM]
      by_cases h : s.inM i s.cur.core s.cur.slot l = true <;> simp [h]
    · rw [r2]; simp
  · intro r l hl v hv
    refine (k1 l r).trans (r6 l ?_ r v ?_ hv)
    · unfold State.writers at hl
      split at hl
      · exact List.mem_of_mem_take hl
      · exact hl
    · intro h
      refine ⟨rfl, ?_⟩
      unfold State.writers at hl
      rw [if_pos h] at hl
      cases hM : s.lanesM i with
      | nil => simp [hM] at hl
      | cons m ms => simp [hM] at hl; simp [hl]

-- What a result register reads

theorem State.poolKey_ne {s : State} {c w r r' l : Nat} (h : r ≠ r') : s.poolKey c w r l ≠ s.poolKey c w r' l := by
  unfold State.poolKey; omega

/-- A vector or uniform register reads as it was written. -/
theorem State.reg_putReg (s : State) {c w l r : Nat} (v : Word) (m : Mark) (h : r < 192) : (s.putReg c w l r v m).reg c w l r = v := by
  by_cases h1 : r < 128
  · have : (s.putReg c w l r v m).poolKey c w r l = s.poolKey c w r l := by simp [State.putReg, h1]; rfl
    simp [State.reg, h1, this]
    simp [State.putReg, h1]
  · simp [State.reg, State.putReg, h1, h]

/-- A predicate reads as it was written; p7 reads true (R59). -/
theorem State.reg_putPred (s : State) {c w l p : Nat} (b : Bool) (h : p < 8) :
    (s.putReg c w l (256 + p) (if b then 1 else 0) {}).reg c w l (256 + p) = if p = 7 ∨ b = true then 1 else 0 := by
  have h1 : ¬ 256 + p < 128 := by omega
  have h2 : ¬ 256 + p < 192 := by omega
  simp only [State.reg, State.putReg, h1, h2, if_false, State.lane_modLane, show 256 + p - 256 = p by omega]
  unfold LaneSt.pred
  rw [show p % 8 = p by omega, LaneSt.setPred_getLsbD _ _ _ _ h h]
  by_cases h7 : p = 7 <;> cases b <;> simp [h7]

/-- A change of what a lane has outstanding changes no register. -/
theorem State.reg_modLane (s : State) (c w l l' r : Nat) (f : LaneSt → LaneSt) (h : (f (s.lane c w l)).preds = (s.lane c w l).preds) :
    (s.modLane c w l f).reg c w l' r = s.reg c w l' r := by
  refine State.reg_congr (fun _ => rfl) (fun _ _ => rfl) fun _ => ?_
  by_cases e : l' = l
  · subst e; simpa using h
  · rw [State.lane_modLane_other _ _ e]

/-- A result register reads its result, whatever its latency: a reader below its distance is `State.rd`'s concern (R76). -/
theorem State.reg_result (s : State) {c w l r : Nat} (first : Bool) (lat : Nat) (v : Word) (m : Mark) (h : r < 192)
    (hf : 128 ≤ r → first = true) : (s.result c w l first lat r v m).reg c w l r = v := by
  have hr : r < 128 ∨ 192 ≤ r ∨ first = true := by
    by_cases h1 : r < 128
    · exact .inl h1
    · exact .inr (.inr (hf (by omega)))
  simp only [State.result, hr, if_true]
  split
  · rw [State.dropShadow, State.reg_modLane _ _ _ _ _ _ _ rfl, State.reg_putReg s v m h]
  · rw [State.reg_modLane _ _ _ _ _ _ _ rfl, State.reg_putReg s v m h]

/-- A result leaves every other register of its lane. -/
theorem State.reg_result_other (s : State) {c w l r r' : Nat} (first : Bool) (lat : Nat) (v : Word) (m : Mark)
    (h : r < 192) (hr : r' ≠ r) : (s.result c w l first lat r v m).reg c w l r' = s.reg c w l r' := by
  have e : LaneEff c w l [r] false s (s.result c w l first lat r v m) := LaneEff.result s first lat r v m (by simp) (.inl h)
  refine State.reg_congr (fun _ => ?_) (fun h1 h2 => ?_) fun h1 => ?_
  · rw [e.poolKey]
    exact (e.vector _ fun q hq _ => by rw [List.mem_singleton.mp hq]; exact State.poolKey_ne hr).1
  · refine (e.uniform _ fun q hq _ _ => ?_).1
    obtain rfl := List.mem_singleton.mp hq
    unfold uregKey
    omega
  · refine BitVec.eq_of_getLsbD_eq fun p hp => ?_
    refine e.preds p hp ?_
    simp; omega

theorem State.reg_putLat (s : State) {c w l : Nat} (first : Bool) (lat : Nat) (d : BitVec 8) (v : Word) (j : Nat)
    (h : d.toNat + j < 192) (hf : 128 ≤ d.toNat + j → first = true) :
    (s.putLat c w l first lat d v j).reg c w l (d.toNat + j) = v := by
  unfold State.putLat
  rw [dstReg_eq, if_pos (by omega)]
  exact State.reg_result s first lat v {} h hf

/-- Without a lower lane to write it, a uniform register is left alone (R56). -/
theorem State.ureg_result_false (s : State) {c w l r : Nat} (lat : Nat) (v : Word) (m : Mark) (h : r < 192) (k : Nat) :
    (s.result c w l false lat r v m).ureg.get 0 k = s.ureg.get 0 k := by
  unfold State.result
  split
  · have h1 : r < 128 := by simp_all; omega
    have h2 : (s.putReg c w l r v m).ureg.get 0 k = s.ureg.get 0 k := by simp [State.putReg, h1]
    dsimp only
    split
    · exact h2
    · exact h2
  · rfl

theorem State.ureg_putLat_false (s : State) {c w l : Nat} (lat : Nat) (d : BitVec 8) (v : Word) (j : Nat)
    (h : d.toNat < 192 → d.toNat + j < 192) (k : Nat) : (s.putLat c w l false lat d v j).ureg.get 0 k = s.ureg.get 0 k := by
  unfold State.putLat
  rw [dstReg_eq]
  by_cases h1 : d.toNat < 192
  · rw [if_pos h1]; exact State.ureg_result_false s lat v {} (h h1) k
  · rw [if_neg h1]

/-- Words whose body writes one word to D (`toD`). -/
theorem State.perLane_toD {s : State} {i : Instr} {pre ex} {lat : Nat} {d : BitVec 8} {v : State → Nat → Nat → Nat → Word}
    (hc : s.clear i) (hp : pre s (s.lanesM i) = none) :
    ∃ t, s.perLane i (toD lat d v) pre ex = .next t ∧ OnlyRegs s t i (dsts d 1) false ∧
      Gives s t i d 0 fun l => v s s.cur.core s.cur.slot l := by
  obtain ⟨t, h1, h2, h3, -⟩ := State.perLane_regs (body := toD lat d v) (ex := ex) (ds := dsts d 1) (sr := false)
    (fun l first u => u.putLat s.cur.core s.cur.slot l first lat d (v s s.cur.core s.cur.slot l)) hc hp
    (fun _ _ _ _ => rfl)
    (fun l _ first u => LaneEff.putLat u first lat d _ 0 fun h => by simp [dsts, h])
    (fun l _ u k => State.ureg_putLat_false u lat d _ 0 (by simp) k)
  refine ⟨t, h1, h2, fun hd l hl => h3 _ l hl _ fun first u hf _ _ => ?_⟩
  exact State.reg_putLat u first lat d _ 0 (by simpa using hd) fun h => hf ⟨h, by simpa using hd⟩

end Sys2Proof.Machine
end

