-- ==== Sys2Proof/Laws/Access.lean ====
section
/-! SUPPORT. A word that one lane issues: what becomes of the lane, and how registers come to wait for a reply. -/

namespace Sys2Proof.Machine

theorem State.skipLanes_nil (s : State) (n : Nat) : s.skipLanes n [] = s := rfl

theorem State.lateIn_nil (s : State) (c w stall : Nat) (late : List Shadow) : s.lateIn c w stall late [] = s := rfl

theorem State.Alone.skipped {s : State} {i : Instr} {l : Nat} (h : s.Alone i l) :
    ((s.issuing i).filter fun l => !s.inM i s.cur.core s.cur.slot l) = [] := by
  have h1 := h.guarded
  unfold State.lanesM at h1
  rw [h.issues] at h1 ⊢
  simp at h1 ⊢
  exact h1

/-- A per-lane word in a lane alone: the lane becomes what its body says. -/
theorem State.perLane_solo {s : State} {i : Instr} {l : Nat} {body pre ex} {o : LaneOut} {u : State} (h : s.Alone i l)
    (hp : pre s [l] = none) (hb : body s s.cur.core s.cur.slot l true s = (o, u)) (ho : ∀ a b d, o ≠ .fault a b d) :
    s.perLane i body pre ex = .next (u.modLane s.cur.core s.cur.slot l (o.after i.stall)) := by
  rw [State.perLane_clear h.clear (by rw [h.guarded]; exact hp), h.skipped, State.skipLanes_nil, h.guarded]
  have hs := h.clear.2 l (by simp [h.guarded])
  simp only [State.runLanes, List.foldl_cons, List.foldl_nil, Acc3.lane, State.sourceFault_filter hs, List.isEmpty_nil, hb]
  cases o with
  | fault a b d => exact absurd rfl (ho a b d)
  | park p => cases p <;> rfl
  | _ => rfl

/-- A per-lane word in a lane alone, whose body faults: the trap. -/
theorem State.perLane_solo_fault {s : State} {i : Instr} {l : Nat} {body pre ex} {cause addr aux : Nat} {u : State} (h : s.Alone i l)
    (hp : pre s [l] = none) (hb : body s s.cur.core s.cur.slot l true s = (.fault cause addr aux, u)) :
    s.perLane i body pre ex = .next (u.takeTrap s.cur.core s.cur.slot (Mask.one l) 0 [(l, cause, addr)] 0 aux) := by
  rw [State.perLane_clear h.clear (by rw [h.guarded]; exact hp), h.skipped, State.skipLanes_nil, h.guarded]
  have hs := h.clear.2 l (by simp [h.guarded])
  simp only [State.runLanes, List.foldl_cons, List.foldl_nil, Acc3.lane, State.sourceFault_filter hs, List.isEmpty_nil, hb]
  simp [Mask.ofLanes, State.lateIn_nil]

-- Registers that wait

/-- What `State.expect` does to lane l: marks of registers, and outstanding results of l. -/
structure Marked (c w l : Nat) (ds : List Nat) (k : Nat) (u t : State) : Prop where
  rest : t = { u with marks := t.marks, umarks := t.umarks, lanes := t.lanes }
  waits : ∀ r ∈ ds, r < 192 → (t.mark c w l r).pend = k + 1
  vector : ∀ x, (∀ r ∈ ds, r < 128 → x ≠ u.poolKey c w r l) → t.marks.get {} x = u.marks.get {} x
  uniform : ∀ x, (∀ r ∈ ds, 128 ≤ r → r < 192 → x ≠ uregKey c w (r - 128)) → t.umarks.get {} x = u.umarks.get {} x
  others : ∀ x, x ≠ laneKey c w l → t.lanes.get {} x = u.lanes.get {} x
  stands : ∃ sh, t.lane c w l = { u.lane c w l with shadow := sh }

theorem Marked.refl (c w l k : Nat) (u : State) : Marked c w l [] k u u :=
  ⟨rfl, by simp, fun _ _ => rfl, fun _ _ => rfl, fun _ _ => rfl, _, rfl⟩

theorem uregKey_ne {c w r r' : Nat} (h : r ≠ r') : uregKey c w r ≠ uregKey c w r' := by unfold uregKey; omega

/-- One more register waits. -/
theorem Marked.step {c w l k r : Nat} {ds : List Nat} {u t : State} {m : Mark} (h : Marked c w l ds k u t) (hm : m.pend = k + 1) :
    Marked c w l (ds ++ [r]) k u ((t.setMark c w l r m).dropShadow c w l r) := by
  have hk : ∀ r', t.poolKey c w r' l = u.poolKey c w r' l := fun r' => by rw [h.rest]; rfl
  have ho : ∀ (v : State), v.lanes = t.lanes → (∀ x, x ≠ laneKey c w l → (v.dropShadow c w l r).lanes.get {} x = u.lanes.get {} x) ∧
      ∃ sh, (v.dropShadow c w l r).lane c w l = { u.lane c w l with shadow := sh } := by
    intro v hv
    refine ⟨fun x hx => ?_, ?_⟩
    · rw [State.dropShadow, State.lanes_modLane_other _ _ hx, hv]; exact h.others x hx
    · obtain ⟨sh, hs⟩ := h.stands
      refine ⟨sh.filter fun y => y.reg != r, ?_⟩
      rw [State.dropShadow, State.lane_modLane]
      have : v.lane c w l = t.lane c w l := by unfold State.lane; rw [hv]
      rw [this, hs]
  have hrest := h.rest
  unfold State.setMark
  by_cases h1 : r < 128
  · simp only [h1, if_true]
    obtain ⟨h2, h3⟩ := ho { t with marks := t.marks.set (t.poolKey c w r l) m } rfl
    refine ⟨by rw [State.dropShadow, State.modLane, State.setLane, hrest], ?_, ?_, ?_, h2, h3⟩
    · intro q hq hq2
      by_cases e : q = r
      · subst e
        show (if q < 128 then _ else _ : Mark).pend = _
        rw [if_pos h1]
        show ((t.marks.set (t.poolKey c w q l) m).get {} (t.poolKey c w q l)).pend = _
        simpa using hm
      · have hq' : q ∈ ds := by simpa [e] using hq
        have := h.waits q hq' hq2
        refine Eq.trans ?_ this
        unfold State.mark
        by_cases q1 : q < 128
        · simp only [q1, if_true]
          show ((t.marks.set (t.poolKey c w r l) m).get {} (t.poolKey c w q l)).pend = _
          rw [Tab.get_set_other _ _ _ (State.poolKey_ne e)]
        · simp only [q1, if_false]; rfl
    · intro x hx
      show (t.marks.set (t.poolKey c w r l) m).get {} x = _
      rw [Tab.get_set_other _ _ _ (by rw [hk]; exact hx r (by simp) h1)]
      exact h.vector x fun r hr => hx r (by simp [hr])
    · intro x hx
      exact h.uniform x fun r hr => hx r (by simp [hr])
  · by_cases h4 : r < 192
    · simp only [h1, h4, if_true, if_false]
      obtain ⟨h2, h3⟩ := ho { t with umarks := t.umarks.set (uregKey c w (r - 128)) m } rfl
      refine ⟨by rw [State.dropShadow, State.modLane, State.setLane, hrest], ?_, ?_, ?_, h2, h3⟩
      · intro q hq hq2
        by_cases e : q = r
        · subst e
          show (if q < 128 then _ else _ : Mark).pend = _
          rw [if_neg h1, if_pos h4]
          show ((t.umarks.set (uregKey c w (q - 128)) m).get {} (uregKey c w (q - 128))).pend = _
          simpa using hm
        · have hq' : q ∈ ds := by simpa [e] using hq
          have := h.waits q hq' hq2
          refine Eq.trans ?_ this
          unfold State.mark
          by_cases q1 : q < 128
          · simp only [q1, if_true]; rfl
          · simp only [q1, hq2, if_false, if_true]
            show ((t.umarks.set (uregKey c w (r - 128)) m).get {} (uregKey c w (q - 128))).pend = _
            rw [Tab.get_set_other _ _ _ (uregKey_ne (by omega))]
      · intro x hx
        exact h.vector x fun r hr => hx r (by simp [hr])
      · intro x hx
        show (t.umarks.set (uregKey c w (r - 128)) m).get {} x = _
        rw [Tab.get_set_other _ _ _ (hx r (by simp) (by omega) h4)]
        exact h.uniform x fun r hr => hx r (by simp [hr])
    · simp only [h1, h4, if_false]
      obtain ⟨h2, h3⟩ := ho t rfl
      refine ⟨by rw [State.dropShadow, State.modLane, State.setLane, hrest], ?_, ?_, ?_, h2, h3⟩
      · intro q hq hq2
        have hq' : q ∈ ds := by
          rcases List.mem_append.mp hq with h | h
          · exact h
          · simp at h; omega
        exact h.waits q hq' hq2
      · intro x hx; exact h.vector x fun r hr => hx r (by simp [hr])
      · intro x hx; exact h.uniform x fun r hr => hx r (by simp [hr])

/-- `State.expect` in the first lane: n registers from D on wait. -/
theorem State.expect_marked (u : State) (c w l : Nat) (d : BitVec 8) (n k : Nat) :
    Marked c w l (dsts d n) k u (u.expect c w l true (dstOf d true) n k) := by
  unfold State.expect dstOf dsts
  rw [dstReg_eq]
  by_cases hd : d.toNat < 192
  · simp only [hd, if_true, Option.filter_some, Nat.add_zero, Bool.or_true, or_true]
    induction n with
    | zero => exact Marked.refl c w l k u
    | succ n ih => rw [List.range_succ, List.foldl_append, List.map_append]; exact ih.step rfl
  · simp only [hd, if_false, Option.filter_none]
    exact Marked.refl c w l k u

theorem LaneSt.next_shadow (x : LaneSt) (sh : List Shadow) : ({ x with shadow := sh } : LaneSt).next = { x.next with shadow := sh } := by
  unfold LaneSt.next
  dsimp only
  repeat' split
  all_goals rfl

/-- A lane goes past its word once its registers wait. -/
theorem Marked.goes {c w l k stall : Nat} {ds : List Nat} {u t v : State} (h : Marked c w l ds k u t)
    (hv : v = { t with reqs := v.reqs, replies := v.replies, seq := v.seq }) :
    Waits c w l ds k u (v.modLane c w l (LaneOut.done.after stall)) := by
  have hl : v.lanes = t.lanes := by rw [hv]
  have hm : v.marks = t.marks := by rw [hv]
  have hu : v.umarks = t.umarks := by rw [hv]
  have ht : v.teams = t.teams := by rw [hv]
  have hlane : v.lane c w l = t.lane c w l := by unfold State.lane; rw [hl]
  refine ⟨?_, ?_, ?_, ?_, ?_, ?_⟩
  · rw [State.modLane, State.setLane, hv, h.rest]
  · intro r hr h2
    rw [← h.waits r hr h2]
    unfold State.mark
    show (if r < 128 then v.marks.get {} (v.poolKey c w r l) else if r < 192 then v.umarks.get {} _ else {} : Mark).pend = _
    rw [hm, hu]
    unfold State.poolKey State.share State.team
    rw [ht]
  · intro x hx; exact (by rw [← hm] : v.marks.get {} x = t.marks.get {} x).trans (h.vector x hx)
  · intro x hx; exact (by rw [← hu] : v.umarks.get {} x = t.umarks.get {} x).trans (h.uniform x hx)
  · intro x hx; rw [State.lanes_modLane_other _ _ hx, hl]; exact h.others x hx
  · obtain ⟨sh, hs⟩ := h.stands
    refine ⟨(LaneSt.age { u.lane c w l with shadow := sh } (1 + stall)).shadow, ?_⟩
    rw [State.lane_modLane, hlane, hs]
    exact LaneSt.next_shadow (u.lane c w l) _

/-- A request of the first lane, which goes past its word. -/
theorem State.request_waits (u : State) (c w l stall : Nat) (x : Loc) (leaf : Word) (op : ReqOp) (d : BitVec 8) (n : Nat) (own : Bool)
    (path : Option Nat) (inst : Nat) : Waits c w l (dsts d n) u.seq u
      ((u.request c w l true x leaf op d n own path inst).modLane c w l (LaneOut.done.after stall)) :=
  (u.expect_marked c w l d n u.seq).goes rfl

end Sys2Proof.Machine
end

