-- ==== Sys2Proof/Laws/PerInstr.lean ====
section
/-! SUPPORT. Per instruction: the encoding of a term is a number below 2^64, so `encode` drops nothing of it. -/

namespace Sys2Proof

theorem bit_lt (b : Bool) : bit b < 2 := by cases b <;> decide

theorem encFull_lt (h : Hdr) (opc : Nat) (d a b : BitVec 8) (cls : Nat) (ho : opc < 2 ^ 10) (hc : cls < 2 ^ 21) :
    encFull h opc d a b cls < 2 ^ 62 := by
  have := h.stall.isLt; have := bit_lt h.gneg; have := h.gp.isLt; have := d.isLt; have := a.isLt; have := b.isLt
  unfold encFull; omega

theorem Alu.enc_lt (f : Alu) (opc : Nat) (ho : opc < 2 ^ 10) : f.enc opc < 2 ^ 64 := by
  have := f.c.isLt; have := f.ty.code.isLt; have := f.rm.code.isLt; have := bit_lt f.sat; have := bit_lt f.lo; have := f.opx.isLt
  exact (encFull_lt _ _ _ _ _ _ ho (by omega)).trans (by decide)

theorem Imm.enc_lt (f : Imm) (opc : Nat) (ho : opc < 2 ^ 10) : f.enc opc < 2 ^ 64 := by
  have := f.imm.isLt; have := f.ty.code.isLt
  exact (encFull_lt _ _ _ _ _ _ ho (by omega)).trans (by decide)

theorem Mem.enc_lt (f : Mem) (opc : Nat) (ho : opc < 2 ^ 10) : f.enc opc < 2 ^ 64 := by
  have := f.imm.isLt; have := f.ty.code.isLt; have := f.sc.code.isLt
  exact (encFull_lt _ _ _ _ _ _ ho (by omega)).trans (by decide)

theorem Eng.enc_lt (f : Eng) (opc : Nat) (ho : opc < 2 ^ 10) : f.enc opc < 2 ^ 64 := by
  have := f.c.isLt; have := f.ty.code.isLt; have := f.sc.code.isLt; have := f.mod.isLt
  exact (encFull_lt _ _ _ _ _ _ ho (by omega)).trans (by decide)

theorem Mx.enc_lt (f : Mx) (opc : Nat) (ho : opc < 2 ^ 10) : f.enc opc < 2 ^ 64 := by
  have := f.e.isLt; have := f.acc.isLt; have := f.k.isLt; have := f.imm5.isLt; have := bit_lt f.z
  exact (encFull_lt _ _ _ _ _ _ ho (by omega)).trans (by decide)

theorem Br.enc_lt (f : Br) (opc : Nat) (ho : opc < 2 ^ 10) : f.enc opc < 2 ^ 64 := by
  have := f.off.isLt
  exact (encFull_lt _ _ _ _ _ _ ho (by omega)).trans (by decide)

theorem Half.enc_lt (h : Half) (o : HOp) : h.enc o < 2 ^ 30 := by
  have := o.code.isLt; have := h.ty.code.isLt; have := bit_lt h.gneg; have := h.gp.isLt; have := h.d.isLt
  have := bit_lt h.imm; have := h.s.isLt
  unfold Half.enc; omega

theorem Pair.enc_lt (f : Pair) (o : HOp) : f.enc o < 2 ^ 64 := by
  have := f.stall.isLt; have := f.h1.enc_lt o; have := f.h2.enc_lt f.op2
  unfold Pair.enc; omega

end Sys2Proof

/-- The encoding of an instruction fits its word. -/
def Sys2Proof.Laws.EncodingFits.Statement (i : Sys2Proof.Instr) : Prop := Sys2Proof.encodeNat i < 2 ^ 64

namespace Sys2Proof.Laws.EncodingFits

/-- A step that no word starts encodes as the reserved form. -/
theorem event_fits : 2 ^ 64 - 1 < 2 ^ 64 := by decide

theorem add (f : Alu) : Statement (.add f) := Alu.enc_lt f _ (by decide)
theorem sub (f : Alu) : Statement (.sub f) := Alu.enc_lt f _ (by decide)
theorem mul (f : Alu) : Statement (.mul f) := Alu.enc_lt f _ (by decide)
theorem mulh (f : Alu) : Statement (.mulh f) := Alu.enc_lt f _ (by decide)
theorem mad (f : Alu) : Statement (.mad f) := Alu.enc_lt f _ (by decide)
theorem div (f : Alu) : Statement (.div f) := Alu.enc_lt f _ (by decide)
theorem rem (f : Alu) : Statement (.rem f) := Alu.enc_lt f _ (by decide)
theorem min (f : Alu) : Statement (.min f) := Alu.enc_lt f _ (by decide)
theorem max (f : Alu) : Statement (.max f) := Alu.enc_lt f _ (by decide)
theorem abs (f : Alu) : Statement (.abs f) := Alu.enc_lt f _ (by decide)
theorem neg (f : Alu) : Statement (.neg f) := Alu.enc_lt f _ (by decide)
theorem addc (f : Alu) : Statement (.addc f) := Alu.enc_lt f _ (by decide)
theorem subb (f : Alu) : Statement (.subb f) := Alu.enc_lt f _ (by decide)
theorem sad (f : Alu) : Statement (.sad f) := Alu.enc_lt f _ (by decide)
theorem lea (f : Alu) : Statement (.lea f) := Alu.enc_lt f _ (by decide)
theorem dot4 (f : Alu) : Statement (.dot4 f) := Alu.enc_lt f _ (by decide)
theorem dot2 (f : Alu) : Statement (.dot2 f) := Alu.enc_lt f _ (by decide)
theorem addImm (f : Imm) : Statement (.addImm f) := Imm.enc_lt f _ (by decide)
theorem subImm (f : Imm) : Statement (.subImm f) := Imm.enc_lt f _ (by decide)
theorem mulImm (f : Imm) : Statement (.mulImm f) := Imm.enc_lt f _ (by decide)
theorem minImm (f : Imm) : Statement (.minImm f) := Imm.enc_lt f _ (by decide)
theorem maxImm (f : Imm) : Statement (.maxImm f) := Imm.enc_lt f _ (by decide)
theorem and (f : Alu) : Statement (.and f) := Alu.enc_lt f _ (by decide)
theorem or (f : Alu) : Statement (.or f) := Alu.enc_lt f _ (by decide)
theorem xor (f : Alu) : Statement (.xor f) := Alu.enc_lt f _ (by decide)
theorem andn (f : Alu) : Statement (.andn f) := Alu.enc_lt f _ (by decide)
theorem not (f : Alu) : Statement (.not f) := Alu.enc_lt f _ (by decide)
theorem shl (f : Alu) : Statement (.shl f) := Alu.enc_lt f _ (by decide)
theorem shr (f : Alu) : Statement (.shr f) := Alu.enc_lt f _ (by decide)
theorem sar (f : Alu) : Statement (.sar f) := Alu.enc_lt f _ (by decide)
theorem rot (f : Alu) : Statement (.rot f) := Alu.enc_lt f _ (by decide)
theorem popc (f : Alu) : Statement (.popc f) := Alu.enc_lt f _ (by decide)
theorem clz (f : Alu) : Statement (.clz f) := Alu.enc_lt f _ (by decide)
theorem ctz (f : Alu) : Statement (.ctz f) := Alu.enc_lt f _ (by decide)
theorem brev (f : Alu) : Statement (.brev f) := Alu.enc_lt f _ (by decide)
theorem bfx (f : Alu) : Statement (.bfx f) := Alu.enc_lt f _ (by decide)
theorem bfi (f : Alu) : Statement (.bfi f) := Alu.enc_lt f _ (by decide)
theorem sel (f : Alu) : Statement (.sel f) := Alu.enc_lt f _ (by decide)
theorem mov (f : Alu) : Statement (.mov f) := Alu.enc_lt f _ (by decide)
theorem movw (f : Imm) : Statement (.movw f) := Imm.enc_lt f _ (by decide)
theorem andImm (f : Imm) : Statement (.andImm f) := Imm.enc_lt f _ (by decide)
theorem orImm (f : Imm) : Statement (.orImm f) := Imm.enc_lt f _ (by decide)
theorem xorImm (f : Imm) : Statement (.xorImm f) := Imm.enc_lt f _ (by decide)
theorem shlImm (f : Imm) : Statement (.shlImm f) := Imm.enc_lt f _ (by decide)
theorem shrImm (f : Imm) : Statement (.shrImm f) := Imm.enc_lt f _ (by decide)
theorem sarImm (f : Imm) : Statement (.sarImm f) := Imm.enc_lt f _ (by decide)
theorem rotImm (f : Imm) : Statement (.rotImm f) := Imm.enc_lt f _ (by decide)
theorem cmp (f : Alu) : Statement (.cmp f) := Alu.enc_lt f _ (by decide)
theorem fcmp (f : Alu) : Statement (.fcmp f) := Alu.enc_lt f _ (by decide)
theorem plop (f : Alu) : Statement (.plop f) := Alu.enc_lt f _ (by decide)
theorem pmov (f : Alu) : Statement (.pmov f) := Alu.enc_lt f _ (by decide)
theorem fadd (f : Alu) : Statement (.fadd f) := Alu.enc_lt f _ (by decide)
theorem fsub (f : Alu) : Statement (.fsub f) := Alu.enc_lt f _ (by decide)
theorem fmul (f : Alu) : Statement (.fmul f) := Alu.enc_lt f _ (by decide)
theorem fma (f : Alu) : Statement (.fma f) := Alu.enc_lt f _ (by decide)
theorem fmin (f : Alu) : Statement (.fmin f) := Alu.enc_lt f _ (by decide)
theorem fmax (f : Alu) : Statement (.fmax f) := Alu.enc_lt f _ (by decide)
theorem fcls (f : Alu) : Statement (.fcls f) := Alu.enc_lt f _ (by decide)
theorem fscale (f : Alu) : Statement (.fscale f) := Alu.enc_lt f _ (by decide)
theorem fract (f : Alu) : Statement (.fract f) := Alu.enc_lt f _ (by decide)
theorem frnd (f : Alu) : Statement (.frnd f) := Alu.enc_lt f _ (by decide)
theorem fdot2 (f : Alu) : Statement (.fdot2 f) := Alu.enc_lt f _ (by decide)
theorem cvt (f : Alu) : Statement (.cvt f) := Alu.enc_lt f _ (by decide)
theorem frcp (f : Alu) : Statement (.frcp f) := Alu.enc_lt f _ (by decide)
theorem frsq (f : Alu) : Statement (.frsq f) := Alu.enc_lt f _ (by decide)
theorem fsqrt (f : Alu) : Statement (.fsqrt f) := Alu.enc_lt f _ (by decide)
theorem fdiv (f : Alu) : Statement (.fdiv f) := Alu.enc_lt f _ (by decide)
theorem fexp2 (f : Alu) : Statement (.fexp2 f) := Alu.enc_lt f _ (by decide)
theorem flog2 (f : Alu) : Statement (.flog2 f) := Alu.enc_lt f _ (by decide)
theorem fsin (f : Alu) : Statement (.fsin f) := Alu.enc_lt f _ (by decide)
theorem fcos (f : Alu) : Statement (.fcos f) := Alu.enc_lt f _ (by decide)
theorem xfm (f : Alu) : Statement (.xfm f) := Alu.enc_lt f _ (by decide)
theorem shfl (f : Alu) : Statement (.shfl f) := Alu.enc_lt f _ (by decide)
theorem vote (f : Alu) : Statement (.vote f) := Alu.enc_lt f _ (by decide)
theorem redux (f : Alu) : Statement (.redux f) := Alu.enc_lt f _ (by decide)
theorem perm (f : Alu) : Statement (.perm f) := Alu.enc_lt f _ (by decide)
theorem rdln (f : Alu) : Statement (.rdln f) := Alu.enc_lt f _ (by decide)
theorem wrln (f : Alu) : Statement (.wrln f) := Alu.enc_lt f _ (by decide)
theorem scan (f : Alu) : Statement (.scan f) := Alu.enc_lt f _ (by decide)
theorem pairAdd (f : Pair) : Statement (.pairAdd f) := Pair.enc_lt f _
theorem pairSub (f : Pair) : Statement (.pairSub f) := Pair.enc_lt f _
theorem pairMul (f : Pair) : Statement (.pairMul f) := Pair.enc_lt f _
theorem pairMin (f : Pair) : Statement (.pairMin f) := Pair.enc_lt f _
theorem pairMax (f : Pair) : Statement (.pairMax f) := Pair.enc_lt f _
theorem pairAnd (f : Pair) : Statement (.pairAnd f) := Pair.enc_lt f _
theorem pairOr (f : Pair) : Statement (.pairOr f) := Pair.enc_lt f _
theorem pairXor (f : Pair) : Statement (.pairXor f) := Pair.enc_lt f _
theorem pairAndn (f : Pair) : Statement (.pairAndn f) := Pair.enc_lt f _
theorem pairShl (f : Pair) : Statement (.pairShl f) := Pair.enc_lt f _
theorem pairShr (f : Pair) : Statement (.pairShr f) := Pair.enc_lt f _
theorem pairSar (f : Pair) : Statement (.pairSar f) := Pair.enc_lt f _
theorem pairMov (f : Pair) : Statement (.pairMov f) := Pair.enc_lt f _
theorem pairFadd (f : Pair) : Statement (.pairFadd f) := Pair.enc_lt f _
theorem pairFsub (f : Pair) : Statement (.pairFsub f) := Pair.enc_lt f _
theorem pairFmul (f : Pair) : Statement (.pairFmul f) := Pair.enc_lt f _
theorem pairFmin (f : Pair) : Statement (.pairFmin f) := Pair.enc_lt f _
theorem pairFmax (f : Pair) : Statement (.pairFmax f) := Pair.enc_lt f _
theorem ldG (f : Mem) : Statement (.ldG f) := Mem.enc_lt f _ (by decide)
theorem ldSp (f : Mem) : Statement (.ldSp f) := Mem.enc_lt f _ (by decide)
theorem ldGs (f : Mem) : Statement (.ldGs f) := Mem.enc_lt f _ (by decide)
theorem stG (f : Mem) : Statement (.stG f) := Mem.enc_lt f _ (by decide)
theorem stSp (f : Mem) : Statement (.stSp f) := Mem.enc_lt f _ (by decide)
theorem stGs (f : Mem) : Statement (.stGs f) := Mem.enc_lt f _ (by decide)
theorem ldwG (f : Mem) : Statement (.ldwG f) := Mem.enc_lt f _ (by decide)
theorem ldwSp (f : Mem) : Statement (.ldwSp f) := Mem.enc_lt f _ (by decide)
theorem ldwGs (f : Mem) : Statement (.ldwGs f) := Mem.enc_lt f _ (by decide)
theorem stp (f : Mem) : Statement (.stp f) := Mem.enc_lt f _ (by decide)
theorem pfl (f : Mem) : Statement (.pfl f) := Mem.enc_lt f _ (by decide)
theorem cwb (f : Mem) : Statement (.cwb f) := Mem.enc_lt f _ (by decide)
theorem cinv (f : Mem) : Statement (.cinv f) := Mem.enc_lt f _ (by decide)
theorem icinv (f : Mem) : Statement (.icinv f) := Mem.enc_lt f _ (by decide)
theorem spmapMap (f : Eng) : Statement (.spmapMap f) := Eng.enc_lt f _ (by decide)
theorem spmapUnmap (f : Eng) : Statement (.spmapUnmap f) := Eng.enc_lt f _ (by decide)
theorem spmapFlush (f : Eng) : Statement (.spmapFlush f) := Eng.enc_lt f _ (by decide)
theorem spmapInval (f : Eng) : Statement (.spmapInval f) := Eng.enc_lt f _ (by decide)
theorem lfen (f : Alu) : Statement (.lfen f) := Alu.enc_lt f _ (by decide)
theorem wmrg (f : Alu) : Statement (.wmrg f) := Alu.enc_lt f _ (by decide)
theorem wtst (f : Alu) : Statement (.wtst f) := Alu.enc_lt f _ (by decide)
theorem wwait (f : Alu) : Statement (.wwait f) := Alu.enc_lt f _ (by decide)
theorem wfen (f : Eng) : Statement (.wfen f) := Eng.enc_lt f _ (by decide)
theorem wscp (f : Eng) : Statement (.wscp f) := Eng.enc_lt f _ (by decide)
theorem wloc (f : Alu) : Statement (.wloc f) := Alu.enc_lt f _ (by decide)
theorem atomG (f : Eng) : Statement (.atomG f) := Eng.enc_lt f _ (by decide)
theorem atomSp (f : Eng) : Statement (.atomSp f) := Eng.enc_lt f _ (by decide)
theorem atomGs (f : Eng) : Statement (.atomGs f) := Eng.enc_lt f _ (by decide)
theorem atomr (f : Eng) : Statement (.atomr f) := Eng.enc_lt f _ (by decide)
theorem mwait (f : Eng) : Statement (.mwait f) := Eng.enc_lt f _ (by decide)
theorem seminc (f : Eng) : Statement (.seminc f) := Eng.enc_lt f _ (by decide)
theorem semwGe (f : Eng) : Statement (.semwGe f) := Eng.enc_lt f _ (by decide)
theorem semwTake (f : Eng) : Statement (.semwTake f) := Eng.enc_lt f _ (by decide)
theorem semrd (f : Eng) : Statement (.semrd f) := Eng.enc_lt f _ (by decide)
theorem semset (f : Eng) : Statement (.semset f) := Eng.enc_lt f _ (by decide)
theorem ldd (f : Mem) : Statement (.ldd f) := Mem.enc_lt f _ (by decide)
theorem std (f : Mem) : Statement (.std f) := Mem.enc_lt f _ (by decide)
theorem atomdAdd (f : Eng) : Statement (.atomdAdd f) := Eng.enc_lt f _ (by decide)
theorem atomdMrg (f : Eng) : Statement (.atomdMrg f) := Eng.enc_lt f _ (by decide)
theorem dcvt (f : Alu) : Statement (.dcvt f) := Alu.enc_lt f _ (by decide)
theorem stepadv (f : Eng) : Statement (.stepadv f) := Eng.enc_lt f _ (by decide)
theorem steprd (f : Alu) : Statement (.steprd f) := Alu.enc_lt f _ (by decide)
theorem kdecl (f : Mx) : Statement (.kdecl f) := Mx.enc_lt f _ (by decide)
theorem mma (f : Mx) : Statement (.mma f) := Mx.enc_lt f _ (by decide)
theorem mmaa (f : Mx) : Statement (.mmaa f) := Mx.enc_lt f _ (by decide)
theorem vxm (f : Mx) : Statement (.vxm f) := Mx.enc_lt f _ (by decide)
theorem mzero (f : Mx) : Statement (.mzero f) := Mx.enc_lt f _ (by decide)
theorem mld (f : Mx) : Statement (.mld f) := Mx.enc_lt f _ (by decide)
theorem mst (f : Mx) : Statement (.mst f) := Mx.enc_lt f _ (by decide)
theorem mrd (f : Mx) : Statement (.mrd f) := Mx.enc_lt f _ (by decide)
theorem mwr (f : Mx) : Statement (.mwr f) := Mx.enc_lt f _ (by decide)
theorem mvbnd (f : Mx) : Statement (.mvbnd f) := Mx.enc_lt f _ (by decide)
theorem matrixEngineOpStart (core : Nat) : Statement (.matrixEngineOpStart core) := event_fits
theorem cpy (f : Eng) : Statement (.cpy f) := Eng.enc_lt f _ (by decide)
theorem cpyw (f : Eng) : Statement (.cpyw f) := Eng.enc_lt f _ (by decide)
theorem cpyg (f : Eng) : Statement (.cpyg f) := Eng.enc_lt f _ (by decide)
theorem chn (f : Eng) : Statement (.chn f) := Eng.enc_lt f _ (by decide)
theorem qfen (f : Eng) : Statement (.qfen f) := Eng.enc_lt f _ (by decide)
theorem qtail (f : Eng) : Statement (.qtail f) := Eng.enc_lt f _ (by decide)
theorem qpop (f : Eng) : Statement (.qpop f) := Eng.enc_lt f _ (by decide)
theorem qpush (f : Eng) : Statement (.qpush f) := Eng.enc_lt f _ (by decide)
theorem millRd (f : Eng) : Statement (.millRd f) := Eng.enc_lt f _ (by decide)
theorem millClr (f : Eng) : Statement (.millClr f) := Eng.enc_lt f _ (by decide)
theorem fwait (f : Eng) : Statement (.fwait f) := Eng.enc_lt f _ (by decide)
theorem ftst (f : Eng) : Statement (.ftst f) := Eng.enc_lt f _ (by decide)
theorem fcan (f : Eng) : Statement (.fcan f) := Eng.enc_lt f _ (by decide)
theorem fmov (f : Eng) : Statement (.fmov f) := Eng.enc_lt f _ (by decide)
theorem fst (f : Eng) : Statement (.fst f) := Eng.enc_lt f _ (by decide)
theorem fld (f : Eng) : Statement (.fld f) := Eng.enc_lt f _ (by decide)
theorem trav (f : Eng) : Statement (.trav f) := Eng.enc_lt f _ (by decide)
theorem tvis (f : Eng) : Statement (.tvis f) := Eng.enc_lt f _ (by decide)
theorem psget (f : Eng) : Statement (.psget f) := Eng.enc_lt f _ (by decide)
theorem psput (f : Eng) : Statement (.psput f) := Eng.enc_lt f _ (by decide)
theorem psq (f : Eng) : Statement (.psq f) := Eng.enc_lt f _ (by decide)
theorem psdq (f : Eng) : Statement (.psdq f) := Eng.enc_lt f _ (by decide)
theorem amp (f : Eng) : Statement (.amp f) := Eng.enc_lt f _ (by decide)
theorem occq (f : Eng) : Statement (.occq f) := Eng.enc_lt f _ (by decide)
theorem smp (f : Eng) : Statement (.smp f) := Eng.enc_lt f _ (by decide)
theorem send (f : Eng) : Statement (.send f) := Eng.enc_lt f _ (by decide)
theorem rget (f : Eng) : Statement (.rget f) := Eng.enc_lt f _ (by decide)
theorem rput (f : Eng) : Statement (.rput f) := Eng.enc_lt f _ (by decide)
theorem ratom (f : Eng) : Statement (.ratom f) := Eng.enc_lt f _ (by decide)
theorem coll (f : Eng) : Statement (.coll f) := Eng.enc_lt f _ (by decide)
theorem bkt (f : Eng) : Statement (.bkt f) := Eng.enc_lt f _ (by decide)
theorem bra (f : Br) : Statement (.bra f) := Br.enc_lt f _ (by decide)
theorem brx (f : Alu) : Statement (.brx f) := Alu.enc_lt f _ (by decide)
theorem call (f : Br) : Statement (.call f) := Br.enc_lt f _ (by decide)
theorem calx (f : Alu) : Statement (.calx f) := Alu.enc_lt f _ (by decide)
theorem ret (f : Alu) : Statement (.ret f) := Alu.enc_lt f _ (by decide)
theorem land (f : Alu) : Statement (.land f) := Alu.enc_lt f _ (by decide)
theorem hlp (f : Br) : Statement (.hlp f) := Br.enc_lt f _ (by decide)
theorem exit (f : Alu) : Statement (.exit f) := Alu.enc_lt f _ (by decide)
theorem kill (f : Alu) : Statement (.kill f) := Alu.enc_lt f _ (by decide)
theorem teamEnd (core : Nat) : Statement (.teamEnd core) := event_fits
theorem bar (f : Alu) : Statement (.bar f) := Alu.enc_lt f _ (by decide)
theorem barg (f : Alu) : Statement (.barg f) := Alu.enc_lt f _ (by decide)
theorem nap (f : Imm) : Statement (.nap f) := Imm.enc_lt f _ (by decide)
theorem napExpiry (core slot : Nat) : Statement (.napExpiry core slot) := event_fits
theorem trap (f : Imm) : Statement (.trap f) := Imm.enc_lt f _ (by decide)
theorem brk (f : Imm) : Statement (.brk f) := Imm.enc_lt f _ (by decide)
theorem tret (f : Alu) : Statement (.tret f) := Alu.enc_lt f _ (by decide)
theorem rdsys (f : Imm) : Statement (.rdsys f) := Imm.enc_lt f _ (by decide)
theorem wrsys (f : Imm) : Statement (.wrsys f) := Imm.enc_lt f _ (by decide)
theorem dfacWrite (f : Imm) : Statement (.dfacWrite f) := Imm.enc_lt f _ (by decide)
theorem srseedWrite (f : Imm) : Statement (.srseedWrite f) := Imm.enc_lt f _ (by decide)
theorem tlbiPg (f : Eng) : Statement (.tlbiPg f) := Eng.enc_lt f _ (by decide)
theorem tlbiCtx (f : Eng) : Statement (.tlbiCtx f) := Eng.enc_lt f _ (by decide)
theorem capw (f : Eng) : Statement (.capw f) := Eng.enc_lt f _ (by decide)
theorem capi (f : Eng) : Statement (.capi f) := Eng.enc_lt f _ (by decide)
theorem registerWriteback (core k : Nat) : Statement (.registerWriteback core k) := event_fits
theorem loopBufferFill (core sub : Nat) : Statement (.loopBufferFill core sub) := event_fits
theorem trapEntry (cause detail : Nat) : Statement (.trapEntry cause detail) := event_fits
theorem haRequestPerform (k : Nat) : Statement (.haRequestPerform k) := event_fits
theorem scratchpadPortPerform (k : Nat) : Statement (.scratchpadPortPerform k) := event_fits
theorem monitorDeadline (k : Nat) : Statement (.monitorDeadline k) := event_fits
theorem monitorPoll (k : Nat) : Statement (.monitorPoll k) := event_fits
theorem monitorSwapOut (core : Nat) : Statement (.monitorSwapOut core) := event_fits
theorem barrierTimeout (core slot lane : Nat) : Statement (.barrierTimeout core slot lane) := event_fits
theorem closedTickPublish (agent : Option Nat) : Statement (.closedTickPublish agent) := event_fits
theorem accessCloseTimeout (k : Nat) : Statement (.accessCloseTimeout k) := event_fits
theorem l2Writeback (line : Nat) (rep : Option Nat) (compress : Bool) : Statement (.l2Writeback line rep compress) := event_fits
theorem futureResolve (core ent : Nat) : Statement (.futureResolve core ent) := event_fits
theorem queueEntryStart (q : QueueRef) : Statement (.queueEntryStart q) := event_fits
theorem chainNop (k : Nat) : Statement (.chainNop k) := event_fits
theorem chainCopy (k : Nat) : Statement (.chainCopy k) := event_fits
theorem chainFill (k : Nat) : Statement (.chainFill k) := event_fits
theorem chainGather (k : Nat) : Statement (.chainGather k) := event_fits
theorem chainSeminc (k : Nat) : Statement (.chainSeminc k) := event_fits
theorem chainSemwait (k : Nat) : Statement (.chainSemwait k) := event_fits
theorem chainWaitseq (k : Nat) : Statement (.chainWaitseq k) := event_fits
theorem chainSubmit (k : Nat) : Statement (.chainSubmit k) := event_fits
theorem chainLink (k : Nat) : Statement (.chainLink k) := event_fits
theorem chainWaitMet (k : Nat) : Statement (.chainWaitMet k) := event_fits
theorem chainEntryComplete (k : Nat) : Statement (.chainEntryComplete k) := event_fits
theorem chainEnable (k : Nat) (ctl : Word) : Statement (.chainEnable k ctl) := event_fits
theorem chainTailWrite (k : Nat) (tail : Word) : Statement (.chainTailWrite k tail) := event_fits
theorem millChainStart (core : Nat) : Statement (.millChainStart core) := event_fits
theorem iuInstanceStart (core : Nat) : Statement (.iuInstanceStart core) := event_fits
theorem nodeDispatch (node : Nat) : Statement (.nodeDispatch node) := event_fits
theorem drainLimitExpiry (node : Nat) : Statement (.drainLimitExpiry node) := event_fits
theorem backfillStop (cls : Nat) : Statement (.backfillStop cls) := event_fits
theorem forcedSave (core : Nat) : Statement (.forcedSave core) := event_fits
theorem nodeComplete (node : Nat) : Statement (.nodeComplete node) := event_fits
theorem reExecutionRequest (ctx nid : Nat) : Statement (.reExecutionRequest ctx nid) := event_fits
theorem packetReceive (conn seq epoch : Nat) (p : Packet) : Statement (.packetReceive conn seq epoch p) := event_fits
theorem fencedMessagePerform (conn seq : Nat) : Statement (.fencedMessagePerform conn seq) := event_fits
theorem recordPlace (k : Nat) : Statement (.recordPlace k) := event_fits
theorem ackReceive (conn seq : Nat) (r : Reply) : Statement (.ackReceive conn seq r) := event_fits
theorem packetRetransmit (conn seq : Nat) : Statement (.packetRetransmit conn seq) := event_fits
theorem connectionFail (conn : Nat) : Statement (.connectionFail conn) := event_fits
theorem connectionOpen (conn : Nat) (cctl : Word) : Statement (.connectionOpen conn cctl) := event_fits
theorem connectionUp (conn : Nat) : Statement (.connectionUp conn) := event_fits
theorem connectionClose (conn : Nat) : Statement (.connectionClose conn) := event_fits
theorem connectionClosed (conn : Nat) : Statement (.connectionClosed conn) := event_fits
theorem receiveEndpointWrite (e : Nat) (dw0 dw1 : Word) : Statement (.receiveEndpointWrite e dw0 dw1) := event_fits
theorem keyEpochInstall (conn : Nat) (kctl : Word) : Statement (.keyEpochInstall conn kctl) := event_fits
theorem keyEpochRetire (conn : Nat) (kctl : Word) : Statement (.keyEpochRetire conn kctl) := event_fits
theorem rrcFetchComplete (k : Nat) (line : Option (List Byte)) (bad : List Bool) : Statement (.rrcFetchComplete k line bad) := event_fits
theorem collectivePerform (k : Nat) (others : List RankData) (agree : Bool) : Statement (.collectivePerform k others agree) := event_fits
theorem collectiveYield (k : Nat) : Statement (.collectiveYield k) := event_fits
theorem collectiveSemWaitMet (k : Nat) : Statement (.collectiveSemWaitMet k) := event_fits
theorem imsicMessage (k : Nat) : Statement (.imsicMessage k) := event_fits
theorem shootdownPage (cmd : Word) : Statement (.shootdownPage cmd) := event_fits
theorem shootdownContext (cmd : Word) : Statement (.shootdownContext cmd) := event_fits
theorem shootdownAll (cmd : Word) : Statement (.shootdownAll cmd) := event_fits
theorem shootdownComplete : Statement (.shootdownComplete ) := event_fits
theorem hostRead (off size : Nat) : Statement (.hostRead off size) := event_fits
theorem hostPostedWrite (off : Nat) (data : List Byte) : Statement (.hostPostedWrite off data) := event_fits
theorem hostAtomicop (off size : Nat) (op : BitVec 4) (b c : BitVec 128) : Statement (.hostAtomicop off size op b c) := event_fits
theorem semVStore (k : Nat) : Statement (.semVStore k) := event_fits
theorem semIncrementPort (k : Nat) : Statement (.semIncrementPort k) := event_fits
theorem escalationResume (core slot : Nat) : Statement (.escalationResume core slot) := event_fits
theorem escalationEndFrozen (core slot : Nat) : Statement (.escalationEndFrozen core slot) := event_fits
theorem escalationEndTeam (core slot : Nat) : Statement (.escalationEndTeam core slot) := event_fits
theorem registerWrite (die addr : Nat) (val : Word) : Statement (.registerWrite die addr val) := event_fits
theorem moduleReset (spares : List Nat) (images : List (Nat × Nat × Bool)) : Statement (.moduleReset spares images) := event_fits
theorem leaderBootClaim (die : Nat) : Statement (.leaderBootClaim die) := event_fits
theorem leaderTakeoverClaim (die : Nat) : Statement (.leaderTakeoverClaim die) := event_fits
theorem lockstepCheckpoint (die : Nat) : Statement (.lockstepCheckpoint die) := event_fits
theorem lockstepDivergence (die : Nat) : Statement (.lockstepDivergence die) := event_fits
theorem attestationReport (nonce : Nat) : Statement (.attestationReport nonce) := event_fits
theorem throttle (coreStep haStep : Nat) : Statement (.throttle coreStep haStep) := event_fits
theorem thermalShutdown (die : Nat) : Statement (.thermalShutdown die) := event_fits
theorem thermalSample (die temp : Nat) : Statement (.thermalSample die temp) := event_fits
theorem droopWindow (die mv : Nat) : Statement (.droopWindow die mv) := event_fits
theorem correctedError (die struct : Nat) : Statement (.correctedError die struct) := event_fits
theorem poisonCreate (addr : Nat) : Statement (.poisonCreate addr) := event_fits
theorem coreFieldFailure (core : Nat) : Statement (.coreFieldFailure core) := event_fits
theorem hbmChannelFailure (agent : Nat) : Statement (.hbmChannelFailure agent) := event_fits
theorem linkLaneFailure (port : Nat) : Statement (.linkLaneFailure port) := event_fits
theorem instructionFetchReturn (core line : Nat) : Statement (.instructionFetchReturn core line) := event_fits
theorem serviceOsEndsTeam (core : Nat) : Statement (.serviceOsEndsTeam core) := event_fits

end Sys2Proof.Laws.EncodingFits
end

