-- ==== Sys2Proof/Tests/Slice0.lean ====
section
/-! SUPPORT. Tests: words laid out from the spec's encoding tables, ill-formed terms, the spec's worked examples, and for the
statements' premises states that meet them. -/

open Sys2Proof Sys2Proof.Machine Sys2Proof.Claims

set_option Elab.async false

namespace Sys2Proof.Tests

-- States

/-- Page tables at 0x10000 that map page 0 of context 0 to itself, with every permission (R410, R411). -/
def tables : Memory := [(0x10000, 0x01), (0x10001, 0x10), (0x10002, 0x01), (0x11000, 0x01), (0x11001, 0x20), (0x11002, 0x01),
  (0x12000, 0x01), (0x12001, 0x30), (0x12002, 0x01), (0x13000, 0x7F)]

/-- A team of one warp on core 0, whose lanes 0 to 2 issue a word at address 8; context 0 is live. -/
def base : State := { State.reset with now := 5000, mem := tables, teams := [(0, { nid := 1, nwarp := 1, nreg := 64 })], warps := [(0, { bnd := 64 })], lanes := [(0, { live := true, pc := 8 }), (1, { live := true, pc := 8 }), (2, { live := true, pc := 8 })], ctxs := [(0, { live := true, pgroot := 0x10000 })], cur := { core := 0, slot := 0, lanes := 7, lbp := false, word := 0 } }

/-- The same in handler mode, with a lane alone, and with a value in one of its registers. -/
def handling : State := { base with lanes := base.lanes.map fun (k, x) => (k, { x with handler := true }) }
def one (s : State) : State := { s with cur := { s.cur with lanes := 1 } }
def solo : State := one base
/-- With 16 tiles. -/
def tiled : State := { base with teams := [(0, { nid := 1, nwarp := 1, nreg := 64, nacc := 16 })] }
def State.with_ (s : State) (r : Nat) (v : Word) : State := s.putReg 0 0 0 r v {}

def au (d a b c : BitVec 8) (ty : Ty) : Alu := { h := always 0, d := d, a := a, b := b, c := c, ty := ty, rm := .rne, sat := false, lo := false, opx := 0 }
def me (d a b : BitVec 8) (imm : BitVec 12) (ty : Ty) (sc : Scope) : Mem := { h := always 0, d := d, a := a, b := b, imm := imm, ty := ty, sc := sc }
def en (d a b c : BitVec 8) (sc : Scope) (ty : Ty) (mod : BitVec 4) : Eng := { h := always 0, d := d, a := a, b := b, c := c, sc := sc, ty := ty, mod := mod }

-- A word of every instruction, its bits laid out from the field tables of R54 and R61-R65, R69-R70 and the opcodes of R79: stall count 2,
-- guard not p3, and an operand byte in each field that differs from the others'

def words_integer : List (Word × Instr) :=
  [(0x15800080E1580208, .add ⟨⟨2, true, 3⟩, 0x4, 0x7, 0xa, 0xc0, .i32, .rne, false, true, 0⟩),
   (0x15802080E1580208, .sub ⟨⟨2, true, 3⟩, 0x4, 0x7, 0xa, 0xc0, .i32, .rne, false, true, 0⟩),
   (0x15804080E1580208, .mul ⟨⟨2, true, 3⟩, 0x4, 0x7, 0xa, 0xc0, .i32, .rne, false, true, 0⟩),
   (0x15806080E1580208, .mulh ⟨⟨2, true, 3⟩, 0x4, 0x7, 0xa, 0xc0, .i32, .rne, false, true, 0⟩),
   (0x15808080E141A208, .mad ⟨⟨2, true, 3⟩, 0x4, 0x7, 0xa, 0xd, .i32, .rne, false, true, 0⟩),
   (0x1580A080E1580208, .div ⟨⟨2, true, 3⟩, 0x4, 0x7, 0xa, 0xc0, .i32, .rne, false, true, 0⟩),
   (0x1580C080E1580208, .rem ⟨⟨2, true, 3⟩, 0x4, 0x7, 0xa, 0xc0, .i32, .rne, false, true, 0⟩),
   (0x1580E080E1580208, .min ⟨⟨2, true, 3⟩, 0x4, 0x7, 0xa, 0xc0, .i32, .rne, false, true, 0⟩),
   (0x15810080E1580208, .max ⟨⟨2, true, 3⟩, 0x4, 0x7, 0xa, 0xc0, .i32, .rne, false, true, 0⟩),
   (0x15812080F8180208, .abs ⟨⟨2, true, 3⟩, 0x4, 0x7, 0xc0, 0xc0, .i32, .rne, false, true, 0⟩),
   (0x15814080F8180208, .neg ⟨⟨2, true, 3⟩, 0x4, 0x7, 0xc0, 0xc0, .i32, .rne, false, true, 0⟩),
   (0x15816080E141A208, .addc ⟨⟨2, true, 3⟩, 0x4, 0x7, 0xa, 0xd, .i32, .rne, false, true, 0⟩),
   (0x15818080E141A208, .subb ⟨⟨2, true, 3⟩, 0x4, 0x7, 0xa, 0xd, .i32, .rne, false, true, 0⟩),
   (0x1581A080E141A408, .sad ⟨⟨2, true, 3⟩, 0x4, 0x7, 0xa, 0xd, .n8, .rne, false, true, 0⟩),
   (0x1581C080E158070B, .lea ⟨⟨2, true, 3⟩, 0x4, 0x7, 0xa, 0xc0, .n64, .rne, false, true, 3⟩),
   (0x1581E080E141A208, .dot4 ⟨⟨2, true, 3⟩, 0x4, 0x7, 0xa, 0xd, .i32, .rne, false, true, 0⟩),
   (0x15820080E141A208, .dot2 ⟨⟨2, true, 3⟩, 0x4, 0x7, 0xa, 0xd, .i32, .rne, false, true, 0⟩),
   (0x15840080F8024682, .addImm ⟨⟨2, true, 3⟩, 0x4, 0x7, 0xc0, 0x1234, .i32⟩),
   (0x15842080F8024682, .subImm ⟨⟨2, true, 3⟩, 0x4, 0x7, 0xc0, 0x1234, .i32⟩),
   (0x15844080F8024682, .mulImm ⟨⟨2, true, 3⟩, 0x4, 0x7, 0xc0, 0x1234, .i32⟩),
   (0x1584E080F8024682, .minImm ⟨⟨2, true, 3⟩, 0x4, 0x7, 0xc0, 0x1234, .i32⟩),
   (0x15850080F8024682, .maxImm ⟨⟨2, true, 3⟩, 0x4, 0x7, 0xc0, 0x1234, .i32⟩)]

theorem test_decode_integer : ∀ x ∈ words_integer, decode x.1 = .ok x.2 := by decide

def words_logic : List (Word × Instr) :=
  [(0x15880080E1580208, .and ⟨⟨2, true, 3⟩, 0x4, 0x7, 0xa, 0xc0, .i32, .rne, false, true, 0⟩),
   (0x15882080E1580208, .or ⟨⟨2, true, 3⟩, 0x4, 0x7, 0xa, 0xc0, .i32, .rne, false, true, 0⟩),
   (0x15884080E1580208, .xor ⟨⟨2, true, 3⟩, 0x4, 0x7, 0xa, 0xc0, .i32, .rne, false, true, 0⟩),
   (0x15886080E1580208, .andn ⟨⟨2, true, 3⟩, 0x4, 0x7, 0xa, 0xc0, .i32, .rne, false, true, 0⟩),
   (0x15888080F8180208, .not ⟨⟨2, true, 3⟩, 0x4, 0x7, 0xc0, 0xc0, .i32, .rne, false, true, 0⟩),
   (0x1588A080E1580208, .shl ⟨⟨2, true, 3⟩, 0x4, 0x7, 0xa, 0xc0, .i32, .rne, false, true, 0⟩),
   (0x1588C080E1580208, .shr ⟨⟨2, true, 3⟩, 0x4, 0x7, 0xa, 0xc0, .i32, .rne, false, true, 0⟩),
   (0x1588E080E1580208, .sar ⟨⟨2, true, 3⟩, 0x4, 0x7, 0xa, 0xc0, .i32, .rne, false, true, 0⟩),
   (0x15890080E1580208, .rot ⟨⟨2, true, 3⟩, 0x4, 0x7, 0xa, 0xc0, .i32, .rne, false, true, 0⟩),
   (0x15892080F8180208, .popc ⟨⟨2, true, 3⟩, 0x4, 0x7, 0xc0, 0xc0, .i32, .rne, false, true, 0⟩),
   (0x15894080F8180208, .clz ⟨⟨2, true, 3⟩, 0x4, 0x7, 0xc0, 0xc0, .i32, .rne, false, true, 0⟩),
   (0x15896080F8180208, .ctz ⟨⟨2, true, 3⟩, 0x4, 0x7, 0xc0, 0xc0, .i32, .rne, false, true, 0⟩),
   (0x15898080F8180208, .brev ⟨⟨2, true, 3⟩, 0x4, 0x7, 0xc0, 0xc0, .i32, .rne, false, true, 0⟩),
   (0x1589A080E1580208, .bfx ⟨⟨2, true, 3⟩, 0x4, 0x7, 0xa, 0xc0, .i32, .rne, false, true, 0⟩),
   (0x1589C080E141A208, .bfi ⟨⟨2, true, 3⟩, 0x4, 0x7, 0xa, 0xd, .i32, .rne, false, true, 0⟩),
   (0x1589E080E1402208, .sel ⟨⟨2, true, 3⟩, 0x4, 0x7, 0xa, 0x1, .i32, .rne, false, true, 0⟩),
   (0x158A0080F8180208, .mov ⟨⟨2, true, 3⟩, 0x4, 0x7, 0xc0, 0xc0, .i32, .rne, false, true, 0⟩),
   (0x158A208038024687, .movw ⟨⟨2, true, 3⟩, 0x4, 0x1, 0xc0, 0x1234, .n64⟩),
   (0x158C0080F8024682, .andImm ⟨⟨2, true, 3⟩, 0x4, 0x7, 0xc0, 0x1234, .i32⟩),
   (0x158C2080F8024682, .orImm ⟨⟨2, true, 3⟩, 0x4, 0x7, 0xc0, 0x1234, .i32⟩),
   (0x158C4080F8024682, .xorImm ⟨⟨2, true, 3⟩, 0x4, 0x7, 0xc0, 0x1234, .i32⟩),
   (0x158CA080F8024682, .shlImm ⟨⟨2, true, 3⟩, 0x4, 0x7, 0xc0, 0x1234, .i32⟩),
   (0x158CC080F8024682, .shrImm ⟨⟨2, true, 3⟩, 0x4, 0x7, 0xc0, 0x1234, .i32⟩),
   (0x158CE080F8024682, .sarImm ⟨⟨2, true, 3⟩, 0x4, 0x7, 0xc0, 0x1234, .i32⟩),
   (0x158D0080F8024682, .rotImm ⟨⟨2, true, 3⟩, 0x4, 0x7, 0xc0, 0x1234, .i32⟩)]

theorem test_decode_logic : ∀ x ∈ words_logic, decode x.1 = .ok x.2 := by decide

def words_predicate : List (Word × Instr) :=
  [(0x15900080E158020B, .cmp ⟨⟨2, true, 3⟩, 0x4, 0x7, 0xa, 0xc0, .i32, .rne, false, true, 3⟩),
   (0x15902080E1580A0B, .fcmp ⟨⟨2, true, 3⟩, 0x4, 0x7, 0xa, 0xc0, .f32, .rne, false, true, 3⟩),
   (0x15904080E0380703, .plop ⟨⟨2, true, 3⟩, 0x4, 0x7, 0x1, 0xc0, .n64, .rne, false, false, 3⟩),
   (0x15906080F8180703, .pmov ⟨⟨2, true, 3⟩, 0x4, 0x7, 0xc0, 0xc0, .n64, .rne, false, false, 3⟩)]

theorem test_decode_predicate : ∀ x ∈ words_predicate, decode x.1 = .ok x.2 := by decide

def words_floating : List (Word × Instr) :=
  [(0x15980080E1580A38, .fadd ⟨⟨2, true, 3⟩, 0x4, 0x7, 0xa, 0xc0, .f32, .rtz, true, true, 0⟩),
   (0x15982080E1580A38, .fsub ⟨⟨2, true, 3⟩, 0x4, 0x7, 0xa, 0xc0, .f32, .rtz, true, true, 0⟩),
   (0x15984080E1580A38, .fmul ⟨⟨2, true, 3⟩, 0x4, 0x7, 0xa, 0xc0, .f32, .rtz, true, true, 0⟩),
   (0x15986080E141AA38, .fma ⟨⟨2, true, 3⟩, 0x4, 0x7, 0xa, 0xd, .f32, .rtz, true, true, 0⟩),
   (0x15988080E1580A08, .fmin ⟨⟨2, true, 3⟩, 0x4, 0x7, 0xa, 0xc0, .f32, .rne, false, true, 0⟩),
   (0x1598A080E1580A08, .fmax ⟨⟨2, true, 3⟩, 0x4, 0x7, 0xa, 0xc0, .f32, .rne, false, true, 0⟩),
   (0x1598C080F8180A08, .fcls ⟨⟨2, true, 3⟩, 0x4, 0x7, 0xc0, 0xc0, .f32, .rne, false, true, 0⟩),
   (0x1598E080E1580A38, .fscale ⟨⟨2, true, 3⟩, 0x4, 0x7, 0xa, 0xc0, .f32, .rtz, true, true, 0⟩),
   (0x15990080F8180A38, .fract ⟨⟨2, true, 3⟩, 0x4, 0x7, 0xc0, 0xc0, .f32, .rtz, true, true, 0⟩),
   (0x15992080F8180A38, .frnd ⟨⟨2, true, 3⟩, 0x4, 0x7, 0xc0, 0xc0, .f32, .rtz, true, true, 0⟩),
   (0x15994080E141A838, .fdot2 ⟨⟨2, true, 3⟩, 0x4, 0x7, 0xa, 0xd, .f16, .rtz, true, true, 0⟩)]

theorem test_decode_floating : ∀ x ∈ words_floating, decode x.1 = .ok x.2 := by decide

def words_special : List (Word × Instr) :=
  [(0x15A00080F801A23B, .cvt ⟨⟨2, true, 3⟩, 0x4, 0x7, 0xc0, 0xd, .i32, .rtz, true, true, 3⟩),
   (0x15A02080F8180A38, .frcp ⟨⟨2, true, 3⟩, 0x4, 0x7, 0xc0, 0xc0, .f32, .rtz, true, true, 0⟩),
   (0x15A04080F8180A38, .frsq ⟨⟨2, true, 3⟩, 0x4, 0x7, 0xc0, 0xc0, .f32, .rtz, true, true, 0⟩),
   (0x15A06080F8180A38, .fsqrt ⟨⟨2, true, 3⟩, 0x4, 0x7, 0xc0, 0xc0, .f32, .rtz, true, true, 0⟩),
   (0x15A08080E1580A38, .fdiv ⟨⟨2, true, 3⟩, 0x4, 0x7, 0xa, 0xc0, .f32, .rtz, true, true, 0⟩),
   (0x15A0A080F8180A38, .fexp2 ⟨⟨2, true, 3⟩, 0x4, 0x7, 0xc0, 0xc0, .f32, .rtz, true, true, 0⟩),
   (0x15A0C080F8180A38, .flog2 ⟨⟨2, true, 3⟩, 0x4, 0x7, 0xc0, 0xc0, .f32, .rtz, true, true, 0⟩),
   (0x15A0E080F8180A38, .fsin ⟨⟨2, true, 3⟩, 0x4, 0x7, 0xc0, 0xc0, .f32, .rtz, true, true, 0⟩),
   (0x15A10080F8180A38, .fcos ⟨⟨2, true, 3⟩, 0x4, 0x7, 0xc0, 0xc0, .f32, .rtz, true, true, 0⟩),
   (0x15A12080E1580A00, .xfm ⟨⟨2, true, 3⟩, 0x4, 0x7, 0xa, 0xc0, .f32, .rne, false, false, 0⟩)]

theorem test_decode_special : ∀ x ∈ words_special, decode x.1 = .ok x.2 := by decide

def words_lane : List (Word × Instr) :=
  [(0x15A80080E1514203, .shfl ⟨⟨2, true, 3⟩, 0x4, 0x7, 0xa, 0x8a, .i32, .rne, false, false, 3⟩),
   (0x15A82080F8114703, .vote ⟨⟨2, true, 3⟩, 0x4, 0x7, 0xc0, 0x8a, .n64, .rne, false, false, 3⟩),
   (0x15A84080F8114203, .redux ⟨⟨2, true, 3⟩, 0x4, 0x7, 0xc0, 0x8a, .i32, .rne, false, false, 3⟩),
   (0x15A86080E141A408, .perm ⟨⟨2, true, 3⟩, 0x4, 0x7, 0xa, 0xd, .n8, .rne, false, true, 0⟩),
   (0x15A88080F1180200, .rdln ⟨⟨2, true, 3⟩, 0x4, 0x7, 0x88, 0xc0, .i32, .rne, false, false, 0⟩),
   (0x15A8A080F1180200, .wrln ⟨⟨2, true, 3⟩, 0x4, 0x7, 0x88, 0xc0, .i32, .rne, false, false, 0⟩),
   (0x15A8C080F8114203, .scan ⟨⟨2, true, 3⟩, 0x4, 0x7, 0xc0, 0x8a, .i32, .rne, false, false, 3⟩)]

theorem test_decode_lane : ∀ x ∈ words_lane, decode x.1 = .ok x.2 := by decide

def words_memory : List (Word × Instr) :=
  [(0x15B00080F8134A20, .ldG ⟨⟨2, true, 3⟩, 0x4, 0x7, 0xc0, 0x9a5, .i32, .no⟩),
   (0x15B02080F8134A20, .ldSp ⟨⟨2, true, 3⟩, 0x4, 0x7, 0xc0, 0x9a5, .i32, .no⟩),
   (0x15B04080F8134A20, .ldGs ⟨⟨2, true, 3⟩, 0x4, 0x7, 0xc0, 0x9a5, .i32, .no⟩),
   (0x15B08080E1534A27, .stG ⟨⟨2, true, 3⟩, 0x4, 0x7, 0xa, 0x9a5, .i32, .pk⟩),
   (0x15B0A080E1534A27, .stSp ⟨⟨2, true, 3⟩, 0x4, 0x7, 0xa, 0x9a5, .i32, .pk⟩),
   (0x15B0C080E1534A27, .stGs ⟨⟨2, true, 3⟩, 0x4, 0x7, 0xa, 0x9a5, .i32, .pk⟩),
   (0x15B10080E1534A20, .ldwG ⟨⟨2, true, 3⟩, 0x4, 0x7, 0xa, 0x9a5, .i32, .no⟩),
   (0x15B12080E1534A20, .ldwSp ⟨⟨2, true, 3⟩, 0x4, 0x7, 0xa, 0x9a5, .i32, .no⟩),
   (0x15B14080E1534A20, .ldwGs ⟨⟨2, true, 3⟩, 0x4, 0x7, 0xa, 0x9a5, .i32, .no⟩),
   (0x15B18090C1400027, .stp ⟨⟨2, true, 3⟩, 0x4, 0x86, 0xa, 0x0, .i32, .pk⟩),
   (0x15B21800F8134A23, .pfl ⟨⟨2, true, 3⟩, 0xc0, 0x7, 0xc0, 0x9a5, .i32, .tm⟩),
   (0x15B22080F8134A77, .cwb ⟨⟨2, true, 3⟩, 0x4, 0x7, 0xc0, 0x9a5, .n64, .pk⟩),
   (0x15B25800F8134A73, .cinv ⟨⟨2, true, 3⟩, 0xc0, 0x7, 0xc0, 0x9a5, .n64, .tm⟩),
   (0x15B26080F8134A77, .icinv ⟨⟨2, true, 3⟩, 0x4, 0x7, 0xc0, 0x9a5, .n64, .pk⟩),
   (0x15B28090D1180E70, .spmapMap ⟨⟨2, true, 3⟩, 0x4, 0x86, 0x88, 0xc0, .pk, .n64, 0⟩),
   (0x15B2809811180E71, .spmapUnmap ⟨⟨2, true, 3⟩, 0x4, 0xc0, 0x88, 0xc0, .pk, .n64, 1⟩),
   (0x15B2809811180E72, .spmapFlush ⟨⟨2, true, 3⟩, 0x4, 0xc0, 0x88, 0xc0, .pk, .n64, 2⟩),
   (0x15B2809811180E73, .spmapInval ⟨⟨2, true, 3⟩, 0x4, 0xc0, 0x88, 0xc0, .pk, .n64, 3⟩),
   (0x15B2B81818180700, .lfen ⟨⟨2, true, 3⟩, 0xc0, 0xc0, 0xc0, 0xc0, .n64, .rne, false, false, 0⟩)]

theorem test_decode_memory : ∀ x ∈ words_memory, decode x.1 = .ok x.2 := by decide

def words_witness : List (Word × Instr) :=
  [(0x15B80080E1581800, .wmrg ⟨⟨2, true, 3⟩, 0x4, 0x7, 0xa, 0xc0, .wt, .rne, false, false, 0⟩),
   (0x15B82080F8181800, .wtst ⟨⟨2, true, 3⟩, 0x4, 0x7, 0xc0, 0xc0, .wt, .rne, false, false, 0⟩),
   (0x15B85800F8181800, .wwait ⟨⟨2, true, 3⟩, 0xc0, 0x7, 0xc0, 0xc0, .wt, .rne, false, false, 0⟩),
   (0x15B8609818180F80, .wfen ⟨⟨2, true, 3⟩, 0x4, 0xc0, 0xc0, 0xc0, .pk, .wt, 0⟩),
   (0x15B88080F8180F80, .wscp ⟨⟨2, true, 3⟩, 0x4, 0x7, 0xc0, 0xc0, .pk, .wt, 0⟩),
   (0x15B8A080F8181800, .wloc ⟨⟨2, true, 3⟩, 0x4, 0x7, 0xc0, 0xc0, .wt, .rne, false, false, 0⟩)]

theorem test_decode_witness : ∀ x ∈ words_witness, decode x.1 = .ok x.2 := by decide

def words_atomic : List (Word × Instr) :=
  [(0x15C00080E1580E23, .atomG ⟨⟨2, true, 3⟩, 0x4, 0x7, 0xa, 0xc0, .pk, .i32, 3⟩),
   (0x15C02080E1580E23, .atomSp ⟨⟨2, true, 3⟩, 0x4, 0x7, 0xa, 0xc0, .pk, .i32, 3⟩),
   (0x15C04080E1580E23, .atomGs ⟨⟨2, true, 3⟩, 0x4, 0x7, 0xa, 0xc0, .pk, .i32, 3⟩),
   (0x15C08080E1580E23, .atomr ⟨⟨2, true, 3⟩, 0x4, 0x7, 0xa, 0xc0, .pk, .i32, 3⟩),
   (0x15C10080E1514023, .mwait ⟨⟨2, true, 3⟩, 0x4, 0x7, 0xa, 0x8a, .no, .i32, 3⟩),
   (0x15C180980141AE70, .seminc ⟨⟨2, true, 3⟩, 0x4, 0xc0, 0xa, 0xd, .pk, .n64, 0⟩),
   (0x15C1A0980141A070, .semwGe ⟨⟨2, true, 3⟩, 0x4, 0xc0, 0xa, 0xd, .no, .n64, 0⟩),
   (0x15C1A0980141A071, .semwTake ⟨⟨2, true, 3⟩, 0x4, 0xc0, 0xa, 0xd, .no, .n64, 1⟩),
   (0x15C1C0981801A070, .semrd ⟨⟨2, true, 3⟩, 0x4, 0xc0, 0xc0, 0xd, .no, .n64, 0⟩),
   (0x15C1E0980141AE70, .semset ⟨⟨2, true, 3⟩, 0x4, 0xc0, 0xa, 0xd, .pk, .n64, 0⟩)]

theorem test_decode_atomic : ∀ x ∈ words_atomic, decode x.1 = .ok x.2 := by decide

def words_decayed : List (Word × Instr) :=
  [(0x15C80080E1534AA0, .ldd ⟨⟨2, true, 3⟩, 0x4, 0x7, 0xa, 0x9a5, .f32, .no⟩),
   (0x15C82080E1534A77, .std ⟨⟨2, true, 3⟩, 0x4, 0x7, 0xa, 0x9a5, .n64, .pk⟩),
   (0x15C84080E1580EA0, .atomdAdd ⟨⟨2, true, 3⟩, 0x4, 0x7, 0xa, 0xc0, .pk, .f32, 0⟩),
   (0x15C84080E1580F71, .atomdMrg ⟨⟨2, true, 3⟩, 0x4, 0x7, 0xa, 0xc0, .pk, .dw, 1⟩),
   (0x15C86080E1580A00, .dcvt ⟨⟨2, true, 3⟩, 0x4, 0x7, 0xa, 0xc0, .f32, .rne, false, false, 0⟩),
   (0x15C88090D8180070, .stepadv ⟨⟨2, true, 3⟩, 0x4, 0x86, 0xc0, 0xc0, .no, .n64, 0⟩),
   (0x15C8A09818180700, .steprd ⟨⟨2, true, 3⟩, 0x4, 0xc0, 0xc0, 0xc0, .n64, .rne, false, false, 0⟩)]

theorem test_decode_decayed : ∀ x ∈ words_decayed, decode x.1 = .ok x.2 := by decide

def words_matrix : List (Word × Instr) :=
  [(0x15D01810D8180140, .kdecl ⟨⟨2, true, 3⟩, 0xc0, 0x86, 0xc0, 0xc0, 0, 5, 0, false⟩),
   (0x15D02080E141A153, .mma ⟨⟨2, true, 3⟩, 0x4, 0x7, 0xa, 0xd, 0, 5, 9, true⟩),
   (0x15D04080E141A153, .mmaa ⟨⟨2, true, 3⟩, 0x4, 0x7, 0xa, 0xd, 0, 5, 9, true⟩),
   (0x15D06080E141A141, .vxm ⟨⟨2, true, 3⟩, 0x4, 0x7, 0xa, 0xd, 0, 5, 0, true⟩),
   (0x15D0809818180000, .mzero ⟨⟨2, true, 3⟩, 0x4, 0xc0, 0xc0, 0xc0, 0, 0, 0, false⟩),
   (0x15D0A080E141A000, .mld ⟨⟨2, true, 3⟩, 0x4, 0x7, 0xa, 0xd, 0, 0, 0, false⟩),
   (0x15D0C080E141A000, .mst ⟨⟨2, true, 3⟩, 0x4, 0x7, 0xa, 0xd, 0, 0, 0, false⟩),
   (0x15D0E09818180000, .mrd ⟨⟨2, true, 3⟩, 0x4, 0xc0, 0xc0, 0xc0, 0, 0, 0, false⟩),
   (0x15D10080F8180000, .mwr ⟨⟨2, true, 3⟩, 0x4, 0x7, 0xc0, 0xc0, 0, 0, 0, false⟩),
   (0x15D13810D8180000, .mvbnd ⟨⟨2, true, 3⟩, 0xc0, 0x86, 0xc0, 0xc0, 0, 0, 0, false⟩)]

theorem test_decode_matrix : ∀ x ∈ words_matrix, decode x.1 = .ok x.2 := by decide

def words_engine : List (Word × Instr) :=
  [(0x15D80080E141AE73, .cpy ⟨⟨2, true, 3⟩, 0x4, 0x7, 0xa, 0xd, .pk, .n64, 3⟩),
   (0x15D82080E141AE73, .cpyw ⟨⟨2, true, 3⟩, 0x4, 0x7, 0xa, 0xd, .pk, .n64, 3⟩),
   (0x15D84080E141AE23, .cpyg ⟨⟨2, true, 3⟩, 0x4, 0x7, 0xa, 0xd, .pk, .i32, 3⟩),
   (0x15D86090D8180070, .chn ⟨⟨2, true, 3⟩, 0x4, 0x86, 0xc0, 0xc0, .no, .n64, 0⟩),
   (0x15D88090D8180E70, .qfen ⟨⟨2, true, 3⟩, 0x4, 0x86, 0xc0, 0xc0, .pk, .n64, 0⟩),
   (0x15D8A090D1180E70, .qtail ⟨⟨2, true, 3⟩, 0x4, 0x86, 0x88, 0xc0, .pk, .n64, 0⟩),
   (0x15D8C09818002070, .qpop ⟨⟨2, true, 3⟩, 0x4, 0xc0, 0xc0, 0x1, .no, .n64, 0⟩),
   (0x15D8F800F8002070, .qpush ⟨⟨2, true, 3⟩, 0xc0, 0x7, 0xc0, 0x1, .no, .n64, 0⟩),
   (0x15D9009818180070, .millRd ⟨⟨2, true, 3⟩, 0x4, 0xc0, 0xc0, 0xc0, .no, .n64, 0⟩),
   (0x15D9181818180071, .millClr ⟨⟨2, true, 3⟩, 0xc0, 0xc0, 0xc0, 0xc0, .no, .n64, 1⟩),
   (0x15D92080F8180180, .fwait ⟨⟨2, true, 3⟩, 0x4, 0x7, 0xc0, 0xc0, .no, .wt, 0⟩),
   (0x15D94080F8180180, .ftst ⟨⟨2, true, 3⟩, 0x4, 0x7, 0xc0, 0xc0, .no, .wt, 0⟩),
   (0x15D96080F8180180, .fcan ⟨⟨2, true, 3⟩, 0x4, 0x7, 0xc0, 0xc0, .no, .wt, 0⟩),
   (0x15D98080F8180180, .fmov ⟨⟨2, true, 3⟩, 0x4, 0x7, 0xc0, 0xc0, .no, .wt, 0⟩),
   (0x15D9A080E1580F80, .fst ⟨⟨2, true, 3⟩, 0x4, 0x7, 0xa, 0xc0, .pk, .wt, 0⟩),
   (0x15D9C080F8180180, .fld ⟨⟨2, true, 3⟩, 0x4, 0x7, 0xc0, 0xc0, .no, .wt, 0⟩)]

theorem test_decode_engine : ∀ x ∈ words_engine, decode x.1 = .ok x.2 := by decide

def words_render : List (Word × Instr) :=
  [(0x15E00080E1580071, .trav ⟨⟨2, true, 3⟩, 0x4, 0x7, 0xa, 0xc0, .no, .n64, 1⟩),
   (0x15E02080F1180071, .tvis ⟨⟨2, true, 3⟩, 0x4, 0x7, 0x88, 0xc0, .no, .n64, 1⟩),
   (0x15E0409818180071, .psget ⟨⟨2, true, 3⟩, 0x4, 0xc0, 0xc0, 0xc0, .no, .n64, 1⟩),
   (0x15E07800F8180070, .psput ⟨⟨2, true, 3⟩, 0xc0, 0x7, 0xc0, 0xc0, .no, .n64, 0⟩),
   (0x15E09800F1180070, .psq ⟨⟨2, true, 3⟩, 0xc0, 0x7, 0x88, 0xc0, .no, .n64, 0⟩),
   (0x15E0A09811180071, .psdq ⟨⟨2, true, 3⟩, 0x4, 0xc0, 0x88, 0xc0, .no, .n64, 1⟩),
   (0x15E0C080F1180070, .amp ⟨⟨2, true, 3⟩, 0x4, 0x7, 0x88, 0xc0, .no, .n64, 0⟩),
   (0x15E0E080E1514070, .occq ⟨⟨2, true, 3⟩, 0x4, 0x7, 0xa, 0x8a, .no, .n64, 0⟩),
   (0x15E10080F1180071, .smp ⟨⟨2, true, 3⟩, 0x4, 0x7, 0x88, 0xc0, .no, .n64, 1⟩)]

theorem test_decode_render : ∀ x ∈ words_render, decode x.1 = .ok x.2 := by decide

def words_fabric : List (Word × Instr) :=
  [(0x15E80080E021B273, .send ⟨⟨2, true, 3⟩, 0x4, 0x7, 0x1, 0xd, .lk, .n64, 3⟩),
   (0x15E82080E141B272, .rget ⟨⟨2, true, 3⟩, 0x4, 0x7, 0xa, 0xd, .lk, .n64, 2⟩),
   (0x15E84080E141B272, .rput ⟨⟨2, true, 3⟩, 0x4, 0x7, 0xa, 0xd, .lk, .n64, 2⟩),
   (0x15E86080E141B220, .ratom ⟨⟨2, true, 3⟩, 0x4, 0x7, 0xa, 0xd, .lk, .i32, 0⟩),
   (0x15E88090D801A070, .coll ⟨⟨2, true, 3⟩, 0x4, 0x86, 0xc0, 0xd, .no, .n64, 0⟩),
   (0x15E8B810D1180070, .bkt ⟨⟨2, true, 3⟩, 0xc0, 0x86, 0x88, 0xc0, .no, .n64, 0⟩)]

theorem test_decode_fabric : ∀ x ∈ words_fabric, decode x.1 = .ok x.2 := by decide

def words_control : List (Word × Instr) :=
  [(0x15F0181818012345, .bra ⟨⟨2, true, 3⟩, 0xc0, 0xc0, 0xc0, 0x12345⟩),
   (0x15F03800F8180700, .brx ⟨⟨2, true, 3⟩, 0xc0, 0x7, 0xc0, 0xc0, .n64, .rne, false, false, 0⟩),
   (0x15F0409818012345, .call ⟨⟨2, true, 3⟩, 0x4, 0xc0, 0xc0, 0x12345⟩),
   (0x15F06080F8180700, .calx ⟨⟨2, true, 3⟩, 0x4, 0x7, 0xc0, 0xc0, .n64, .rne, false, false, 0⟩),
   (0x15F09800F8180700, .ret ⟨⟨2, true, 3⟩, 0xc0, 0x7, 0xc0, 0xc0, .n64, .rne, false, false, 0⟩),
   (0x15F0B81818180700, .land ⟨⟨2, true, 3⟩, 0xc0, 0xc0, 0xc0, 0xc0, .n64, .rne, false, false, 0⟩),
   (0x15F0C020F8012345, .hlp ⟨⟨2, true, 3⟩, 0x1, 0x7, 0xc0, 0x12345⟩),
   (0x15F0F81818180700, .exit ⟨⟨2, true, 3⟩, 0xc0, 0xc0, 0xc0, 0xc0, .n64, .rne, false, false, 0⟩),
   (0x15F11810D8180700, .kill ⟨⟨2, true, 3⟩, 0xc0, 0x86, 0xc0, 0xc0, .n64, .rne, false, false, 0⟩),
   (0x15F1381818180703, .bar ⟨⟨2, true, 3⟩, 0xc0, 0xc0, 0xc0, 0xc0, .n64, .rne, false, false, 3⟩),
   (0x15F1581818180703, .barg ⟨⟨2, true, 3⟩, 0xc0, 0xc0, 0xc0, 0xc0, .n64, .rne, false, false, 3⟩),
   (0x15F1781818024687, .nap ⟨⟨2, true, 3⟩, 0xc0, 0xc0, 0xc0, 0x1234, .n64⟩)]

theorem test_decode_control : ∀ x ∈ words_control, decode x.1 = .ok x.2 := by decide

def words_system : List (Word × Instr) :=
  [(0x15F8181818024687, .trap ⟨⟨2, true, 3⟩, 0xc0, 0xc0, 0xc0, 0x1234, .n64⟩),
   (0x15F8381818024687, .brk ⟨⟨2, true, 3⟩, 0xc0, 0xc0, 0xc0, 0x1234, .n64⟩),
   (0x15F8581818180700, .tret ⟨⟨2, true, 3⟩, 0xc0, 0xc0, 0xc0, 0xc0, .n64, .rne, false, false, 0⟩),
   (0x15F8609818000107, .rdsys ⟨⟨2, true, 3⟩, 0x4, 0xc0, 0xc0, 0x8, .n64⟩),
   (0x15F89800F80000A7, .wrsys ⟨⟨2, true, 3⟩, 0xc0, 0x7, 0xc0, 0x5, .n64⟩),
   (0x15F89800F80001A7, .srseedWrite ⟨⟨2, true, 3⟩, 0xc0, 0x7, 0xc0, 0xd, .n64⟩),
   (0x15F89800F80001C7, .dfacWrite ⟨⟨2, true, 3⟩, 0xc0, 0x7, 0xc0, 0xe, .n64⟩),
   (0x15F8A090D8180E70, .tlbiPg ⟨⟨2, true, 3⟩, 0x4, 0x86, 0xc0, 0xc0, .pk, .n64, 0⟩),
   (0x15F8A09818180E71, .tlbiCtx ⟨⟨2, true, 3⟩, 0x4, 0xc0, 0xc0, 0xc0, .pk, .n64, 1⟩),
   (0x15F8D810D801A070, .capw ⟨⟨2, true, 3⟩, 0xc0, 0x86, 0xc0, 0xd, .no, .n64, 0⟩),
   (0x15F8F8181801A070, .capi ⟨⟨2, true, 3⟩, 0xc0, 0xc0, 0xc0, 0xd, .no, .n64, 0⟩)]

theorem test_decode_system : ∀ x ∈ words_system, decode x.1 = .ok x.2 := by decide

def words_pair : List (Word × Instr) :=
  [(0x603B0A0700883484, .pairAdd ⟨2, ⟨.n64, true, 3, 5, false, 7⟩, .add, ⟨.n32, false, 2, 6, true, 0x21⟩⟩),
   (0x60BB0A0700883484, .pairSub ⟨2, ⟨.n64, true, 3, 5, false, 7⟩, .add, ⟨.n32, false, 2, 6, true, 0x21⟩⟩),
   (0x613B0A0700883484, .pairMul ⟨2, ⟨.n64, true, 3, 5, false, 7⟩, .add, ⟨.n32, false, 2, 6, true, 0x21⟩⟩),
   (0x61BB0A0700883484, .pairMin ⟨2, ⟨.n64, true, 3, 5, false, 7⟩, .add, ⟨.n32, false, 2, 6, true, 0x21⟩⟩),
   (0x623B0A0700883484, .pairMax ⟨2, ⟨.n64, true, 3, 5, false, 7⟩, .add, ⟨.n32, false, 2, 6, true, 0x21⟩⟩),
   (0x62BB0A0700883484, .pairAnd ⟨2, ⟨.n64, true, 3, 5, false, 7⟩, .add, ⟨.n32, false, 2, 6, true, 0x21⟩⟩),
   (0x633B0A0700883484, .pairOr ⟨2, ⟨.n64, true, 3, 5, false, 7⟩, .add, ⟨.n32, false, 2, 6, true, 0x21⟩⟩),
   (0x63BB0A0700883484, .pairXor ⟨2, ⟨.n64, true, 3, 5, false, 7⟩, .add, ⟨.n32, false, 2, 6, true, 0x21⟩⟩),
   (0x643B0A0700883484, .pairAndn ⟨2, ⟨.n64, true, 3, 5, false, 7⟩, .add, ⟨.n32, false, 2, 6, true, 0x21⟩⟩),
   (0x64BB0A0700883484, .pairShl ⟨2, ⟨.n64, true, 3, 5, false, 7⟩, .add, ⟨.n32, false, 2, 6, true, 0x21⟩⟩),
   (0x653B0A0700883484, .pairShr ⟨2, ⟨.n64, true, 3, 5, false, 7⟩, .add, ⟨.n32, false, 2, 6, true, 0x21⟩⟩),
   (0x65BB0A0700883484, .pairSar ⟨2, ⟨.n64, true, 3, 5, false, 7⟩, .add, ⟨.n32, false, 2, 6, true, 0x21⟩⟩),
   (0x661B0A0700883484, .pairMov ⟨2, ⟨.i64, true, 3, 5, false, 7⟩, .add, ⟨.n32, false, 2, 6, true, 0x21⟩⟩),
   (0x66FB0A0700883484, .pairFadd ⟨2, ⟨.f64, true, 3, 5, false, 7⟩, .add, ⟨.n32, false, 2, 6, true, 0x21⟩⟩),
   (0x677B0A0700883484, .pairFsub ⟨2, ⟨.f64, true, 3, 5, false, 7⟩, .add, ⟨.n32, false, 2, 6, true, 0x21⟩⟩),
   (0x67FB0A0700883484, .pairFmul ⟨2, ⟨.f64, true, 3, 5, false, 7⟩, .add, ⟨.n32, false, 2, 6, true, 0x21⟩⟩),
   (0x687B0A0700883484, .pairFmin ⟨2, ⟨.f64, true, 3, 5, false, 7⟩, .add, ⟨.n32, false, 2, 6, true, 0x21⟩⟩),
   (0x68FB0A0700883484, .pairFmax ⟨2, ⟨.f64, true, 3, 5, false, 7⟩, .add, ⟨.n32, false, 2, 6, true, 0x21⟩⟩)]

theorem test_decode_pair : ∀ x ∈ words_pair, decode x.1 = .ok x.2 := by decide
-- Every word of the lists above passes the checks of R82 in a warp of three lanes, all in M, and in a lane alone

theorem test_runs_integer : ∀ x ∈ words_integer, base.clear x.2 ∧ base.lanesM x.2 = [0, 1, 2] ∧ solo.clear x.2 ∧ solo.issuing x.2 = [0] ∧ solo.lanesM x.2 = [0] := by decide
theorem test_runs_logic : ∀ x ∈ words_logic, base.clear x.2 ∧ base.lanesM x.2 = [0, 1, 2] ∧ solo.clear x.2 ∧ solo.issuing x.2 = [0] ∧ solo.lanesM x.2 = [0] := by decide
theorem test_runs_predicate : ∀ x ∈ words_predicate, base.clear x.2 ∧ base.lanesM x.2 = [0, 1, 2] ∧ solo.clear x.2 ∧ solo.issuing x.2 = [0] ∧ solo.lanesM x.2 = [0] := by decide
theorem test_runs_floating : ∀ x ∈ words_floating, base.clear x.2 ∧ base.lanesM x.2 = [0, 1, 2] ∧ solo.clear x.2 ∧ solo.issuing x.2 = [0] ∧ solo.lanesM x.2 = [0] := by decide
theorem test_runs_special : ∀ x ∈ words_special, base.clear x.2 ∧ base.lanesM x.2 = [0, 1, 2] ∧ solo.clear x.2 ∧ solo.issuing x.2 = [0] ∧ solo.lanesM x.2 = [0] := by decide
theorem test_runs_lane : ∀ x ∈ words_lane, base.clear x.2 ∧ base.lanesM x.2 = [0, 1, 2] ∧ solo.clear x.2 ∧ solo.issuing x.2 = [0] ∧ solo.lanesM x.2 = [0] := by decide
theorem test_runs_memory : ∀ x ∈ words_memory, base.clear x.2 ∧ base.lanesM x.2 = [0, 1, 2] ∧ solo.clear x.2 ∧ solo.issuing x.2 = [0] ∧ solo.lanesM x.2 = [0] := by decide
theorem test_runs_witness : ∀ x ∈ words_witness, base.clear x.2 ∧ base.lanesM x.2 = [0, 1, 2] ∧ solo.clear x.2 ∧ solo.issuing x.2 = [0] ∧ solo.lanesM x.2 = [0] := by decide
theorem test_runs_atomic : ∀ x ∈ words_atomic, base.clear x.2 ∧ base.lanesM x.2 = [0, 1, 2] ∧ solo.clear x.2 ∧ solo.issuing x.2 = [0] ∧ solo.lanesM x.2 = [0] := by decide
theorem test_runs_decayed : ∀ x ∈ words_decayed, base.clear x.2 ∧ base.lanesM x.2 = [0, 1, 2] ∧ solo.clear x.2 ∧ solo.issuing x.2 = [0] ∧ solo.lanesM x.2 = [0] := by decide
theorem test_runs_matrix : ∀ x ∈ words_matrix, tiled.clear x.2 ∧ tiled.lanesM x.2 = [0, 1, 2] ∧ (one tiled).clear x.2 ∧ (one tiled).issuing x.2 = [0] ∧ (one tiled).lanesM x.2 = [0] := by decide
theorem test_runs_engine : ∀ x ∈ words_engine, base.clear x.2 ∧ base.lanesM x.2 = [0, 1, 2] ∧ solo.clear x.2 ∧ solo.issuing x.2 = [0] ∧ solo.lanesM x.2 = [0] := by decide
theorem test_runs_render : ∀ x ∈ words_render, base.clear x.2 ∧ base.lanesM x.2 = [0, 1, 2] ∧ solo.clear x.2 ∧ solo.issuing x.2 = [0] ∧ solo.lanesM x.2 = [0] := by decide
theorem test_runs_fabric : ∀ x ∈ words_fabric, base.clear x.2 ∧ base.lanesM x.2 = [0, 1, 2] ∧ solo.clear x.2 ∧ solo.issuing x.2 = [0] ∧ solo.lanesM x.2 = [0] := by decide
theorem test_runs_control : ∀ x ∈ words_control, base.clear x.2 ∧ base.lanesM x.2 = [0, 1, 2] ∧ solo.clear x.2 ∧ solo.issuing x.2 = [0] ∧ solo.lanesM x.2 = [0] := by decide
theorem test_runs_pair : ∀ x ∈ words_pair, base.clear x.2 ∧ base.lanesM x.2 = [0, 1, 2] ∧ solo.clear x.2 ∧ solo.issuing x.2 = [0] ∧ solo.lanesM x.2 = [0] := by decide
theorem test_runs_system : ∀ x ∈ words_system, handling.clear x.2 ∧ (one handling).clear x.2 ∧ (one handling).issuing x.2 = [0] ∧ (one handling).lanesM x.2 = [0] := by decide

-- Ill-formed terms (checks 2, 4 and 5 of R82): each breaks one rule of its word, and is well formed without that

def im (d a : BitVec 8) (imm : BitVec 16) (ty : Ty) : Imm := { h := always 0, d := d, a := a, b := 0xC0, imm := imm, ty := ty }
def mx (d a b e : BitVec 8) (k : BitVec 3) (imm5 : BitVec 5) (z : Bool) : Mx := { h := always 0, d := d, a := a, b := b, e := e, acc := 0, k := k, imm5 := imm5, z := z }
def br (d a : BitVec 8) (off : BitVec 21) : Br := { h := always 0, d := d, a := a, b := 0xC0, off := off }
def half (ty : HTy) (d : BitVec 7) (i : Bool) (s : BitVec 8) : Half := { ty := ty, gneg := false, gp := 7, d := d, imm := i, s := s }
def duo (x : HTy) (d : BitVec 7) (o : HOp) (y : HTy) (e : BitVec 7) (i : Bool) (s : BitVec 8) : Pair := { stall := 0, h1 := half x d false 6, op2 := o, h2 := half y e i s }

def refusedTerms : List (Instr × Instr) :=
  [(.add (au 0xC5 5 6 0xC0 .n32), .add (au 4 5 6 0xC0 .n32)), -- D is no constant
   (.add (au 4 5 6 7 .n32), .add (au 4 5 6 0xC0 .n32)), -- C is not used
   (.add (au 4 5 6 0xC0 .f32), .add (au 4 5 6 0xC0 .n32)), -- the type list (R66)
   (.add { au 4 5 6 0xC0 .n32 with opx := 1 }, .add (au 4 5 6 0xC0 .n32)),
   (.add { au 4 5 6 0xC0 .n32 with rm := .rtz }, .add (au 4 5 6 0xC0 .n32)),
   (.mulh { au 4 5 6 0xC0 .n32 with sat := true }, .mulh (au 4 5 6 0xC0 .n32)),
   (.addc (au 127 5 6 7 .n32), .addc (au 126 5 6 7 .n32)), -- D+1 past v127 (R116)
   (.subb (au 191 5 6 7 .n32), .subb (au 190 5 6 7 .n32)),
   (.addImm (im 4 5 0x80 .i8), .addImm (im 4 5 0x7F .i8)), -- no sign extension (R118)
   (.movw (im 4 4 0 .n64), .movw (im 4 3 0 .n64)), -- halfword 4
   (.cmp { au 4 5 6 0xC0 .n32 with opx := 6 }, .cmp { au 4 5 6 0xC0 .n32 with opx := 5 }),
   (.pmov { au 4 5 0xC0 0xC0 .n64 with opx := 4 }, .pmov { au 4 5 0xC0 0xC0 .n64 with opx := 3 }),
   (.plop (au 8 5 6 0xC0 .n64), .plop (au 7 5 6 0xC0 .n64)), -- no predicate 8 (R59)
   (.fadd (au 4 5 6 0xC0 .n32), .fadd (au 4 5 6 0xC0 .f32)),
   (.fexp2 (au 4 5 0xC0 0xC0 .f64), .fexp2 (au 4 5 0xC0 0xC0 .f32)), -- not in f64 (R131)
   (.xfm (au 4 5 184 0xC0 .f32), .xfm (au 4 5 183 0xC0 .f32)), -- nine registers past s63 (R60)
   (.vote { au 4 5 0xC0 0xC0 .n64 with opx := 4 }, .vote { au 4 5 0xC0 0xC0 .n64 with opx := 3 }),
   (.wrln (au 130 5 0xE6 0xC0 .n32), .wrln (au 4 5 0xE6 0xC0 .n32)),
   (.pairAdd (duo .i32 8 .add .i32 8 false 6), .pairAdd (duo .i32 8 .add .i32 9 false 6)), -- one D twice (R72)
   (.pairAnd (duo .f32 8 .mov .i32 9 true 6), .pairAnd (duo .i32 8 .mov .i32 9 true 6)),
   (.ldG (me 4 5 6 8 .n32 .no), .ldG (me 4 5 0xC0 8 .n32 .no)), -- B is not used
   (.ldG (me 4 5 0xC0 8 .q4 .no), .ldG (me 4 5 0xC0 8 .n8 .no)),
   (.stG (me 4 5 6 8 .n32 .no), .stG (me 4 5 6 8 .n32 .ln)), -- a scope is needed
   (.ldwG (me 4 5 6 8 .n32 .di), .ldwG (me 4 5 6 8 .n32 .no)),
   (.pfl (me 0xC0 5 0xC0 0 .n32 .pk), .pfl (me 0xC0 5 0xC0 0 .n32 .di)),
   (.icinv (me 4 5 0xC0 0 .n64 .wp), .icinv (me 4 5 0xC0 0 .n64 .tm)),
   (.spmapUnmap (en 4 0xC0 130 0xC0 .pk .n64 0), .spmapUnmap (en 4 0xC0 130 0xC0 .pk .n64 1)),
   (.wfen (en 4 0xC0 0xC0 0xC0 .no .wt 0), .wfen (en 4 0xC0 0xC0 0xC0 .pk .wt 0)),
   (.atomr (en 4 5 6 0xC0 .pk .n32 8), .atomr (en 4 5 6 0xC0 .pk .n32 0)), -- no cas (R253)
   (.mwait (en 4 5 6 7 .no .n32 0), .mwait (en 4 5 6 130 .no .n32 0)),
   (.semwGe (en 4 0xC0 5 64 .no .n64 0), .semwGe (en 4 0xC0 5 63 .no .n64 0)),
   (.atomdMrg (en 4 5 6 0xC0 .pk .dw 0), .atomdMrg (en 4 5 6 0xC0 .pk .dw 1)),
   (.stepadv (en 4 1 0xC0 0xC0 .no .n64 0), .stepadv (en 4 130 0xC0 0xC0 .no .n64 0)), -- A is uniform or a constant
   (.mma (mx 16 16 5 6 0 0 false), .mma (mx 15 16 5 6 0 0 false)), -- tile 16
   (.mld (mx 1 5 6 7 0 3 false), .mld (mx 1 5 6 7 0 2 false)), -- space 3
   (.cpy (en 4 5 6 7 .pk .n64 4), .cpy (en 4 5 6 7 .pk .n64 3)),
   (.qpop (en 4 0xC0 0xC0 4 .no .n64 0), .qpop (en 4 0xC0 0xC0 3 .no .n64 0)),
   (.fst (en 4 5 6 0xC0 .no .wt 0), .fst (en 4 5 6 0xC0 .pk .wt 0)),
   (.send (en 4 5 0xC0 0 .pk .n64 0), .send (en 4 5 0xC0 0 .lk .n64 0)), -- lk, pd and wd alone
   (.send (en 4 5 0xC0 0 .lk .n64 1), .send (en 4 5 7 0 .lk .n64 1)), -- .nb has a predicate
   (.rput (en 4 5 6 0 .lk .n64 3), .rput (en 4 5 6 0 .lk .n64 2)),
   (.ratom (en 127 5 6 0 .lk .n32 0), .ratom (en 126 5 6 0 .lk .n32 0)),
   (.hlp (br 2 5 9), .hlp (br 1 5 9)),
   (.hlp (br 1 5 0x100000), .hlp (br 1 5 0xFFFFF)), -- it lies ahead (R320)
   (.hlp (br 1 5 0), .hlp (br 1 5 1)),
   (.ret (au 0xC0 0xC1 0xC0 0xC0 .n64), .ret (au 0xC0 5 0xC0 0xC0 .n64)),
   (.rdsys (im 4 0xC0 16 .n64), .rdsys (im 4 0xC0 15 .n64)),
   (.wrsys (im 0xC0 5 0x0E .n64), .dfacWrite (im 0xC0 5 0x0E .n64)),
   (.tlbiPg (en 4 130 0xC0 0xC0 .wp .n64 0), .tlbiPg (en 4 130 0xC0 0xC0 .tm .n64 0))]

theorem test_refused_terms : ∀ x ∈ refusedTerms, x.1.wf = false ∧ x.2.wf = true := by decide

/-- The words that R82, R116, R118 and others call illegal raise cause 1 in handler mode too. -/
theorem test_refused_traps : ∀ x ∈ refusedTerms, (handling.check x.1 [0]).map (·.1) = some 1 := by decide

-- The premises of the statements on words that act in registers (the forms that the lists above do not hold)

def mov128 : Alu := { h := always 0, d := 4, a := 6, b := 0xC0, c := 0xC0, ty := .b128, rm := .rne, sat := false, lo := false, opx := 0 }
theorem test_hyp_mov : base.clear (.mov mov128) ∧ base.lanesM (.mov mov128) = [0, 1, 2] := by decide

/-- Every type and rounding direction; saturation; the low subelement alone. -/
theorem test_hyp_types : ∀ t ∈ [Ty.i8, .i16, .i32, .i64, .n8, .n16, .n32, .n64], ∀ x ∈ intWords (au 4 5 (if t = .i8 then 5 else 6) 0xC0 t), (match x.1 with | .abs _ | .neg _ => true | _ => base.check x.1 [0] == none) = true := by decide
theorem test_hyp_float_forms : ∀ t ∈ [Ty.f16, .bf16, .f32, .f64], ∀ rm ∈ [Rm.rne, .rtz, .rdn, .rup, .rna, .sr], ∀ x ∈ floatWords { au 4 5 0xC0 0xC0 t with rm := rm, sat := true, lo := true }, base.check (match x.1 with | .fadd f => .fadd { f with b := 6 } | .fsub f => .fsub { f with b := 6 } | .fmul f => .fmul { f with b := 6 } | .fdiv f => .fdiv { f with b := 6 } | i => i) [0] = none := by decide

/-- Both kinds of `cvt`: widening and narrowing, with `.hi`. -/
theorem test_hyp_cvt : ∀ x ∈ [(2, Ty.f16), (8, Ty.f64)], ({ au 4 5 0xC0 0xC0 x.2 with c := BitVec.ofNat 8 x.1 } : Alu).cvtSrc.isSome := by decide

/-- Cross-lane words: the whole warp with mask 0, and lanes 0, 2 and the ended lane 31 named by a mask. -/
def masked : State := (([0, 1, 2].map fun l => (l, (0x80000005 : Word))).foldl (fun s (l, v) => s.putReg 0 0 l 134 v {}) base)
theorem test_hyp_gathered : ∀ f ∈ [au 4 5 6 0xE0 .n32, { au 4 5 6 0xE0 .n32 with opx := 1 }, { au 4 5 6 0xE0 .n32 with opx := 2 }, { au 4 5 6 0xE0 .n32 with opx := 3 }], gathered base (.shfl f) f.c f.a := by decide
theorem test_hyp_gathered_masked : let s : State := { masked with cur := { masked.cur with lanes := 5 } }
    members s (.shfl (au 4 5 6 134 .n32)) 134 = 0x80000005 ∧ gathered s (.shfl (au 4 5 6 134 .n32)) 134 5 := by decide
theorem test_hyp_vote : ∀ o ∈ [0, 1, 2], gathered base (.vote { au 4 5 0xC0 0xE0 .n64 with opx := o }) 0xE0 5 := by decide
theorem test_hyp_ballot : gathered base (.vote { au 4 5 0xC0 0xE0 .n64 with opx := 3 }) 0xE0 5 := by decide
theorem test_hyp_reduce : ∀ o ∈ [0, 1, 2, 3, 4, 5], gathered base (.redux { au 4 5 0xC0 0xE0 .n32 with opx := o }) 0xE0 5 ∧ gathered base (.scan { au 4 5 0xC0 0xE0 .i32 with opx := o }) 0xE0 5 := by decide
theorem test_hyp_reduce_float : ∀ o ∈ [0, 1, 2], gathered base (.redux { au 4 5 0xC0 0xE0 .f32 with opx := o }) 0xE0 5 ∧ gathered base (.scan { au 4 5 0xC0 0xE0 .f16 with opx := o }) 0xE0 5 := by decide
theorem test_hyp_scan_exclusive : gathered base (.scan { au 4 5 0xC0 0xE0 .n32 with opx := 6 }) 0xE0 5 := by decide
theorem test_hyp_wrln : let f := au 4 5 0xE1 0xC0 .n64
    base.clear (.wrln f) ∧ base.lanesM (.wrln f) = [0, 1, 2] ∧ (base.lane 0 0 ((base.op64 0 0 0 f.b).toNat % 32)).live = true ∧ base.pendingIn 0 0 1 f.d = false := by decide
theorem test_hyp_rdln : let f := au 4 5 0xE1 0xC0 .n64
    base.passes (.rdln f) ∧ ∀ l ∈ base.lanesM (.rdln f), base.sourceFault 0 0 l ((base.needs (.rdln f) 0 0 l).filter fun r => !((Use.src f.ty 1).regs f.a).contains r) = none ∧ base.pendingIn 0 0 1 f.a = false ∧ base.operandFault 0 0 1 f.a = 0 := by decide
/-- Forms that statements call illegal. -/
theorem test_hyp_illegal_predicates : (∃ f : Alu, f.opx = 7 ∧ f.ty ≠ .n64) ∧ (∃ f : Alu, f.opx = 6 ∧ f.b ≠ 0xC0) := ⟨⟨{ au 4 5 6 0xC0 .n32 with opx := 7 }, by decide⟩, ⟨{ au 4 5 6 0xC0 .n32 with opx := 6 }, by decide⟩⟩
theorem test_hyp_carry_illegal : ¬((127 : Nat) < 192 ∧ (127 : Nat) ≠ 127 ∧ (127 : Nat) ≠ 191) ∧ (126 < 192 ∧ 126 ≠ 127 ∧ 126 ≠ 191) := by decide
theorem test_hyp_immediate : let f := im 4 5 0x80 .i8
    f.ty.width = 8 ∧ ¬(-2 ^ 7 ≤ f.imm.toInt ∧ f.imm.toInt < 2 ^ 7) := by decide
-- The premises of the statements: words that act in registers

theorem alone_of {s : State} {i : Instr} (h : s.clear i ∧ s.issuing i = [0] ∧ s.lanesM i = [0]) : s.Alone i 0 := ⟨h.1, h.2.1, h.2.2⟩

/-- Accesses: aligned, misaligned at an odd register, refused at a page that is not there. -/
theorem test_hyp_access : ∀ x ∈ firstAccess solo (me 4 5 6 8 .n32 .no) (en 4 5 6 0xC0 .pk .n32 0) 0, x.2.2.2.1 % x.2.2.2.2 = 0 := by decide
theorem test_hyp_access_alone : solo.Alone (.ldG (me 4 5 0xC0 8 .n32 .no)) 0 ∧ solo.Alone (.stG (me 4 5 6 8 .n32 .pk)) 0 ∧
    solo.Alone (.atomG (en 4 5 6 0xC0 .pk .n32 0)) 0 ∧ solo.drainFull 0 = false :=
  ⟨alone_of (by decide), alone_of (by decide), alone_of (by decide), by decide⟩
theorem test_hyp_loads_alone : ∀ x ∈ loadWords (me 4 5 6 8 .n32 .no), x.2.2 = true → solo.clear x.1 ∧ solo.issuing x.1 = [0] ∧ solo.lanesM x.1 = [0] := by decide
theorem test_hyp_access_misaligned : let s := State.with_ solo 5 1
    (s.issuing (.ldG (me 4 5 0xC0 0 .n32 .no)) = [0] ∧ s.clear (.ldG (me 4 5 0xC0 0 .n32 .no))) ∧ addrOf s (me 4 5 6 0 .n32 .no) 0 4 % 4 ≠ 0 := by decide
theorem test_hyp_access_fault : (match (placeOf (State.with_ solo 5 0x10000) 0 .g (.ld 4) 0x10000 4).2 with | .error k => k == 0x0B | _ => false) = true := by decide
theorem test_hyp_asked : ∀ a ∈ [Acc.ld 4, .st, .atomic], (match (placeOf solo 0 .g a 32 4).2 with | .ok (y, _) => asked y && y == .hbm 32 | _ => false) = true := by decide
theorem test_hyp_asked_sp : (match (placeOf solo 0 .sp (.ld 4) 32 4).2 with | .ok (y, _) => asked y | _ => false) = true := by decide
theorem test_hyp_wait : (match solo.waitWit 0 0 0 (solo.op64 0 0 0 6) with | .go g => g == solo | _ => false) = true := by decide

/-- A request of lane 0 for bytes at 0x100. -/
def req (op : ReqOp) : Req := { who := ⟨0, 0, 0⟩, lanes := 1, team := 1, own := false, ord := 1, inst := 0, ctx := 0, cls := 2, loc := .hbm 0x100, op := op, dst := some 4, path := none, leaf := 0x7F, join := none, since := 0 }
def asking (op : ReqOp) : State := { base with reqs := [(1, req op)], seq := 2 }

theorem test_hyp_ready : ∀ op ∈ [ReqOp.load .n64, .store (leBytes 8 7) .pk, .atomic 0 .n32 1 0 .pk true, .touch, .lddw .f32, .stdw 0 .pk], (asking op).reqs.find? 1 = some (req op) ∧ (asking op).canPerform (req op) ∧ (asking op).place (req op).loc = .hbm 0x100 ∧ (asking op).pal = [] := by decide
theorem test_hyp_wf : base.wf ∧ (asking (.load .n64)).wf := ⟨⟨by decide, by decide⟩, ⟨by decide, by decide⟩⟩
theorem test_hyp_ready_sp : let r := { req (.load .n64) with loc := .sp 0 0x5FFF8, own := true, team := 1 }
    let s := { base with reqs := [(1, r)], seq := 2 }
    s.canPerform r ∧ s.place r.loc = .sp 0 0x5FFF8 ∧ (∃ t ∈ s.teams, t.1 = 0 ∧ t.2.isOf r.ctx (some (r.team % 65536)) = true) := by decide
theorem test_hyp_team : base.teams.find? 0 = some { nid := 1, nwarp := 1, nreg := 64 } ∧ (base.team 0).key = 1 := by decide
theorem test_hyp_reply : let s : State := { base with replies := [(3, replyOf (req .touch) 1 [(4, 7, {})])] }.setMark 0 0 0 4 { pend := 2 }
    s.replies.find? 3 = some (replyOf (req .touch) 1 [(4, 7, {})]) ∧ (s.lane 0 0 0).live = true ∧ (s.mark 0 0 0 4).pend = 2 := by decide
theorem test_hyp_scratch : base.clear (.ldSp (me 4 5 0xC0 8 .n32 .no)) ∧ base.clear (.ldGs (me 4 5 0xC0 8 .n32 .no)) ∧ base.clear (.stSp (me 4 5 6 8 .n32 .pk)) ∧ base.clear (.stGs (me 4 5 6 8 .n32 .pk)) ∧ base.lanesM (.stGs (me 4 5 6 8 .n32 .pk)) = [0, 1, 2] := by decide
theorem test_hyp_scratch_place : ∀ g ∈ [false, true], ∀ a ∈ [0, 0x5FFF8], (scratchPlace base g a).isSome := by decide
theorem test_hyp_scratch_none : scratchPlace base false 0x60000 = none ∧ scratchPlace base true 0x80000 = none := by decide

-- Premises: stores in two places, cache words, the scratchpad map, witnesses and fences

def page (i : Nat) (leaf : Word) (s : State) : State := { s with mem := s.mem ++ ((leBytes 8 leaf.toNat).zipIdx.filter fun x => x.1 != 0).map fun x => (0x13000 + 8 * i + x.2, x.1) }
def regs (xs : List (Nat × Word)) (s : State) : State := xs.foldl (fun s x => s.putReg 0 0 0 x.1 x.2 {}) s
def hbmAt (r : State × Except Nat (Loc × Word)) (a : Nat) : Bool := match r.2 with | .ok (.hbm x, _) => x == a | _ => false
def placedAt (r : State × Except Nat (Loc × Word)) (x : Loc) : Bool := match r.2 with | .ok (y, _) => y == x | _ => false
def faultsAt (r : State × Except Nat (Loc × Word)) (k : Nat) : Bool := match r.2 with | .error j => j == k | _ => false
theorem whole_of {s : State} {i : Instr} (h : s.clear i ∧ s.issuing i = s.lanesM i ∧ s.lanesM i ≠ []) : Whole s i := h

def stpWord : Mem := me 4 132 6 0 .n32 .pk
def stpState (p q ld : Word) : State := regs [(132, p), (133, q), (134, ld), (6, 9), (7, 0x200000001)] solo
theorem test_hyp_stp : let s := stpState 0x100 0x200 0x400000004
    s.clear (.stp stpWord) ∧ s.issuing (.stp stpWord) = [0] ∧ s.lanesM (.stp stpWord) = [0] := by decide
theorem test_hyp_stp_plain : hbmAt (placeOf (stpState 0x100 0x200 0x400000004) 0 .g .stp 0x118 4) 0x118 = true := by decide
theorem test_hyp_stp_transposed : hbmAt ((placeOf (stpState 0x100 0x200 0x400000004) 0 .g .stp 0x118 4).1.locate 0 true .g .stp 0x224 4) 0x224 = true := by decide
theorem test_hyp_stp_descriptor : let s := stpState 0 0 0x400000000
    s.clear (.stp stpWord) ∧ s.lanesM (.stp stpWord) = [0] := by decide
theorem test_hyp_stp_base : let s := stpState 0x10000000000000 0x10000000000000 0x400000004
    s.clear (.stp stpWord) ∧ s.lanesM (.stp stpWord) = [0] := by decide
theorem test_hyp_stp_fault : let s := stpState 0x10000 0x200 0x400000004
    faultsAt (placeOf s 0 .g .stp 0x10018 4) 0x0B = true := by decide
theorem test_hyp_stp_fault_second : let s := stpState 0x100 0x10000 0x400000004
    faultsAt ((placeOf s 0 .g .stp 0x118 4).1.locate 0 true .g .stp 0x10024 4) 0x0B = true := by decide
/-- One place twice; the copy beside it; two home agents. -/
theorem test_hyp_stp_performs : ∀ y ∈ [0x100, 0x108, 0x500], let op := ReqOp.stp (leBytes 8 7) (.hbm y) .pk 0x7F
    (asking op).reqs.find? 1 = some (req op) ∧ (asking op).canPerform (req op) ∧ (asking op).place (.hbm 0x100) = .hbm 0x100 ∧ (asking op).place (.hbm y) = .hbm y ∧ (y = 0x500 ↔ haOf 0x100 ≠ haOf y) := by decide

theorem test_hyp_cache : ∀ i ∈ [Instr.pfl (me 0xC0 5 0xC0 8 .n32 .di), .cinv (me 0xC0 5 0xC0 8 .n64 .tm), .icinv (me 4 5 0xC0 8 .n64 .di), .cwb (me 4 5 0xC0 8 .n64 .pk)], solo.clear i ∧ solo.issuing i = [0] ∧ solo.lanesM i = [0] := by decide
theorem test_hyp_cache_place : (match placeOf solo 0 .g .cache 8 8 with | (u, .ok (.hbm 8, leaf)) => !leaf.getLsbD 12 && Tab.sortedFrom 0 u.l1 | _ => false) = true := by decide
theorem test_hyp_icinv : inScope 6 0 0x200 = true ∧ inScope 6 0 (0x200 + 191) = true := by decide
theorem test_hyp_cwb : let s := asking (.cwb .pk)
    s.reqs.find? 1 = some (req (.cwb .pk)) ∧ s.canPerform (req (.cwb .pk)) ∧ s.registered 0x100 = none ∧ (req (.cwb .pk)).leaf.getLsbD 12 = false := by decide
theorem test_hyp_writeback : let s := { base with dirty := [(2, true)] }
    s.dirty.get false 2 = true ∧ s.lineTol 2 = none := by decide

/-- `spmap` in three lanes: entry 63 and granule 95; a dirty mapping of that entry. -/
def mapState (fill : Bool) (m : Option MapEnt) : State :=
  regs [(132, mapWord 63 95 fill)] { base with teams := [(0, { nid := 1, nwarp := 1, nreg := 64, map := (m.map fun x => (63, x)).toList })] }
def mapEng (mod : BitVec 4) : Eng := en 4 (if mod = 0 then 133 else 0xC0) 132 0xC0 .pk .n64 mod
theorem test_hyp_spmap : ∀ fill ∈ [false, true], let s := mapState fill none
    s.clear (.spmapMap (mapEng 0)) ∧ s.issuing (.spmapMap (mapEng 0)) = s.lanesM (.spmapMap (mapEng 0)) ∧ (s.lanesM (.spmapMap (mapEng 0))).head? = some 0 ∧ s.op64 0 0 0 132 = mapWord 63 95 fill ∧
    (match placeOf s 0 .g .map (s.op64 0 0 0 133).toNat 4096 with | (u, .ok (.hbm pa, _)) => pa == 0 && u.registered pa == none && u.mons == [] && u.now == s.now && u.teams == s.teams && u.mem.wf && u.sp.wf | _ => false) = true := by decide
theorem test_hyp_spmap_entry : ∀ d ∈ [false, true], let s := mapState false (some { gr := 95, va := 0, pa := 0x1000, dirty := d })
    (s.team 0).map.find? 63 = some { gr := 95, va := 0, pa := 0x1000, dirty := d } ∧
    ∀ i ∈ [Instr.spmapUnmap (mapEng 1), .spmapFlush (mapEng 2), .spmapInval (mapEng 3)], s.clear i ∧ s.issuing i = s.lanesM i ∧ (s.lanesM i).head? = some 0 := by decide

-- Witnesses: null, a point and a frontier that lie ahead, links of this context

def pointAhead : Word := 0x1200000000001770
def frontierAhead : Word := 0x27FFF00000001770
def link : Word := 0x3900010000000007
/-- Connection 1 of context 0, on which nothing is done. -/
def linked (failed : Bool) (s : State) : State := { s with conns := [(1, { opened := true, failed := failed })] }

theorem witness_point : Witness solo 0 pointAhead := .inr (.inl (by decide))
theorem witness_frontier : Witness solo 0 frontierAhead := .inr (.inr (.inl (by decide)))
theorem witness_link (b : Bool) : Witness (linked b solo) 0 link := by
  cases b <;> exact .inr (.inr (.inr (.inl ⟨by decide, by decide, by decide, _, rfl, rfl, by decide⟩)))
theorem test_hyp_witness_satisfied : let s := { solo with ctBase := 64 }
    Satisfied s 0 0 ∧ Satisfied s 0 0x1200000000000000 := ⟨.inl rfl, .inr (.inl ⟨by decide, .inr (by unfold tickAtLeast; decide)⟩)⟩
theorem test_hyp_witness_waits : ¬Satisfied solo 0 pointAhead := by
  rintro (h | ⟨_, h | h⟩ | ⟨h, _⟩ | ⟨h, _⟩)
  · revert h; decide
  · revert h; unfold Expired; decide
  · revert h; unfold tickAtLeast; decide
  · revert h; decide
  · revert h; decide
theorem test_hyp_link_waits (b : Bool) : ¬Satisfied (linked b solo) 0 link ∧ wKind link = 3 ∧ (linked b solo).linkFailed 1 = b ∧ wConn link = 1 := by
  refine ⟨?_, by decide, by cases b <;> decide, by decide⟩
  rintro (h | ⟨h, _⟩ | ⟨h, _⟩ | ⟨_, tc, h, _⟩)
  · revert h; decide
  · revert h; decide
  · revert h; decide
  · rw [show (linked b solo).linkDone (wConn link) (wSeq link) = none from by cases b <;> decide] at h; cases h
theorem not_witness : ¬Witness solo 0 0x1000000000000000 ∧ ¬Witness solo 0 0x7000000000000000 := by
  constructor
  all_goals
    rintro (h | h | h | ⟨h, _⟩ | h)
    all_goals revert h; decide

def wits (a b : Word) (s : State) : State := regs [(5, a), (6, b)] s
theorem test_hyp_wtst : let s := wits 0x1200000000001770 0 solo
    s.opnd 0 0 0 .wt 5 = 0x1200000000001770 ∧ (s.clear (.wtst (au 1 5 0xC0 0xC0 .wt)) ∧ s.issuing (.wtst (au 1 5 0xC0 0xC0 .wt)) = [0] ∧ s.lanesM (.wtst (au 1 5 0xC0 0xC0 .wt)) = [0]) := by decide
theorem test_hyp_wwait : (∀ w ∈ [false, true], let s := wits (if w then 0x1200000000001770 else 0) 0 solo
    s.clear (.wwait (au 0xC0 5 0xC0 0xC0 .wt)) ∧ s.issuing (.wwait (au 0xC0 5 0xC0 0xC0 .wt)) = [0] ∧ s.lanesM (.wwait (au 0xC0 5 0xC0 0xC0 .wt)) = [0]) ∧ wKind 0x1200000000001770 ≠ 0xE := by decide
theorem test_hyp_witness_fault : let s := wits 0x7000000000000000 0x7000000000000000 solo
    s.opnd 0 0 0 .wt 5 = 0x7000000000000000 ∧ s.op64 0 0 0 6 = 0x7000000000000000 := by decide
theorem test_hyp_witness_fault_words : let s := wits 0x7000000000000000 0x7000000000000000 solo
    ∀ i ∈ [Instr.wtst (au 1 5 0xC0 0xC0 .wt), .wwait (au 0xC0 5 0xC0 0xC0 .wt), .wscp (en 4 5 0xC0 0xC0 .pk .wt 0), .wmrg (au 4 5 6 0xC0 .wt), .wmrg (au 4 0xC0 6 0xC0 .wt)], s.clear i ∧ s.issuing i = [0] ∧ s.lanesM i = [0] := by decide
theorem test_hyp_witness_fault_loads : let s := wits 0x7000000000000000 0x7000000000000000 solo
    ∀ i ∈ [Instr.ldwG (me 4 5 6 8 .n32 .no), .ldwSp (me 4 5 6 8 .n32 .no), .ldwGs (me 4 5 6 8 .n32 .no)], s.clear i ∧ s.issuing i = [0] ∧ s.lanesM i = [0] := by decide
theorem test_hyp_merge : let s := wits 0x1200000000001770 0x27FFF00000001770 solo
    s.opnd 0 0 0 .wt 5 = 0x1200000000001770 ∧ s.opnd 0 0 0 .wt 6 = 0x27FFF00000001770 := by decide
theorem test_hyp_merge_alone : let s := wits 0x1200000000001770 0x27FFF00000001770 solo
    s.clear (.wmrg (au 4 5 6 0xC0 .wt)) ∧ s.issuing (.wmrg (au 4 5 6 0xC0 .wt)) = [0] ∧ s.lanesM (.wmrg (au 4 5 6 0xC0 .wt)) = [0] := by decide
/-- A link that is not done beside a point, and in a widening to less than lk. -/
theorem test_hyp_link_needed : let s := wits link pointAhead (linked false solo)
    s.opnd 0 0 0 .wt 5 = link ∧ (wKind link = 3 ∧ s.linkDone (wConn link) (wSeq link) = none) ∧ s.linkFailed (wConn link) = false ∧
    s.clear (.wmrg (au 4 5 6 0xC0 .wt)) ∧ s.lanesM (.wmrg (au 4 5 6 0xC0 .wt)) = [0] ∧ s.clear (.wscp (en 4 5 0xC0 0xC0 .hs .wt 0)) ∧ Scope.hs.code.toNat < 9 := by decide
theorem test_hyp_wscp_link : let s := wits link 0 (linked false solo)
    s.clear (.wscp (en 4 5 0xC0 0xC0 .lk .wt 0)) ∧ s.issuing (.wscp (en 4 5 0xC0 0xC0 .lk .wt 0)) = [0] ∧ ¬Scope.lk.code.toNat < 9 := by decide

def wrote (ws : Tab Nat) (fab : Tab Nat) (s : State) : State := s.modLane 0 0 0 fun x => { x with wrote := ws, fab := fab }
theorem test_hyp_fences : ∀ i ∈ [Instr.lfen (au 0xC0 0xC0 0xC0 0xC0 .n64), .wloc (au 4 5 0xC0 0xC0 .wt), .wfen (en 4 0xC0 0xC0 0xC0 .pk .wt 0)],
    (solo.clear i ∧ solo.issuing i = [0] ∧ solo.lanesM i = [0]) ∧ (let s := one (asking (.load .n64)); s.clear i ∧ s.issuing i = [0] ∧ s.lanesM i = [0] ∧ s.loadsBack 0 0 0 = false) ∧
    let s := one (asking (.store [1] .pk)); s.clear i ∧ s.lanesM i = [0] ∧ s.stamped 0 0 0 = false := by decide
theorem test_hyp_fences_pass : solo.loadsBack 0 0 0 = true ∧ solo.stamped 0 0 0 = true := by decide
theorem test_hyp_wloc : hbmAt (placeOf solo 0 .g .touch 8 1) 8 = true ∧ placedAt (placeOf (page 1 0xF80000000001F7 solo) 0 .g .touch 0x10008 1) (.burzon 8) = true := by decide
/-- Two stamps, of which one lies in the scope. -/
theorem test_hyp_wfen : let s := wrote [(1, 4000), (0x200, 4990)] [] solo
    (s.lane 0 0 0).wrote.filter (fun x => inScope Scope.tm.code.toNat 0 x.1) = [(1, 4000), (0x200, 4990)] ∧ Scope.tm.code.toNat < 9 ∧ (∀ x ∈ (s.lane 0 0 0).wrote, x.2 < 2 ^ 44) ∧ s.stamped 0 0 0 = true ∧
    s.clear (.wfen (en 4 0xC0 0xC0 0xC0 .tm .wt 0)) ∧ s.lanesM (.wfen (en 4 0xC0 0xC0 0xC0 .tm .wt 0)) = [0] := by decide
theorem test_hyp_wfen_links : let s := wrote [] [(1, 7)] (linked false solo)
    s.stamped 0 0 0 = true ∧ 9 ≤ Scope.lk.code.toNat ∧ (s.lane 0 0 0).fab = [(1, 7)] ∧ s.linkDone 1 7 = none ∧ s.linkFailed 1 = false ∧
    s.clear (.wfen (en 4 0xC0 0xC0 0xC0 .lk .wt 0)) ∧ s.lanesM (.wfen (en 4 0xC0 0xC0 0xC0 .lk .wt 0)) = [0] := by decide

-- Premises: semaphores, monitors, closed ticks

def semWord (mod : BitVec 4) : Eng := en 4 (if mod.toNat / 4 = 2 then 132 else 0xC0) 6 (if mod.toNat / 4 = 2 then 0xC0 else 63) .pk .n64 mod
def semState (b j : Word) : State := regs [(6, b), (132, j)] { solo with psemOwner := [(63, 0), (4095, 0)] }
theorem test_hyp_seminc : let s := semState 0x100000000 4095
    ∀ m ∈ [0, 4, 8], s.clear (.seminc (semWord m)) ∧ s.issuing (.seminc (semWord m)) = [0] ∧ s.lanesM (.seminc (semWord m)) = [0] := by decide
theorem test_hyp_seminc_amount : let s := semState 0x100000001 4095
    s.clear (.seminc (semWord 0)) ∧ s.lanesM (.seminc (semWord 0)) = [0] ∧ 2 ^ 32 < (s.op64 0 0 0 6).toNat := by decide
theorem test_hyp_seminc_index : let s := semState 1 4096
    s.clear (.seminc (semWord 8)) ∧ s.lanesM (.seminc (semWord 8)) = [0] ∧ 4096 ≤ (s.op64 0 0 0 132).toNat := by decide
theorem test_hyp_seminc_owner : let s := semState 1 4094
    s.clear (.seminc (semWord 8)) ∧ s.lanesM (.seminc (semWord 8)) = [0] ∧ s.psemOwner.find? 4094 ≠ some (s.team 0).ctx := by decide
theorem test_hyp_selects : let s := semState 1 4095
    selects s (semWord 0) 0 (.core 0 63) ∧ selects s (semWord 4) 0 (.pkg 63) ∧ selects s (semWord 8) 0 (.pkg 4095) :=
  ⟨⟨by decide, rfl, rfl⟩, ⟨by decide, .inl ⟨by decide, by decide⟩⟩, ⟨by decide, .inr ⟨by decide, by decide, by decide⟩⟩⟩
theorem test_hyp_seminc_fence : let s := semState 1 4095
    (s.sem (.core 0 63)).wait = [] ∧ (s.sem (.pkg 4095)).w = 0 ∧ s.stamped 0 0 0 = true ∧ (s.fenceWit 0 0 0 7).isSome := by decide

/-- A semaphore word in three lanes, on semaphore 63; B is 1 in every lane. -/
def semw (b : BitVec 8) (mod : BitVec 4) (sc : Scope) : Eng := en 4 0xC0 b 63 sc .n64 mod
def semTeam (q : Sem) : State := { regs [(134, 1)] base with teams := [(0, { nid := 1, nwarp := 1, nreg := 64, sems := [(63, q)] })] }
theorem test_hyp_semw : ∀ i ∈ [Instr.semwGe (semw 134 0 .no), .semwTake (semw 134 1 .no), .semrd (en 4 0xC0 0xC0 63 .no .n64 0), .semset (semw 134 0 .pk)], let s := semTeam { v := 1 }
    s.clear i ∧ s.issuing i = s.lanesM i ∧ s.lanesM i = [0, 1, 2] := by decide
theorem test_hyp_semw_agree : ∀ v ∈ [0, 1], let s := semTeam { v := v }
    (∀ l ∈ [0, 1, 2], s.op64 0 0 l 134 = 1 ∧ s.op64 0 0 l 0xC0 = s.op64 0 0 0 0xC0) ∧ (s.sem (.core 0 63)).v = v ∧ (s.sem (.core 0 63)).wait = [] ∧ (s.sem (.core 0 63)).w = 0 := by decide
theorem test_hyp_semw_team : residentTeam (semTeam { v := 1 }) 0 ((semTeam { v := 1 }).team 0).key := ⟨_, rfl, rfl, by decide⟩

def semReq (x : Loc) : Req := { req (.store (leBytes 8 5) .pk) with loc := x, own := false }
def semAsked (x : Loc) (q : Sem) : State := { semTeam q with reqs := [(1, semReq x)], seq := 2, psemOwner := [(4095, 0)] }
def queued : Sem := { wait := [{ who := .lanes 0 0 1 1 none, thr := 5, take := true, since := 9 }, { who := .lanes 0 0 1 2 none, thr := 7, take := false, since := 9 }] }
theorem test_hyp_sem_order : let s := semAsked (.sync 0 0x3F0) queued
    s.reqs.find? 1 = some (semReq (.sync 0 (16 * 63))) ∧ s.canPerform (semReq (.sync 0 0x3F0)) ∧ ((s.team 0).sems.get {} 63).wait = queued.wait ∧ s.pal = [] := by decide
theorem test_hyp_sem_order_waiters : let s := semAsked (.sync 0 0x3F0) queued
    ∀ y ∈ queued.wait, ∀ d w key m q, y.who = .lanes d w key m q → residentTeam s d key := by
  intro s y hy d w key m q h
  simp only [queued, List.mem_cons, List.not_mem_nil, or_false] at hy
  rcases hy with rfl | rfl <;> cases h <;> exact ⟨_, rfl, by decide, by decide⟩
theorem test_hyp_sem_stores : ∀ x ∈ [Loc.sync 0 (16 * 63), .sync 0 (0x400 + 8 * 63), .burzon (0x100000 + 32 * 4095), .burzon (0x100000 + 32 * 4095 + 16)], let s := semAsked x {}
    s.reqs.find? 1 = some (semReq x) ∧ s.canPerform (semReq x) ∧ (s.sem (.core 0 63)).wait = [] ∧ (s.sem (.core 0 63)).w = 0 ∧ (s.psems.get {} 4095).wait = [] ∧ (s.psems.get {} 4095).w = 0 := by decide

def mwaitWord (c : BitVec 8) : Eng := en 4 5 6 c .no .n32 0
theorem test_hyp_mwait : ∀ b ∈ [false, true], ∀ c ∈ [0xE0, 0xE1], let s := regs [(5, 0x100), (6, if b then 1 else 0)] solo
    let i := Instr.mwait (mwaitWord (BitVec.ofNat 8 c))
    s.clear i ∧ s.issuing i = [0] ∧ s.lanesM i = [0] := by decide
theorem test_hyp_mwait_place : let s := regs [(5, 0x100), (6, 1)] solo
    (match placeOf s 0 .g (.mwait 4) (s.op64 0 0 0 5).toNat 4 with | (u, .ok (x, _)) => x == .hbm 0x100 && u.place x == .hbm 0x100 && !u.laneBusy 0 0 0 x 4 && leNat (u.bytes x 4) == 0 | _ => false) = true ∧
    (s.op64 0 0 0 0xE0).toNat = 0 ∧ (s.op64 0 0 0 0xE1).toNat = 1 ∧ (s.opnd 0 0 0 .n32 6).toNat = 1 := by decide
theorem test_hyp_mwait_own : let s := regs [(5, 0x100)] (one (asking (.store [1] .pk)))
    (match placeOf s 0 .g (.mwait 4) (s.op64 0 0 0 5).toNat 4 with | (u, .ok (x, _)) => u.laneBusy 0 0 0 x 4 | _ => false) = true := by decide
theorem test_hyp_met : met (mwaitWord 0xE0) 0 0 ∧ ¬met (mwaitWord 0xE0) 0 1 := ⟨rfl, show ¬codeInt .n32 0 = codeInt .n32 1 by decide⟩

def monitor (polled : Bool) : Mon := { who := ⟨0, 0, 0⟩, team := 1, ctx := 0, loc := .hbm 0x100, ty := .n32, cond := 1, b := 0, deadline := 5000, dst := some 4, polled := polled, lastPoll := 4000, value := 0, bad := false, done := none }
def watching (polled : Bool) (s : State) : State := ({ s with mons := [(9, monitor polled)] }).modLane 0 0 0 fun x => { x with park := .monitor 9 }
theorem test_hyp_monitor : let s := watching false (asking (.store (leBytes 4 7) .pk))
    (s.lane 0 0 0).park = .monitor 9 ∧ s.reqs.find? 1 = some (req (.store (leBytes 4 7) .pk)) ∧ s.canPerform (req (.store (leBytes 4 7) .pk)) ∧ s.place (.hbm 0x100) = .hbm 0x100 ∧ waitCond 1 .n32 (leNat (leBytes 4 7)) 0 = true ∧ s.saved = [] := by decide
theorem test_hyp_monitor_deadline : (watching false base).mons.find? 9 = some (monitor false) ∧ (monitor false).deadline ≤ (watching false base).now := by decide
/-- A poll finds 0, and then 7. -/
theorem test_hyp_monitor_poll : let s := watching true base
    (monitor true).lastPoll + 1000 ≤ s.now ∧ waitCond 1 .n32 (leNat (s.bytes (s.place (.hbm 0x100)) 4)) 0 = false := by decide
theorem test_hyp_monitor_poll_met : let s := watching true { base with mem := (0x100, 7) :: tables }
    (monitor true).lastPoll + 1000 ≤ s.now ∧ waitCond 1 .n32 (leNat (s.bytes (s.place (.hbm 0x100)) 4)) 0 = true ∧ (s.lane 0 0 0).park = .monitor 9 := by decide

theorem test_hyp_closed_ticks : let s := { base with now := 64 }
    (∀ a, published s a + 64 ≤ s.now) ∧ s.ctBase + 64 ≤ s.now ∧ Tab.sortedFrom 0 s.ct = true ∧ ({ base with now := 63 } : State).now < published { base with now := 63 } 0 + 64 :=
  ⟨fun _ => Nat.le_refl 64, by decide, by decide, by decide⟩
theorem test_hyp_none_closes : NoneCloses base := ⟨by decide, rfl, rfl, (fun _ h => nomatch h)⟩
-- Premises: decayed words

def decayed (s : State) : State := regs [(5, 0x10000)] (page 1 0x207F s)
theorem test_hyp_decayed : ∀ i ∈ [Instr.ldd (me 4 5 0xC0 0 .f32 .no), .ldd (me 4 5 0xC0 0 .dw .no), .std (me 4 5 6 0 .dw .pk), .std (me 4 5 6 0 .n64 .pk)], let s := decayed solo
    s.clear i ∧ s.issuing i = [0] ∧ s.lanesM i = [0] := by decide
theorem test_hyp_ldd : (match (decayed solo).waitWit 0 0 0 ((decayed solo).opnd 0 0 0 .wt 0xC0) with | .go g => hbmAt (g.locate 0 (g.isUser 0 0 0) .g (.decayed true false) 0x10000 8) 0 | _ => false) = true := by decide
theorem test_hyp_std : hbmAt (placeOf (decayed solo) 0 .g (.decayed false true) 0x10000 8) 0 = true := by decide
theorem test_hyp_ldd_reply : ∀ k ∈ [1, 2], let r : Machine.Reply := { replyOf (req (.lddw .f32)) 1 [(4, 7, {})] with load := true, kind := k }
    let s : State := { base with replies := [(3, r)] }.setMark 0 0 0 4 { pend := 2 }
    s.replies.find? 3 = some r ∧ r.join = none ∧ r.regs = [(4, 7, {})] ∧ (s.lane 0 0 0).live = true ∧ (s.mark 0 0 0 4).pend = r.id + 1 := by decide

def atomd (ty : Ty) (mod : BitVec 4) : Eng := en 4 5 6 0xC0 .pk ty mod
theorem test_hyp_atomd : ∀ i ∈ [Instr.atomdAdd (atomd .f32 0), .atomdMrg (atomd .dw 1)], let s := decayed solo
    s.clear i ∧ s.issuing i = [0] ∧ s.lanesM i = [0] := by decide
theorem test_hyp_atomd_place : let s := { decayed solo with seq := 1 }
    (decayed solo).drainFull 0 = false ∧ (decayed solo).cur.lanes = Mask.one 0 ∧ ((decayed solo).op64 0 0 0 5).toNat % 8 = 0 ∧
    hbmAt (s.locate 0 true .g (.decayed true true) 0x10000 8) 0 = true ∧ (s.locate 0 true .g (.decayed true true) 0x10000 8).1.seq = 1 := by decide
def joined (op : ReqOp) (poison : Tab Bool) : State := { asking op with reqs := [(1, { req op with join := some 0 })], poison := poison }
theorem test_hyp_atomd_performs : ∀ op ∈ [ReqOp.addDw 0x3F800000 .pk, .mrgDw 0x3F800000 .pk], ∀ p ∈ [([] : Tab Bool), [(0x100 / 8, true)]], let s := joined op p
    s.canPerform { req op with join := some 0 } ∧ s.place (.hbm 0x100) = .hbm 0x100 ∧ s.bad (.hbm 0x100) = !p.isEmpty := by decide
theorem test_hyp_atomd_reply : ∀ n ∈ [0, 0x11], let r : Machine.Reply := { replyOf (req (.addDw 0 .pk)) 1 [] with load := true, join := some (0, n) }
    let x : Join := { who := ⟨0, 0, 0⟩, lanes := 1, team := 1, id := 1, dst := none, left := 1, wits := [], hold := true }
    let s : State := { base with replies := [(3, r)], joins := [(0, x)] }.modLane 0 0 0 fun x => { x with park := .replies 0 }
    s.replies.find? 3 = some r ∧ s.joins.find? 0 = some x ∧ x.lanes = Mask.one r.who.lane ∧ (s.lane 0 0 0).live = true ∧ (s.lane 0 0 0).park = .replies 0 := by decide

theorem test_hyp_dcvt : ∀ ty ∈ [Ty.f32, .dw], let i := Instr.dcvt (au 4 5 6 0xC0 ty)
    solo.clear i ∧ solo.issuing i = [0] ∧ solo.lanesM i = [0] := by decide
def advance (n : Word) : State := regs [(132, n)] { base with ctxs := [(0, { live := true, pgroot := 0x10000, step := 0x3FFFFF })], tags := [(2, 0)] }
theorem test_hyp_stepadv : let s := advance 0x100000
    let i := Instr.stepadv (en 4 132 0xC0 0xC0 .no .n64 0)
    s.clear i ∧ s.issuing i = s.lanesM i ∧ (s.lanesM i).head? = some 0 ∧ (s.op64 0 0 0 132).toNat = 2 ^ 20 ∧ s.mons = [] ∧ Tab.sortedFrom 0 s.tags = true := by decide
/-- The step stays below the boundary by 0 and reaches it by 1. -/
theorem test_hyp_stepadv_amounts : (advance 0x100001).op64 0 0 0 132 = 0x100001 ∧ (advance 1).op64 0 0 0 132 = 1 ∧ base.op64 0 0 0 132 = 0 ∧ (0x3FFFFF / 2 ^ 22 + 1) * 2 ^ 22 = 0x3FFFFF + 1 := by decide
def factored (v : Word) (fac : Nat) : State := { regs [(6, v)] solo with teams := [(0, { nid := 1, nwarp := 1, nreg := 64, factab := fac })] }
theorem test_hyp_dfac : ∀ fac ∈ [0, 0x1000], let s := factored 0xFF3F800000 fac
    let i := Instr.dfacWrite (im 0xC0 6 0x0E .n64)
    s.clear i ∧ s.issuing i = s.lanesM i ∧ (s.lanesM i).head? = some 0 ∧ (s.op64 0 0 0 6).toNat = 0xFF3F800000 ∧ (s.team 0).factab = fac := by decide
theorem test_hyp_dfac_bad : ((factored 0x10000000000 0).op64 0 0 0 6).toNat = 2 ^ 40 ∧ one32 < ((factored 0x3F800001 0).op64 0 0 0 6).toNat % 2 ^ 32 := by decide
theorem test_hyp_dfac_place : let s := factored 0xFF3F800000 0x1000
    (match s.enginePlace (some 0) 0 true .st (0x1000 + 4 * 255) 4 with | (u, .ok (.hbm p, _)) => p == 0x13FC && u.registered p == none && u.registered (p + 3) == none && u.mem.wf && u.sp.wf | _ => false) = true := by decide

-- Premises: control

def withWord (a : Nat) (w : Word) (s : State) : State := { s with mem := s.mem.write a (leBytes 8 w.toNat) }
/-- A target that is odd, one that is not mapped, one that holds `land`, one that does not. -/
theorem test_hyp_calx : ∀ i ∈ [Instr.brx (au 0xC0 5 0xC0 0xC0 .n64), .calx (au 4 5 0xC0 0xC0 .n64)], ∀ a ∈ [0x41, 0x40], let s := regs [(5, BitVec.ofNat 64 a)] solo
    s.clear i ∧ s.issuing i = [0] ∧ s.lanesM i = [0] := by decide
theorem test_hyp_target : let s := withWord 0x40 0x15F0B81818180700 solo
    (s.fetchPlace 0 0 0 0x40).2 = some 0x40 ∧ ((s.fetchPlace 0 0 0 0x40).1.wordAt 0 0x40).toNat / 2 ^ 62 = 0 ∧ ((s.fetchPlace 0 0 0 0x40).1.wordAt 0 0x40).toNat / 2 ^ 45 % 2 ^ 10 = 0x385 := by decide
theorem test_hyp_no_target : (solo.fetchPlace 0 0 0 0x10000).2 = none ∧ (solo.fetchPlace 0 0 0 0x40).2 = some 0x40 ∧ ((solo.fetchPlace 0 0 0 0x40).1.wordAt 0 0x40).toNat / 2 ^ 45 % 2 ^ 10 ≠ 0x385 := by decide
def hlpWord (d : BitVec 8) : Br := { h := always 0, d := d, a := 130, b := 0xC0, off := 9 }
theorem test_hyp_hlp : ∀ n ∈ [0, 7], let s := regs [(130, BitVec.ofNat 64 n)] base
    s.clear (.hlp (hlpWord 0)) ∧ s.lanesM (.hlp (hlpWord 1)) = [0, 1, 2] ∧ s.clear (.hlp (hlpWord 1)) := by decide
/-- Both loops end at the word: each count 1 or more, either one the later. -/
theorem test_hyp_loop_end : ∀ m ∈ [1, 5], ∀ n ∈ [1, 5], ∀ b ∈ [false, true], let x : LaneSt := { pc := 64, later := b, lc0 := ⟨BitVec.ofNat 32 m, 8, 64, true⟩, lc1 := ⟨BitVec.ofNat 32 n, 16, 64, true⟩ }
    (x.lc0.active = true ∧ x.lc0.stop = x.pc) ∧ (x.lc1.active = true ∧ x.lc1.stop = x.pc) ∧ x.later = b := by decide
theorem quiet_base : Quiet base 0 := ⟨by decide, by decide, rfl, fun _ => ⟨rfl, rfl⟩⟩
def iced : State := { base with warps := [(0, { bnd := 64, frozen := true })] }
theorem test_hyp_ends : (base.teams.find? 0).isSome ∧ base.clear (.exit (au 0xC0 0xC0 0xC0 0xC0 .n64)) ∧ base.lanesM (.exit (au 0xC0 0xC0 0xC0 0xC0 .n64)) ≠ [] ∧
    (base.warp 0 0).frozen = false ∧ (iced.warp 0 0).frozen = true := by decide
theorem test_hyp_kill : let s := regs [(134, 5)] handling
    s.clear (.kill (au 0xC0 134 0xC0 0xC0 .n64)) ∧ (s.lanesM (.kill (au 0xC0 134 0xC0 0xC0 .n64))).head? = some 0 ∧ named s 0 0 (s.op64 0 0 0 134) = [0, 2] := by decide
theorem test_hyp_nap : ∀ n ∈ [0, 0xFFFF], let i := Instr.nap (im 0xC0 0xC0 (BitVec.ofNat 16 n) .n64)
    base.clear i ∧ base.issuing i = base.lanesM i ∧ base.lanesM i ≠ [] := by decide
theorem test_hyp_nap_expiry : let s := (base.modLane 0 0 0 fun x => { x with park := .nap 5000 }).modLane 0 0 1 fun x => { x with park := .nap 5001 }
    (s.lane 0 0 0).park = .nap 5000 ∧ (s.lane 0 0 1).park = .nap 5001 ∧ (s.lane 0 0 2).park = .none := by decide

def barWord : Alu := { au 0xC0 0xC0 0xC0 0xC0 .n64 with opx := 7 }
/-- Lanes 1 and 2 have arrived, or have not. -/
def arrived (gang : Bool) (s : State) : State := (s.modLane 0 0 1 fun x => { x with park := .bar 7 gang 0 }).modLane 0 0 2 fun x => { x with park := .bar 7 gang 0 }
theorem test_hyp_barrier : ∀ g ∈ [false, true], ∀ s ∈ [solo, arrived g solo], let i := if g then Instr.barg barWord else .bar barWord
    s.clear i ∧ s.issuing i = [0] ∧ s.lanesM i = [0] ∧ s.stamped 0 0 0 = true ∧ (s.gangTeams 0).Nodup ∧ ([0] : List Nat).Nodup ∧ (s.team 0).nwarp ≤ 48 ∧ s.gangTeams 0 = [0] ∧ ⟨0, 0, 0⟩ ∈ s.liveOf [0] ∧ s.fenceWit 0 0 0 6 = some 0 := by decide
theorem test_hyp_barrier_waits : ⟨0, 0, 1⟩ ∈ solo.liveOf [0] ∧ solo.arrival 7 false ⟨0, 0, 1⟩ = none := by decide
theorem test_hyp_barrier_completes : ∀ y ∈ (arrived false solo).liveOf [0], y ≠ ⟨0, 0, 0⟩ → (arrived false solo).arrival 7 false y = some 0 := by decide

-- Premises: traps

/-- The TLB of core 0 holds page 0, in which the warp's record lies at 0. -/
def held (s : State) : State := { s with tlb := [{ at_ := 0, ctx := 0, level := 3, page := 0, leaf := 0x7F, ent := 0x13000 }] }
theorem recordAt_held : RecordAt (held base) (held base) 0 0 0 := ⟨fun r h => ⟨0x7F, by rw [h]; rfl⟩, rfl, fun _ _ => rfl⟩
theorem recordHeld_base : RecordHeld (held base) 0 0 0 := by
  refine ⟨fun r h acc ha => ⟨0x7F, ?_⟩, rfl, fun _ _ => rfl⟩
  rw [h]
  simp only [List.mem_cons, List.not_mem_nil, or_false] at ha
  rcases ha with rfl | rfl <;> rfl
theorem recordHeld_handling : RecordHeld (held handling) 0 0 0 := by
  refine ⟨fun r h acc ha => ⟨0x7F, ?_⟩, rfl, fun _ _ => rfl⟩
  rw [h]
  simp only [List.mem_cons, List.not_mem_nil, or_false] at ha
  rcases ha with rfl | rfl <;> rfl
/-- The TLB holds page 0 without W. -/
def unwritable : State := { held base with tlb := [{ at_ := 0, ctx := 0, level := 3, page := 0, leaf := 0x7B, ent := 0x13000 }] }
theorem test_hyp_record_lost : ∀ r : State, r = { unwritable with lanes := r.lanes, warps := r.warps, cur := r.cur } →
    r.xlate (some 0) (unwritable.team 0).ctx false .st (unwritable.trecOf 0 0) 8 = ({ { unwritable with tlb := [] } with lanes := r.lanes, warps := r.warps, cur := r.cur }, .error 0x0C) := by
  intro r h; rw [h]; rfl
theorem test_hyp_trap_lost : let i := Instr.trap (im 0xC0 0xC0 9 .n64)
    unwritable.clear i ∧ unwritable.issuing i = unwritable.lanesM i ∧ unwritable.lanesM i = [0, 1, 2] ∧ (unwritable.warp 0 0).frozen = false ∧ ∀ l < 32, (unwritable.lane 0 0 l).handler = false := by decide
theorem test_hyp_trap : ∀ i ∈ [Instr.trap (im 0xC0 0xC0 9 .n64), .brk (im 0xC0 0xC0 9 .n64)], ∀ s ∈ [held base, held handling],
    s.clear i ∧ s.issuing i = s.lanesM i ∧ s.lanesM i = [0, 1, 2] ∧ (s.warp 0 0).frozen = false := by decide
theorem test_hyp_trap_modes : (∀ l < 32, ((held base).lane 0 0 l).handler = false) ∧ ((held handling).lane 0 0 0).handler = true := by decide
theorem test_hyp_trap_entry : ((held base).cur.lanes.lanes.filter fun l => ((held base).lane 0 0 l).live && ((held base).lane 0 0 l).park == .none && !((held base).lane 0 0 l).held) ≠ [] := by decide
theorem test_hyp_tret : ∀ s ∈ [held handling, { held handling with cur := { core := 0, slot := 0, lanes := 3, lbp := false, word := 0 } }], let i := Instr.tret (au 0xC0 0xC0 0xC0 0xC0 .n64)
    s.clear i ∧ s.issuing i = s.lanesM i ∧ s.lanesM i ≠ [] ∧ ∀ l ∈ s.lanesM i, s.stamped 0 0 l = true ∧ (s.lane 0 0 l).killed = false := by decide
theorem test_hyp_tret_last : (∀ l < 32, l ∉ [0, 1, 2] → ((held handling).lane 0 0 l).handler = false) ∧ 2 ∉ [0, 1] ∧ ((held handling).lane 0 0 2).handler = true := by decide
theorem quiet_handling : Quiet (held handling) 0 := ⟨by decide, by decide, rfl, fun _ => ⟨rfl, rfl⟩⟩
theorem test_hyp_tret_waits : let s := { held handling with reqs := (asking (.store [1] .pk)).reqs }
    s.stamped 0 0 0 = false ∧ s.clear (.tret (au 0xC0 0xC0 0xC0 0xC0 .n64)) := by decide
/-- The first arrival lies 1,000 ns back, the shortest limit, or 999. -/
def late (now : Nat) : State := { arrived false base with now := now, warps := [(0, { bnd := 64, barto := 0 })], teams := [(0, { nid := 1, nwarp := 1, nreg := 64, bars := [(7, (4000, 0))] })] }
theorem test_hyp_barrier_timeout : ∀ now ∈ [4999, 5000], let s := late now
    let there := (s.liveOf [0]).filter fun y => (s.arrival 7 false y).isSome
    (s.lane 0 0 1).live = true ∧ (s.lane 0 0 1).park = .bar 7 false 0 ∧ ([0].filterMap fun d => ((s.team d).bars.find? 7).map (·.1)).min? = some 4000 ∧ max 1000 (s.warp 0 0).barto = 1000 ∧
    (∀ y ∈ there, y.core = 0 ∧ y.slot = 0 ∧ (s.lane 0 0 y.lane).pc = (s.lane 0 0 1).pc) ∧ ⟨0, 0, 1⟩ ∈ there ∧ there.Nodup := by decide

-- Premises: system registers, capabilities, translations

theorem test_hyp_rdsys : ∀ n ∈ [0, 1, 2, 6, 8, 9, 10, 11, 12, 13, 15], base.clear (.rdsys (im 4 0xC0 (BitVec.ofNat 16 n) .n64)) := by decide
theorem test_hyp_rdsys_handler : ∀ n ∈ [3, 4, 5, 7], handling.clear (.rdsys (im 4 0xC0 (BitVec.ofNat 16 n) .n64)) := by decide
theorem test_hyp_wrsys : ∀ n ∈ [1, 9, 12], ∀ v ∈ [1, 2], let s := regs [(6, BitVec.ofNat 64 v)] base
    let i := Instr.wrsys (im 0xC0 6 (BitVec.ofNat 16 n) .n64)
    s.clear i ∧ s.issuing i = s.lanesM i ∧ (s.lanesM i).head? = some 0 ∧ s.op64 0 0 0 6 = BitVec.ofNat 64 v := by decide
theorem test_hyp_wrsys_handler : ∀ n ∈ [5, 15], let i := Instr.wrsys (im 0xC0 6 (BitVec.ofNat 16 n) .n64)
    handling.clear i ∧ handling.issuing i = handling.lanesM i ∧ (handling.lanesM i).head? = some 0 := by decide
theorem test_hyp_wrsys_barto : ((regs [(6, 0x10000000000)] base).op64 0 0 0 6).toNat = 2 ^ 40 ∧ ((regs [(6, 0xFFFFFFFFFF)] base).op64 0 0 0 6).toNat < 2 ^ 40 := by decide
theorem test_hyp_srseed : let i := Instr.srseedWrite (im 0xC0 6 0x0D .n64)
    base.clear i ∧ base.issuing i = base.lanesM i ∧ (base.lanesM i).head? = some 0 := by decide

/-- A table whose entry 255 allows all accesses to memory; a lane names it, an invalid one, and a mask with bit 13. -/
def capTable : List Word := List.replicate 1020 0 ++ [0x8700000000000000, 0, 0x10000, 0]
def capped (a : Word) : State := { regs [(134, a)] handling with caps := [(1, capTable)] }
theorem test_hyp_cap_table : ((capped 0).caps.get [] 1).length = 1024 ∧ (capOf ((capped 0).capWords 0 1 255)).isSome ∧ capOf ((capped 0).capWords 0 1 254) = none := by decide +kernel
theorem test_hyp_capw : let i := Instr.capw (en 0xC0 134 0xC0 9 .no .n64 0)
    (capped 0x1FFF).clear i ∧ (capped 0x1FFF).issuing i = (capped 0x1FFF).lanesM i ∧ ((capped 0x1FFF).lanesM i).head? = some 0 := by decide
theorem test_hyp_capw_operands : (capped 0x1FFF).op64 0 0 0 134 = 0x1FFF ∧ (capped 0xFE).op64 0 0 0 134 = 0xFE ∧ (capped 0x20FF).op64 0 0 0 134 = 0x20FF := by decide
theorem test_hyp_capi : let i := Instr.capi (en 0xC0 0xC0 0xC0 9 .no .n64 0)
    handling.clear i ∧ handling.issuing i = handling.lanesM i ∧ handling.lanesM i ≠ [] := by decide

theorem test_hyp_tlbi : ∀ i ∈ [Instr.tlbiPg (en 4 134 0xC0 0xC0 .di .n64 0), .tlbiCtx (en 4 0xC0 0xC0 0xC0 .pk .n64 1)], let s := handling
    s.clear i ∧ s.issuing i = s.lanesM i ∧ (s.lanesM i).head? = some 0 ∧ (s.lane 0 0 0).since = 0 ∧ s.inFlight 6 0 (· == 0) s.seq (some 0) = false ∧ s.inFlight 7 0 (· == 0) s.seq none = false := by decide
theorem test_hyp_tlbi_address : (regs [(134, 0x10000000000000)] handling).op64 0 0 0 134 = 0x10000000000000 := by decide
theorem test_hyp_closed : ¬AllClosed handling handling.now ∧ AllClosed { handling with ctBase := 64 } 0 :=
  ⟨fun h => absurd (h 0 (by decide)) (by decide), fun _ _ => by show tickGe (({ handling with ctBase := 64 } : State).ctOf 0) 0 = true; decide⟩
theorem test_hyp_tlbi_waits : ((handling.modLane 0 0 0 fun x => { x with since := 2 * 0 + 1 }).lane 0 0 0).since = 2 * 0 + 1 := by decide
theorem test_hyp_shootdown : ∀ x ∈ [((0x0005000000000000 : Word), 0), (0x4005000000000000, 1), (0x8005000000000000, 2)], x.1.toNat / 2 ^ 60 = 4 * x.2 ∧ x.1.toNat % 2 ^ 48 = 0 := by decide
theorem test_hyp_shootdown_complete : ∀ n ∈ [0, 7], let s : State := { base with shootQ := [(0x4005000000000000, 0), (0, 0)], shootMark := 2 * 0 + 1, shootId := BitVec.ofNat 64 n }
    s.shootQ = [(0x4005000000000000, 0), (0, 0)] ∧ s.shootMark = 2 * 0 + 1 := by decide

-- Premises: the matrix engine

/-- A team with sixteen tiles, a convergence register of its three lanes, a format word f32 x f32 and a B descriptor of 32 columns. -/
def mxState (fw bd : Word) (k : Conv) : State := regs [(134, fw), (135, bd)] { base with teams := [(0, { nid := 1, nwarp := 1, nreg := 64, nacc := 16, kregs := [(5, k)] })] }
def members3 : Conv := { owner := some 0, members := 7 }
def mmaWord : Mx := { h := always 0, d := 1, a := 16, b := 135, e := 134, acc := 2, k := 5, imm5 := 0, z := false }
def fmt32 : FmtWord := { aty := .f32, bty := .f32, act := 0, scm := 0, ovf := false, ie := false, au := false, bu := false, drm := .rne }
def fmt8 : FmtWord := { aty := .i8, bty := .n8, act := 1, scm := 3, ovf := false, ie := false, au := false, bu := false, drm := .rne }

theorem test_hyp_formats : formatOf 0x14A fmt32 ∧ combines fmt32 ∧ describes fmt32 0x20200000000000 32 32 0 := by
  refine ⟨by unfold formatOf; decide, .inl ⟨.inr (by decide), by decide, by decide⟩, by unfold describes; decide⟩
theorem test_hyp_formats_scaled : formatOf 0x3480 fmt8 ∧ combines fmt8 ∧ describes fmt8 0x8001000005FF80 128 1 0x5FF80 := by
  refine ⟨by unfold formatOf; decide, .inr (.inr (.inl ⟨by decide, .inl (by decide)⟩)), by unfold describes; decide⟩
theorem test_hyp_kdecl : ∀ a ∈ [0, 5], ∀ k ∈ [members3, { members3 with signed := 1 }], let s := regs [(134, BitVec.ofNat 64 a)] (mxState 0 0 k)
    let i := Instr.kdecl (mx 0xC0 134 0xC0 0xC0 5 0 false)
    s.clear i ∧ s.issuing i = s.lanesM i ∧ (s.lanesM i).head? = some 0 ∧ (s.op64 0 0 0 134).toNat % 2 ^ 32 = a ∧ ((s.team 0).kregs.get {} 5).signed = k.signed := by decide
/-- The limits of the boundary: the team's registers and tiles, and 128. -/
theorem test_hyp_mvbnd : ∀ a ∈ [64, 65, 128, 129], let s := regs [(134, BitVec.ofNat 64 a)] base
    let i := Instr.mvbnd (mx 0xC0 134 0xC0 0xC0 0 0 false)
    s.clear i ∧ s.issuing i = s.lanesM i ∧ (s.lanesM i).head? = some 0 ∧ (∀ l ∈ s.lanesM i, s.op64 0 0 l 134 = BitVec.ofNat 64 a) ∧ ((s.mx.get [] 0).any (fun o => o.slot == 0) || s.warpPending 0 0) = false := by decide
theorem test_hyp_mvbnd_waits : ((asking (.load .n64)).setMark 0 0 0 4 { pend := 2 }).warpPending 0 0 = true := by decide

theorem test_hyp_sign : ∀ i ∈ [Instr.mma mmaWord, .mmaa { mmaWord with a := 0xC0 }], ∀ m ∈ [7, 15], let s := mxState 0x14A 0x20200000000000 { members3 with members := BitVec.ofNat 32 m }
    s.clear i ∧ s.issuing i = s.lanesM i ∧ s.lanesM i = [0, 1, 2] ∧ (∀ l ∈ s.lanesM i, (s.lane 0 0 l).shadow = [] ∧ s.op64 0 0 l 134 = 0x14A ∧ s.op64 0 0 l 135 = 0x20200000000000) ∧
    ((s.team 0).kregs.get {} 5).owner = some 0 ∧ (∀ l ∈ s.lanesM i, ((s.team 0).kregs.get {} 5).members.getLsbD l = true) ∧ (Mask.ofLanes (s.lanesM i) = ((s.team 0).kregs.get {} 5).members ↔ m = 7) := by decide
theorem test_hyp_sign_allowed : mmaOk mmaWord fmt32 32 [0, 1, 2] ∧ mmaaOk mmaWord fmt32 32 [0, 1, 2] ∧ mmaaOk mmaWord { fmt32 with drm := .sr } 32 [0, 1, 2] := by
  refine ⟨⟨fun _ => rfl, fun h => absurd h (by decide), fun h => absurd h (by decide), fun h => absurd h (by decide)⟩, ?_, ?_⟩
  all_goals exact ⟨by decide, by decide, by decide, by decide, fun h => absurd h (by decide)⟩
theorem test_hyp_sign_refused : let s := one (mxState 0x14A 0x20200000000000 {})
    s.clear (.mma mmaWord) ∧ s.lanesM (.mma mmaWord) = [0] ∧ ((s.team 0).kregs.get {} 5).owner = none := by decide
/-- No tile exists; a range of registers runs past the boundary. -/
theorem test_hyp_matrix_windows : (∀ i ∈ [Instr.mma mmaWord, .mmaa { mmaWord with a := 0xC0 }, .mzero (mx 0 0xC0 0xC0 0xC0 0 0 false), .mwr (mx 0 16 0xC0 0xC0 0 0 false), .mrd (mx 16 0xC0 0xC0 0xC0 0 0 false),
      .mld (mx 0 130 0xC0 0xC0 0 0 false), .mst (mx 4 130 0xC0 0xC0 0 0 false)], solo.lanesM i ≠ [] ∧ i.illegal = none ∧ forbidden (solo.userMode (solo.issuing i)) (encodeNat i) = false) ∧
    ¬mmaWindow solo 0 0 mmaWord 0 ∧ ¬mmaaWindow solo 0 0 mmaWord 0 ∧ ¬tileThere solo 0 0 0 false ∧ Instr.vregsOutside (.mwr (mx 0 60 0xC0 0xC0 0 0 false)) (solo.warp 0 0).bnd = true := by
  unfold mmaWindow mmaaWindow tileThere; decide
def tileState : State := { held base with teams := [(0, { nid := 1, nwarp := 1, nreg := 64, nacc := 16 })] }
def rowWord (a e : BitVec 8) (imm5 : BitVec 5) : Mx := mx 0 a 0xC0 e 0 imm5 false
def enqueued (n : Nat) (o : MxOp) (s : State) : State := { s with mx := [(0, List.replicate n o)] }
def zeroOp (k : MxKind) : MxOp := { slot := 0, lanes := 1, ctx := 0, cls := 2, id := 9, k := k }
/-- The five words; an odd pair; a queue that holds 15 and 16. -/
theorem test_hyp_tiles : ∀ n ∈ [15, 16], let s := enqueued n (zeroOp (.mzero 0)) tileState
    (∀ i ∈ [Instr.mzero (rowWord 0xC0 0xC0 0), .mwr (rowWord 16 0xC0 0), .mrd { rowWord 0xC0 0xC0 0 with d := 16 }, .mld (rowWord 130 0xC0 0), .mst { rowWord 130 0xC0 0 with d := 4 }],
      s.clear i ∧ s.issuing i = s.lanesM i ∧ (s.lanesM i).head? = some 0 ∧ Instr.vregsOutside i (s.warp 0 0).bnd = false) ∧ ((s.mx.get [] 0).length < 16 ↔ n = 15) := by decide
theorem test_hyp_tiles_pair : ∀ i ∈ [Instr.mwr (rowWord 16 0xC0 16), .mrd { rowWord 0xC0 0xC0 16 with d := 16 }, .mld (rowWord 130 0xC0 16), .mst { rowWord 130 0xC0 16 with d := 4 }],
    tileState.clear i ∧ tileState.issuing i = tileState.lanesM i ∧ (tileState.lanesM i).head? = some 0 := by decide
theorem test_hyp_tiles_there : tileThere tileState 0 0 0 false ∧ tileThere tileState 0 0 14 true ∧ ¬tileThere base 0 0 0 false ∧ ¬tileThere tileState 0 0 16 false := by
  unfold tileThere; decide
/-- Raw rows of 128 bytes one after another from 0x1000; formatted rows; a stride below the row and a misaligned row. -/
def rowsFrom (a : Word) (st : Word) : State := regs [(130, a), (131, st)] tileState
theorem test_hyp_rows (acc : Acc) (h : acc ∈ [Acc.ld 128, .st, .tileAdd]) : RowsFound (rowsFrom 0x1000 128) (rowsFrom 0x1000 128) (rowWord 130 0xC0 0) 0 acc 128 128 ((List.range 32).map fun j => (.hbm (0x1000 + 128 * j), 0x7F)) := by
  refine ⟨rfl, fun _ => rowsFrom 0x1000 128, rfl, rfl, fun j hj => ?_⟩
  simp only [List.length_map, List.length_range] at hj
  simp only [List.mem_cons, List.not_mem_nil, or_false] at h
  simp only [List.getElem_map, List.getElem_range]
  have e : ((rowsFrom 0x1000 128).op64 0 0 0 130).toNat = 0x1000 := by decide
  show (rowsFrom 0x1000 128).locate 0 true .g acc ((((rowsFrom 0x1000 128).op64 0 0 0 130).toNat + j * 128) % 2 ^ 64) 128 = _
  rw [e]
  clear e
  rcases h with rfl | rfl | rfl <;> interval_cases j <;> rfl
theorem test_hyp_rows_misaligned : (rowsFrom 0x1004 128).op64 0 0 0 130 = 0x1004 ∧ (rowsFrom 0x1000 64).op64 0 0 0 131 = 64 := by decide
theorem test_hyp_row_format : rowFormat (rowsFrom 0x1000 128) (rowWord 130 0xC0 0) 0 none ∧ rowFormat (mxState 0x14A 0 {}) (rowWord 130 134 0) 0 (some fmt32) := by
  refine ⟨rfl, by decide, ?_⟩
  have h : ((mxState 0x14A 0 {}).op64 0 0 0 134).toNat = 0x14A := by decide
  show formatOf ((mxState 0x14A 0 {}).op64 0 0 0 134).toNat fmt32
  rw [h]; unfold formatOf; decide

/-- The head of the queue of core 0. -/
def heading (o : MxOp) (s : State) : State := { s with mx := [(0, [o, zeroOp (.mzero 3)])] }
theorem test_hyp_head : ∀ k ∈ [MxKind.mzero 1, .mwr 1 [(0, List.replicate 16 5)] false, .mrd 1 16 false, .mld 1 ((List.range 32).map fun j => .hbm (128 * j)) none false [],
      .mst 1 ((List.range 32).map fun j => .hbm (128 * j)) (List.replicate 32 0x7F) (storeMode (rowWord 130 0xC0 4) none) none false [] 0 (some 4),
      .mma 1 2 fmt32 32 32 0 [(0, List.replicate 16 5)] [] 0 0 false, .mmaa 1 2 1 fmt32 32 32 0 [0, 1] [] [] 0 0 false], let s := heading (zeroOp k) tileState
    s.mx.get [] 0 = [zeroOp k, zeroOp (.mzero 3)] ∧ s.mxReady 0 (zeroOp k) = true := by decide
theorem quiet_tiles (o : MxOp) : Quiet (heading o tileState) 0 := ⟨(fun _ h => nomatch (h : _ ∈ [])), (fun _ h => nomatch (h : _ ∈ [])), rfl, fun _ => ⟨rfl, rfl⟩⟩
theorem test_hyp_head_waits : let s := heading (zeroOp (.mld 1 [] none false [])) (asking (.store [1] .pk))
    s.mxReady 0 (zeroOp (.mld 1 [] none false [])) = false := by decide
theorem test_hyp_mrd : let s := (List.range 16).foldl (fun s j => s.setMark 0 0 0 (16 + j) { pend := 10 }) (heading (zeroOp (.mrd 1 16 false)) tileState)
    ∀ l ∈ (zeroOp (.mrd 1 16 false)).lanes.lanes, (s.lane 0 0 l).live = true ∧ ∀ j < 16, (s.mark 0 0 l (16 + j)).pend = 9 + 1 := by decide
theorem test_hyp_row_here : rowHere tileState 0 (.hbm 128) ∧ rowHere tileState 0 (.sp 0 128) := ⟨trivial, ⟨_, rfl, rfl⟩⟩
/-- A row that adds f32 elements stands first at its agent; so does one with a format. -/
def rowReq (m : TileMode) : Req := { req (.tile m [{ loc := .hbm 0x100, vals := List.replicate 32 0x3F800000, draws := [], bad := [] }] .pk) with join := some 9 }
def rowAsked (m : TileMode) : State := { base with reqs := [(1, rowReq m)], seq := 2, joins := [(9, { who := ⟨0, 0, 0⟩, lanes := 1, team := 1, id := 9, dst := some 4, left := 1, wits := [] })] }
theorem test_hyp_row_performs : ∀ E ∈ [none, some fmt32, some fmt8], let m := storeMode (rowWord 130 0xC0 4) E
    (rowAsked m).reqs.find? 1 = some (rowReq m) ∧ (rowAsked m).canPerform (rowReq m) ∧ ((rowAsked m).joins.find? 9).isSome ∧ m.rm = .rne := by decide

/-- `vxm` in a lane alone: pointer 0, or 0x1000. -/
def vxmWord : Mx := { h := always 0, d := 4, a := 24, b := 22, e := 134, acc := 0, k := 2, imm5 := 0, z := false }
def vxmState (p : Word) : State := regs [(134, 0x14A), (22, p)] (held solo)
theorem test_hyp_vxm : ∀ p ∈ [0, 0x1000], let s := vxmState (BitVec.ofNat 64 p)
    s.clear (.vxm vxmWord) ∧ s.issuing (.vxm vxmWord) = [0] ∧ s.lanesM (.vxm vxmWord) = [0] ∧ s.futRoom 0 1 false = true ∧ (s.lane 0 0 0).shadow = [] ∧ s.mx.get [] 0 = [] ∧
    s.op64 0 0 0 134 = 0x14A ∧ (s.op64 0 0 0 22).toNat = p ∧ (∀ r < 17, s.mark 0 0 0 (4 + r) = {}) ∧ 24 + 17 ≤ (s.warp 0 0).bnd := by decide
theorem test_hyp_vxm_rows : ∀ j < 32, (vxmState 0x1000).locate 0 ((vxmState 0x1000).isUser 0 0 0) .g (.ld 128) ((0x1000 + j * 128) % 2 ^ 64) 128 = (vxmState 0x1000, .ok (.hbm (0x1000 + 128 * j), 0x7F)) := by
  intro j hj; interval_cases j <;> rfl
def vxmLane (b : Option (List Loc)) : VxmLane := { lane := 0, f := fmt32, block := b, x := List.replicate 16 0, scale := 0, ys := List.replicate 16 0, fut := { core := 0, ent := 3, gen := 1 } }
def vxmHead (b : Option (List Loc)) : State :=
  (List.range 16).foldl (fun s j => s.setMark 0 0 0 (5 + j) { pend := 10 }) ((heading (zeroOp (.vxm 4 2 0 false [vxmLane b])) { tileState with fut := [(3, { gen := 1, busy := true })] }).modLane 0 0 0 fun x => { x with ppend := [(2, 9)] })
theorem test_hyp_vxm_head : ∀ b ∈ [none, some ((List.range 32).map fun j => Loc.hbm (0x1000 + 128 * j))], let s := vxmHead b
    s.mx.get [] 0 = [zeroOp (.vxm 4 2 0 false [vxmLane b]), zeroOp (.mzero 3)] ∧ s.mxReady 0 (zeroOp (.vxm 4 2 0 false [vxmLane b])) = true ∧ (s.lane 0 0 0).live = true ∧
    (∀ j < 16, (s.mark 0 0 0 (4 + 1 + j)).pend = 9 + 1) ∧ (s.lane 0 0 0).ppend.find? 2 = some 9 ∧ (s.futEnt 0 3).busy = true ∧ (s.futEnt 0 3).gen = 1 := by decide
theorem test_hyp_vxm_block : ∀ j < 32, rowHere (vxmHead none) 0 (.hbm (0x1000 + 128 * j)) ∧ (vxmHead none).badIn ((vxmHead none).place (.hbm (0x1000 + 128 * j))) 128 = false := by
  intro j _; exact ⟨trivial, rfl⟩

-- Premises: copies, fences, queues, the Mill

def foundAll (r : State × Except (Nat × Nat) (List CopyMove)) (n : Nat) : Bool := match r with
  | (u, .ok ms) => ms.length == n && (match u.peersReady 0 (placesOf ms) with | .ok => true | _ => false)
  | _ => false
def copyState (a b n : Nat) : State := regs [(5, BitVec.ofNat 64 a), (6, BitVec.ofNat 64 b), (7, BitVec.ofNat 64 n)] (page 1 0xF0000008000277 solo)
def copyWord (ty : Ty) : Eng := en 4 5 6 7 .pk ty 3
theorem test_hyp_copies : ∀ i ∈ [Instr.cpy (copyWord .n64), .cpyw (copyWord .n64), .cpyg (copyWord .n32)], ∀ n ∈ [0, 13], let s := copyState 0x1000 0x2000 n
    s.clear i ∧ s.issuing i = [0] ∧ s.lanesM i = [0] ∧ (s.op64 0 0 0 7).toNat = n := by decide
theorem test_hyp_copy_long : ((copyState 0x1000 0x2000 0x40000001).op64 0 0 0 7).toNat = 0x40000001 := by decide
theorem test_hyp_copy_limits : (copyWords (copyWord .n64) (2 ^ 30)).map (fun x => (x.2.1, x.2.2.2)) = [(0, false), (1, false), (2, true)] ∧
    (copyWords (copyWord .n64) (2 ^ 30 + 1)).map (fun x => (x.2.1, x.2.2.2)) = [(0, true), (1, true), (2, true)] ∧ (copyWords (copyWord .n32) (2 ^ 20)).map (fun x => (x.2.1, x.2.2.2)) = [(0, false), (1, false), (2, false)] := by decide
/-- 13 bytes to 0x1001: granules of 1, 2, 4, 4, 2 bytes and so on as the destination aligns. -/
theorem test_hyp_copy_found : let s := copyState 0x1001 0x2000 13
    foundAll (s.movesFrom (some 0) 0 (s.isUser 0 0 0) (copyDest 0) 0x1001 (fun o => 0x2000 + o) (granules 13 0x1001 0 13)) (granules 13 0x1001 0 13).length = true := by decide
theorem test_hyp_cpyw_found : let s := copyState 0x10000 0x2000 8
    foundAll (s.movesFrom (some 0) 0 (s.isUser 0 0 0) (copyDest 1) 0x10000 (fun o => 0x2000 + o) (granules 8 0x10000 0 8)) 1 = true ∧ s.futRoom 0 1 true = true := by decide
theorem test_hyp_copy_fault : let s := copyState 0x20000 0x2000 8
    (match s.movesFrom (some 0) 0 (s.isUser 0 0 0) (copyDest 0) 0x20000 (fun o => 0x2000 + o) (granules 8 0x20000 0 8) with | (_, .error (k, a)) => k == 0x0B && a == 0x20000 | _ => false) = true := by decide
theorem test_hyp_copy_source : CopySource (copyState 0x1000 0x2000 8) (copyWord .n64) 0 0 (copyState 0x1000 0x2000 8) (fun o => ((copyState 0x1000 0x2000 8).op64 0 0 0 6).toNat + o) := ⟨rfl, rfl⟩
theorem test_hyp_gather : let s := copyState 0x1000 0x2000 2
    (s.op64 0 0 0 5).toNat % 4 = 0 ∧ (s.op64 0 0 0 6).toNat % 8 = 0 ∧ (match s.placeAll (some 0) 0 true .rawRead [(0x2000, 8), (0x2008, 8)] with
      | (v, .ok ts) => ts.all (fun x => !v.laneBusy 0 0 0 x.1 8) && (v.readPieces 0 ts).1 == List.replicate 16 0 | _ => false) = true := by decide
theorem test_hyp_gather_misaligned : (0x1002 % Ty.n32.bytes ≠ 0) ∧ ((copyState 0x1000 0x2004 2).op64 0 0 0 6).toNat % 8 ≠ 0 := by decide
theorem test_hyp_copy_room : ({ solo with fut := (List.range 256).map fun e => (e, { busy := true, copy := true }) } : State).futRoom 0 1 true = false := by decide +kernel

def copyJob : CopyJob := { who := ⟨0, 0, 0⟩, team := 1, ctx := 0, cls := 2, moves := [{ dst := .hbm 0x1000, leaf := 0x7F, n := 8, src := [(.hbm 0x2000, 0x7F, 8)] }], sem := some (0, 63), sc := .pk, fut := some { core := 0, ent := 3, gen := 1 } }
def copying (js : List CopyJob) : State := { base with cq := [(3, js)], fut := [(3, { gen := 1, busy := true, copy := true })] }
theorem test_hyp_copy_performs : let s := copying [copyJob, copyJob]
    s.cq.get [] (4 * 0 + 3) = [copyJob, copyJob] ∧ s.place (.hbm 0x1000) = .hbm 0x1000 ∧ (s.place (.hbm 0x1000)).agent < 0x800 ∧ (s.sem (.core 0 63)).wait = [] ∧ (s.futEnt 0 3).busy = true ∧ (s.futEnt 0 3).gen % 2 ^ 28 = 1 ∧ (s.sem (.core 0 63)).w = 0 := by decide
theorem test_hyp_copy_rows : rowHere (copying [copyJob]) 0 (.hbm 0x1000) ∧ holdsBytes (.hbm 0x1007) ∧ Holds (copying [copyJob]) { core := 0, ent := 3, gen := 1 } := ⟨trivial, trivial, by decide, by decide⟩

theorem test_hyp_qfen : ∀ m ∈ [0, 1, 31, 32], let s := regs [(134, BitVec.ofNat 64 m)] base
    let i := Instr.qfen (en 4 134 0xC0 0xC0 .pk .n64 0)
    s.clear i ∧ s.issuing i = s.lanesM i ∧ s.lanesM i ≠ [] ∧ (∀ l ∈ s.lanesM i, (s.op64 0 0 l 134).toNat = m) ∧ s.futRoom 0 1 false = true ∧ (s.team 0).mill.length < 16 := by decide
def fenceJob (w : Word) : CopyJob := { copyJob with moves := [], sem := none, fence := some (3, 7), wit := w }
theorem test_hyp_fence : let s : State := { base with cq := [(0, [fenceJob 0]), (1, [fenceJob 0x1200000000000000])], fut := [(3, { gen := 1, busy := true })] }
    (∀ p < 4, (3).testBit p → s.cq.get [] (4 * 0 + p) = [fenceJob (if p = 0 then 0 else 0x1200000000000000)]) ∧ (s.futEnt 0 3).busy = true := by decide
theorem test_hyp_fence_wits : HoldsWit 0 ∧ HoldsWit 0x1200000000000000 := ⟨.inl rfl, .inr (.inl (by decide))⟩

def aqState (n : Nat) : State := { base with teams := [(0, { nid := 1, nwarp := 1, nreg := 64, aq := [(3, { ents := List.replicate n (List.replicate 32 7, List.replicate 32 false) })] })] }
theorem test_hyp_queues : ∀ n ∈ [0, 1, 15, 16], ∀ i ∈ [Instr.qpush (en 0xC0 5 0xC0 3 .no .n64 0), .qpop (en 4 0xC0 0xC0 3 .no .n64 0)], let s := aqState n
    s.clear i ∧ s.issuing i = s.lanesM i ∧ s.lanesM i ≠ [] ∧ ((s.team 0).aq.get {} 3).ents.length = n ∧ (s.team 0).aqWait.get [] 3 = [] := by decide

/-- A chain of one f32 from 0x1000 to 0x2000 that multiplies by constant 0; and its words in memory. -/
def chainWords : List Word := [0x1000, 0x2000, 0, 0xA0A00000001, 1, 0, 0, 0]
def chainDesc : MillDesc := { src := 0x1000, qd := false, dst := 0x2000, scl := 0, count := 1, sty := .f32, dty := .f32, rm := .rne, sat := false, un := false, inf := false, ops := [(1, 0)], cst := [0, 0, 0, 0, 0, 0] }
theorem chainForm_words : ChainForm chainWords chainDesc := by unfold ChainForm dwordBits; decide
theorem chainForm_queue : ChainForm [0x1000, 0x8000000000000003, 0, 0xA0A00000001, 1, 0, 0, 0] { chainDesc with qd := true, dst := 3 } := by unfold ChainForm dwordBits; decide
theorem test_hyp_no_form : ¬∃ d, ChainForm (List.replicate 8 0) d := by
  rintro ⟨d, -, -, -, -, -, -, -, -, -, -, hc, -, -, -, h1, -⟩
  rw [hc] at h1; exact absurd h1 (by decide)
def chnState (a : Word) (ws : List Word) : State := { regs [(134, a)] base with mem := tables.write 0x40 (ws.flatMap fun w => leBytes 8 w.toNat) }
def chnWord : Instr := .chn (en 4 134 0xC0 0xC0 .no .n64 0)
theorem test_hyp_chn : let s := chnState 0x40 chainWords
    s.clear chnWord ∧ s.issuing chnWord = s.lanesM chnWord ∧ (s.lanesM chnWord).head? = some 0 ∧ (s.team 0).mill.length < 16 ∧ s.futRoom 0 1 false = true := by decide
theorem test_hyp_chn_words : (match placeOf (chnState 0x40 chainWords) 0 .g (.ld 64) 0x40 64 with
      | (u, .ok (x, _)) => (List.range 8).map (fun j => BitVec.ofNat 64 (leNat (u.bytes ((u.place x).add (8 * j)) 8))) == chainWords && !u.laneBusy 0 0 0 x 64 | _ => false) = true := by decide
theorem test_hyp_chn_fault : faultsAt (placeOf (chnState 0x20000 chainWords) 0 .g (.ld 64) 0x20000 64) 0x0B = true ∧ faultsAt (placeOf (chnState 0x20 chainWords) 0 .g (.ld 64) 0x20 64) 0x0A = true := by decide
theorem test_hyp_mill_words : ∀ i ∈ [Instr.millRd (en 4 0xC0 0xC0 0xC0 .no .n64 0), .millClr (en 0xC0 0xC0 0xC0 0xC0 .no .n64 1)], base.clear i ∧ base.issuing i = base.lanesM i ∧ base.lanesM i ≠ [] := by decide
def millJob (ws : List Word) : MillJob := { desc := ws, fut := some { core := 0, ent := 3, gen := 1 }, user := true }
def milling (ws : List Word) : State := { base with teams := [(0, { nid := 1, nwarp := 1, nreg := 64, mill := [millJob ws] })], fut := [(3, { gen := 1, busy := true })] }
theorem test_hyp_mill : let s := milling chainWords
    (s.team 0).mill = [millJob chainWords] ∧ (s.team 0).millHalt = 0 ∧ (millJob chainWords).desc.length = 8 ∧ (s.futEnt 0 3).busy = true ∧ s.pal = [] ∧ s.mons = [] ∧ s.saved = [] ∧ (s.teams.find? 0).isSome := by decide
theorem test_hyp_mill_queue : chainDesc.count * chainDesc.dty.width ≤ 2048 ∧ (((milling chainWords).team 0).aq.get {} 3).ents.length < 16 := by decide

-- Premises: handles

/-- Entry 3 of core 0, open or not, with a value of its handle in a register. -/
def handled (busy : Bool) (v : Word) : State := { regs [(5, v)] solo with fut := [(3, { gen := 1, busy := busy })] }
def foreign : Word := 0xE000000030000001
theorem test_hyp_handles : ∀ i ∈ [Instr.fwait (en 4 5 0xC0 0xC0 .no .wt 0), .ftst (en 1 5 0xC0 0xC0 .no .wt 0), .fmov (en 4 5 0xC0 0xC0 .no .wt 0), .fst (en 4 6 5 0xC0 .pk .wt 0), .fld (en 4 6 0xC0 0xC0 .no .wt 0)], ∀ b ∈ [false, true], let s := handled b foreign
    s.clear i ∧ s.issuing i = [0] ∧ s.lanesM i = [0] ∧ s.opnd 0 0 0 .wt 5 = foreign ∧ wKind foreign = 0xE := by decide
theorem test_hyp_work : workOpen (handled true foreign) foreign ∧ ¬workOpen (handled false foreign) foreign := by
  refine ⟨.inl ⟨by decide, by decide, by decide⟩, ?_⟩
  rintro (⟨h, -⟩ | ⟨x, h, -⟩)
  · exact absurd h (by decide)
  · cases (show x ∈ ([] : List Saved) from h)
theorem test_hyp_fwait_fault : let s := handled false 0x7000000000000000
    s.opnd 0 0 0 .wt 5 = 0x7000000000000000 ∧ s.clear (.fwait (en 4 5 0xC0 0xC0 .no .wt 0)) := by decide
theorem test_hyp_fst : hbmAt (placeOf (handled true foreign) 0 .g .st 0 8) 0 = true ∧ hbmAt (placeOf (handled true foreign) 0 .g (.ld 8) 0 8) 0 = true ∧ faultsAt (placeOf (handled true foreign) 0 .g (.ld 8) 0x10000 8) 0x0B = true := by decide
theorem test_hyp_fld : (asking .fld).canPerform (req .fld) ∧ (asking .fld).place (.hbm 0x100) = .hbm 0x100 := by decide
theorem test_hyp_fld_reply : ∀ x ∈ [false, true], let r : Machine.Reply := { replyOf (req .fld) 1 [(4, if x then foreign else 0, {})] with load := true, kind := 3 }
    let s : State := { base with replies := [(3, r)], fut := [(3, { gen := 1, busy := true })] }.setMark 0 0 0 4 { pend := 2 }
    s.replies.find? 3 = some r ∧ (s.lane 0 0 0).live = true ∧ (s.mark 0 0 0 4).pend = r.id + 1 := by decide
theorem test_hyp_resolve : let s : State := { base with fut := [(3, { gen := 1, busy := true, result := some (0, 0, 0) })] }.setMark 0 0 0 4 { fut := some { core := 0, ent := 3, gen := 1 } }
    (s.futEnt 0 3).busy = true ∧ (s.futEnt 0 3).result = some (0, 0, 0) ∧ (s.futEnt 0 4).result = none ∧ (s.marks.map (·.1)).Nodup ∧ (s.umarks.map (·.1)).Nodup ∧ s.saved = [] := by decide
theorem test_hyp_fcan : ∀ st ∈ [false, true], ∀ m ∈ [none, some ({ core := 0, ent := 3, gen := 1 } : FutRef)], let s : State := { solo with fut := [(3, { gen := 1, busy := true, started := st })] }.setMark 0 0 0 5 { fut := m }
    let i := Instr.fcan (en 1 5 0xC0 0xC0 .no .wt 0)
    s.clear i ∧ s.issuing i = [0] ∧ s.lanesM i = [0] ∧ (s.mark 0 0 0 5).fut = m ∧ (s.futEnt 0 3).busy = true ∧ (s.futEnt 0 3).started = st ∧ (s.futEnt 0 3).result = none ∧ s.mx = [] := by decide

def tailState (k b : Nat) : State := { regs [(134, BitVec.ofNat 64 k), (135, BitVec.ofNat 64 b)] base with chains := [(254, { ctl := 1 }), (255, { tail := 5 })] }
def qtailWord : Instr := .qtail (en 4 134 135 0xC0 .pk .n64 0)
/-- The last chain, one of another context, and number 256; a TAIL that falls, stays, rises by 2^20 and by more. -/
theorem test_hyp_qtail : ∀ x ∈ [(254, 0), (256, 0), (255, 4), (255, 5), (255, 5 + 2 ^ 20), (255, 6 + 2 ^ 20)], let s := tailState x.1 x.2
    s.clear qtailWord ∧ s.issuing qtailWord = s.lanesM qtailWord ∧ (s.lanesM qtailWord).head? = some 0 ∧ (s.op64 0 0 0 134).toNat = x.1 ∧ (s.op64 0 0 0 135).toNat = x.2 ∧
    s.stamped 0 0 0 = true ∧ s.fenceWit 0 0 0 7 = some 0 ∧ ((s.chains.get {} 255).ctl.toNat % 2 ^ 12 = (s.team 0).ctx) ∧ (s.chains.get {} 254).ctl.toNat % 2 ^ 12 ≠ (s.team 0).ctx := by decide

-- Premises: command chains

/-- Chain 255 at unit `unit` of segment 0x1000, with one entry open, and one in progress. -/
def chained (x : Chain) (s : State) : State := { s with chains := [(255, x)] }
def open1 (ctl : Word) (unit : Nat) : Chain := { seg := 0x1000, tail := 1, ctl := ctl, unit := unit }
theorem test_hyp_chain_control : ∀ b ∈ [false, true], let s := chained (open1 (if b then 0x8000000000000000 else 0) 0) base
    ((s.chains.get {} 255).ctl.getLsbD 63 = true ∧ (s.chains.get {} 255).ctl.getLsbD 62 = false) ↔ b = true := by decide
theorem test_hyp_may_start (u : Nat) (s : State) : mayStart (chained (open1 0x8000000000000000 u) s) 255 := by
  refine ⟨by decide, ⟨(by decide : (0x8000000000000000 : Word).getLsbD 63 = true), (by decide : (0x8000000000000000 : Word).getLsbD 62 = false), rfl, Nat.le_refl 1, fun g hg => by cases hg⟩, ?_⟩
  intro j hj _ _ hlt
  have e : j = 255 := by simpa [chained] using hj
  subst e; exact absurd hlt (Nat.lt_irrefl _)
theorem test_hyp_may_not_start : ¬mayStart (chained (open1 0 0) base) 255 := by
  rintro ⟨-, ⟨h, -⟩, -⟩; exact absurd h (by decide)
def entryBytes (ws : List Word) (s : State) : State := { s with mem := tables.write 0x1000 (ws.flatMap fun w => leBytes 8 w.toNat) }
theorem test_hyp_chain_words : let s := chained (open1 0x8000000000000000 0) base
    (match s.placeAll none 0 true (.ld 8) ((List.range 8).map fun j => (0x1000 + 8 * j, 8)) with | (_, .ok xs) => xs.map (·.1) == (List.range 8).map fun j => .hbm (0x1000 + 8 * j) | _ => false) = true := by decide
theorem test_hyp_chain_places (y : Nat) : rowHere (chained (open1 0 0) base) 0 (.hbm y) ∧ ∀ i < 8, holdsBytes (((chained (open1 0 0) base).place (.hbm y)).add i) := ⟨trivial, fun _ _ => trivial⟩
/-- Entries that pass their tests: each operation, at its limits. -/
def goodEntries : List (List Word) :=
  [[0x0010000000000000, 0, 0, 0, 0, 0, 0, 0], [0x0110000000000000, 1, 2, 0x40000000, 0, 0, 0, 0], [0x0210000000000000, 8, 5, 8, 0, 0, 0, 0],
   [0x0310000000000000, 4, 8, 0x600100000, 0, 0, 0, 0], [0x0410000000000000, 4095, 0x100000000, 0, 0, 0, 0, 0], [0x0510000000000000, 4095, 9, 0, 0, 0, 0, 0],
   [0x0610000000000000, 255, 9, 0, 0, 0, 0, 0], [0x0830000000000000, 0, 0, 0, 0, 0, 0, 0]]
/-- Entries that fail, with the cause: operation 7, a wrong length, LINK not at the last place, LINK to no page, the class, a reserved bit,
lengths and counts above their limits, a semaphore of another context. -/
def badEntries : List (List Word × Nat) :=
  [([0x0710000000000000, 0, 0, 0, 0, 0, 0, 0], 1), ([0x0020000000000000, 0, 0, 0, 0, 0, 0, 0], 2), ([0x0F10000000000000, 0x1000, 0, 0, 0, 0, 0, 0], 4),
   ([0x0010000000000001, 0, 0, 0, 0, 0, 0, 0], 8), ([0x0110000000000000, 1, 2, 0x40000001, 0, 0, 0, 0], 8), ([0x0110000000000000, 1, 2, 0, 0, 0, 0, 0], 8),
   ([0x0210000000000000, 4, 5, 8, 0, 0, 0, 0], 8), ([0x0410000000000000, 4096, 1, 0, 0, 0, 0, 0], 8), ([0x0410000000000000, 4094, 1, 0, 0, 0, 0, 0], 6)]
def tested : State := { base with psemOwner := [(4095, 0)] }
theorem test_hyp_entries_pass : ∀ ws ∈ goodEntries, (entryTests tested (open1 0 0) ws).find? (·.1) = none := by decide
theorem test_hyp_entries_fail : ∀ x ∈ badEntries, ((entryTests tested (open1 0 0) x.1).find? (·.1)).map (·.2) = some x.2 := by decide
theorem test_hyp_link : (entryTests tested (open1 0 63) [0x0F10000000000000, 0x1000, 0, 0, 0, 0, 0, 0]).find? (·.1) = none ∧
    ((entryTests tested (open1 0 63) [0x0830000000000000, 0, 0, 0, 0, 0, 0, 0]).find? (·.1)).map (·.2) = some 3 ∧
    ((entryTests tested (open1 0x0001000000000000 0) [0x0010000000000000, 0, 0, 0, 0, 0, 0, 0]).find? (·.1)).map (·.2) = some 7 := by decide
theorem test_hyp_in_progress (ws : List Word) (op : Nat) (h : dwordBits ws 0 63 56 = op) : InProgress (chained { open1 0 0 with cur := some (ws, 0x1000) } base) 255 op ws :=
  ⟨by decide, ⟨0x1000, rfl⟩, rfl, h, (by decide : (0 : Word).getLsbD 62 = false)⟩
theorem test_hyp_ops : goodEntries.map (fun ws => dwordBits ws 0 63 56) = [0, 1, 2, 3, 4, 5, 6, 8] := by decide
theorem test_hyp_chain_copy : (match base.movesFrom none 0 true (fun _ => true) 0x1001 (fun o => 0x2000 + o) (granules 5 0x1001 0 5) with | (_, .ok ms) => decide (ms ≠ []) | _ => false) = true ∧
    (match base.movesFrom none 0 true (fun _ => true) 0x10000 (fun o => 0x2000 + o) (granules 5 0x10000 0 5) with | (_, .error (k, _)) => k == 0x0B | _ => false) = true := by decide
theorem test_hyp_chain_gather : (Ty.ofCode (0x600000002 / 2 ^ 32 % 2 ^ 5)).map (·.bytes) = some 4 ∧
    (match base.placeAll none 0 true .rawRead ((List.range 2).map fun j => (0x2000 + 8 * j, 8)) with | (_, .ok xs) => xs.length == 2 | _ => false) = true := by decide
theorem test_hyp_seminc_entry : (base.psems.get {} 4095).wait = [] ∧ (base.psems.get {} 4095).v < 9 ∧ HoldsWit (base.psems.get {} 4095).w ∧ HoldsWit (open1 0 0).prior := ⟨rfl, by decide, .inl rfl, .inl rfl⟩
theorem test_hyp_wait_met : ∀ g ∈ [false, true], let x : Chain := { open1 0 0 with cur := some ([0x0510000000000000, 4095, 9, 0, 0, 0, 0, 0], 0x1000), waiting := true, got := g }
    base.satisfied x.wit 0 = true ∧ x.waiting = true ∧ x.got = g := by decide
theorem test_hyp_waitseq : let s : State := { base with chains := [(3, { done := 9 }), (255, { open1 0 0 with cur := some ([0x0610000000000000, 3, 9, 0, 0, 0, 0, 0], 0x1000), waiting := true })] }
    9 ≤ (s.chains.get {} 3).done ∧ (s.chains.get {} 3).done < 10 := by decide
/-- A performed entry that stores DONE, raises semaphore 4095 and sends its message; one that does none of that. -/
def doneEntry (w0 : Word) (seqa : Nat) : Chain := { open1 0 0 with cur := some ([w0, 0, 0, 0, 0, 0, 0, 0], 0x1000), curDone := true, seqa := seqa }
theorem test_hyp_completes : ∀ b ∈ [false, true], let x := doneEntry (if b then 0x00100000FFFC0000 else 0x0010000000000000) (if b then 0x3000 else 0)
    x.curDone = true ∧ x.shut.links = [] ∧ x.shut.agents = [] ∧ x.errAt = none ∧ x.seqAt = none ∧ (dwordBits [if b then 0x00100000FFFC0000 else 0x0010000000000000] 0 19 19 = 1 ↔ b = true) ∧
    (match (chained x base).placeAll none 0 true .rawWrite [(0x3000, 8)] with | (_, .ok xs) => xs.map (·.1) == [.hbm 0x3000] | _ => false) = true := by decide
/-- Writes of this tick at HA 3, which are open; HA 3 has published the tick before. -/
def writesNow : Opened := { tick := 5000, agents := [3] }
def shutState (n : Nat) : State := { base with ct := [(3, n)] }
theorem test_hyp_shut : Shut (shutState 5000) { writesNow with tick := 4999 } ∧ ¬Shut (shutState 5000) writesNow :=
  ⟨fun a h => by rw [List.mem_singleton.1 h]; unfold tickAtLeast; decide, fun h => absurd (h 3 (.head _)) (by unfold tickAtLeast; decide)⟩
theorem test_hyp_chain_waits_closed : let x := doneEntry 0x00100000FFFC0000 0x3000
    ({ x with shut := writesNow }).shut.links = [] ∧ ({ x with seqAt := some writesNow } : Chain).cur.isSome ∧ HoldsWit ({ x with seqAt := some writesNow } : Chain).wit ∧
    ({ x with errAt := some writesNow } : Chain).seqAt = none ∧ writesNow.links = [] := ⟨rfl, rfl, .inl rfl, rfl, rfl⟩
theorem test_hyp_none_behind : NoneBehind 255 { base with psems := [(9, { wait := [{ who := .chain 255, thr := 1, take := false, since := 5 }] })] } := by
  refine ⟨by decide, fun j _ y hy => ?_⟩
  unfold Tab.get at hy
  by_cases h : j = 9
  · subst h; exact (List.mem_singleton.1 hy) ▸ rfl
  · exact absurd hy (by simp [Tab.find?, Ne.symm h])
theorem test_hyp_completes_not : (open1 0 0).curDone = false ∧ HoldsWit (doneEntry 0 0).wit := ⟨rfl, .inl rfl⟩
theorem test_hyp_erra : (match base.placeAll none 0 true .rawWrite ((List.range 4).map fun j => (0x4000 + 8 * j, 8)) with | (_, .ok xs) => xs.length == 4 | _ => false) = true ∧
    (match base.placeAll none 0 true .rawWrite ((List.range 4).map fun j => (0x10000 + 8 * j, 8)) with | (_, .error (k, _)) => k == 0x0B | _ => false) = true := by decide

-- Premises: the graph scheduler

/-- A compute node of one team, class 0; a node of 64 by 8 cores; an engine node. Nothing follows them. -/
def desc (w0 w3 : Word) : List Word := [w0, 0xFFFFFFFFFFFFFFFF, 8, w3, 0, 0, 0, 0, 0, 0, 0, 0, 0, 0, 0, 0]
def node (w0 w3 : Word) : Node := { ctx := 0, nid := 1, desc := desc w0 w3, chain := 255, count := 0, phase := 1, readyAt := 1000 }
def small : Word := 0x1001000
def wide : Word := 0x100101E
theorem nodeForm_small : NodeForm (desc 1 small) := by unfold NodeForm dwordBits; decide
theorem nodeForm_wide : NodeForm (desc 1 wide) := by unfold NodeForm dwordBits; decide
/-- The limits: 16 warps of 128 registers, 512 cores, gangs of 16 by 8, NID 65534. -/
theorem test_hyp_node_form : NodeForm (desc 0xFFFE (16 * 2 ^ 12 + 128 * 2 ^ 18 + 5 + 8 * 4 + 64 * 4 + 512 * 3)) ∧ NodeForm (desc 0x8000000000000001 0) := by unfold NodeForm dwordBits; decide
theorem test_hyp_bad_node : ¬NodeForm (desc 0xFFFF small) ∧ ¬NodeForm (desc 1 0) :=
  ⟨fun h => h.2.2.2.2.1 (by decide), fun h => absurd h.2.2.2.2.2.2.2.2.2.2.2.2.2 (by unfold dwordBits; decide)⟩
theorem fits_small : Fits base 1 1 1 0 0 ∧ Fits base 1 1 1 63 23 := by unfold Fits; decide
theorem fits_wide : ∀ y ∈ [0, 8, 16], Fits base 64 8 1 0 y := by
  intro y hy; fin_cases hy <;> exact ⟨by decide, by decide, by decide, by decide, fun _ _ _ _ => rfl, by decide⟩
theorem test_hyp_submission : ¬Refused base 0 (desc 1 small) ∧ (desc 1 small).length = 16 ∧ dwordBits (desc 1 small) 11 3 0 = 0 ∧ dwordBits (desc 1 small) 0 59 59 = 0 ∧ dwordBits (desc 1 small) 0 47 32 - base.heldDec.get 0 1 = 0 := by
  refine ⟨?_, by decide, by decide, by decide, by decide⟩
  rintro (h | h | h | h | h | ⟨-, h⟩ | ⟨h, -⟩)
  · exact h nodeForm_small
  · revert h; decide
  · revert h; decide
  · revert h; decide
  · revert h; decide
  · exact h 0 0 fits_small.1
  · revert h; decide
theorem test_hyp_submission_counts : dwordBits (desc 0x100000001 small) 0 47 32 - base.heldDec.get 0 1 = 1 := by decide
theorem test_hyp_submission_refused : Refused { base with ctxs := [] } 0 (desc 1 small) ∧ Refused { base with nodes := [(1, node 1 small)] } 0 (desc 1 small) := ⟨.inr (.inl rfl), .inr (.inr (.inr (.inl rfl)))⟩

/-- One ready node in a machine without teams. -/
def ready (n : Node) (teams : Tab TeamSt) : State := { State.reset with now := 5000, mem := tables, ctxs := [(0, { live := true, pgroot := 0x10000 })], nodes := [(1, n)], ready := [1], teams := teams, lead := 8 }
theorem test_hyp_dispatch : let s := ready (node 1 small) []
    s.nodes.find? 1 = some (node 1 small) ∧ s.heldBack 1 (node 1 small) = false ∧ s.aheadFree 1 = false ∧ s.returnsFirst (dwordBits (desc 1 small) 0 61 60) = false ∧ s.capsRoom 1 = true ∧ (node 1 small).tiles = [] ∧ s.drains = [] := by decide
theorem score_untiled (s : State) (n : Node) (h : n.tiles = []) (o p : Nat × Nat) : s.score n o = s.score n p := by simp [State.score, h]
theorem test_hyp_dispatch_best (x y : Nat) : (ready (node 1 small) []).score (node 1 small) (x, y) = (ready (node 1 small) []).score (node 1 small) (0, 0) := score_untiled _ _ rfl _ _
/-- Teams on one core of each origin of the wide node, of class 0 or 3. -/
def blocking (cls : Nat) : Tab TeamSt := [coreAt 0 0, coreAt 0 8, coreAt 0 16].map fun c => (c, { nid := 9, nwarp := 1, cls := cls })
theorem test_hyp_dispatch_full (x y : Nat) (h : Fits (ready (node 1 wide) (blocking 0)) 64 8 1 x y) : x = 0 ∧ (y = 0 ∨ y = 8 ∨ y = 16) := by
  obtain ⟨h1, h2, h3, h4, -⟩ := h; omega
theorem test_hyp_dispatch_taken : ∀ y ∈ [0, 8, 16], ((ready (node 1 wide) (blocking 0)).teams.find? (coreAt 0 y)).isSome ∧
    ¬(0 < (((ready (node 1 wide) (blocking 0)).teams.find? (coreAt 0 y)).map (·.cls)).getD 3) ∧ 0 < (((ready (node 1 wide) (blocking 3)).teams.find? (coreAt 0 y)).map (·.cls)).getD 0 := by decide
theorem test_hyp_engine_node : let s := ready (node 0x8000000000000001 0) []
    dwordBits (desc 0x8000000000000001 0) 0 63 62 = 2 ∧ s.pool_.head? = some 1 ∧ s.lead.getLsbD 3 = true := by decide
def savedTeam : Saved := { core := 5, team := { nid := 1, nwarp := 1 }, img := { pool := [(5 * 65536, 7)], lanes := [(5 * 2048, { live := true, park := .sem })] }, swapped := false, queued := true, at_ := 9 }
theorem test_hyp_return : let s := { ready { node 1 small with phase := 2 } [] with saved := [savedTeam], ready := [] }
    s.saved = [savedTeam] ∧ savedTeam.team.key = 1 ∧ savedTeam.team.gw = 1 ∧ savedTeam.team.gh = 1 ∧ s.teams.find? 5 = none ∧ s.mons = [] ∧ s.lanes = [] ∧ (savedTeam.img.pool.map (·.1)).Nodup := by decide

/-- A node whose team has ended, with a semaphore and two successors, one live and one not yet. -/
def finishing : Node := { node 1 small with desc := [1, 0xFFFFFFFF00030002, 8, small, 0, 0, 0, 0, 0, 0x1FFF, 0, 0, 0, 0, 0, 0], phase := 2 }
def finished (left : Nat) (e : Bool) : State := { base with teams := [(0, { nid := 1, nwarp := 1, nreg := 64, ended := e })], nodes := [(1, { finishing with left := left }), (2, { node 2 small with nid := 2, phase := 0, count := 2 })] }
theorem test_hyp_team_end : ∀ e ∈ [false, true], let s := finished 1 e
    (s.team 0).ended = e ∧ s.teamBusy 0 (s.team 0).key = false ∧ (s.team 0).key = 1 ∧ (s.nodes.find? 1).isSome ∧ (s.team 0).map = [] ∧ (s.team 0).mill = [] := by decide
theorem test_hyp_team_busy : let s := { asking (.load .n64) with teams := [(0, { nid := 1, nwarp := 1, nreg := 64, ended := true })] }
    s.teamBusy 0 (s.team 0).key = true := by decide
theorem test_hyp_node_completes : let s := finished 0 true
    let b := dwordBits finishing.desc
    ([b 1 15 0, b 1 31 16, b 1 47 32, b 1 63 48]).filter (· != 0xFFFF) = [2, 3] ∧ (s.nodes.map (·.1)).Nodup ∧ (s.nodes.find? 2).map (fun y => (y.phase, y.count)) = some (0, 2) ∧ s.nodes.find? 3 = none ∧
    b 9 12 12 = 1 ∧ (s.psems.get {} (b 9 11 0)).wait = [] ∧ (s.psems.get {} (b 9 11 0)).w = 0 ∧ (finished 1 true).nodes.find? 1 = some { finishing with left := 1 } := by decide

theorem test_hyp_backfill : ∀ now ∈ [2000999, 2001000], let s : State := { ready (node 1 small) [] with now := now }
    (s.readyOf 0 0).head? = some 1 ∧ (1000 + (s.ctxs.get {} 0).drainlim ≤ s.now ↔ now = 2001000) ∧ 0 ∉ s.backfillOff := by decide
theorem test_hyp_drain : let s := { base with drains := [{ node := 1, cores := [0], deadline := 5000, expired := false }, { node := 1, cores := [1], deadline := 5001, expired := false }] }
    s.drains[0]?.map (·.deadline) = some s.now ∧ s.drains[1]?.map (·.deadline) = some (s.now + 1) := by decide
theorem test_hyp_save : ∀ e ∈ [false, true], let s : State := { base with nodes := [(1, node 1 small)], drains := [{ node := 1, cores := [0], deadline := 9, expired := e }], teams := [(0, { nid := 9, nwarp := 1, nreg := 64, idle := some 100 })] }
    s.canSave 0 = true ∧ s.expiredFor 0 = e ∧ (s.team 0).gw = 1 ∧ (s.team 0).gh = 1 ∧ (s.team 0).map = [] ∧ (s.teams.find? 0).isSome ∧ (s.team 0).idle = some 100 := by decide
theorem test_hyp_swap : (100 + 50000 ≤ ({ base with now := 50100 } : State).now) ∧ ({ base with now := 50099 } : State).now < 100 + 50000 := by decide
theorem test_hyp_rerun : ∀ r ∈ [0, 3], ∀ ph ∈ [1, 2], let s : State := { base with reexec := [(0, 1)], nodes := [(1, { node 1 small with phase := ph, reruns := r })] }
    (0, 1) ∈ s.reexec ∧ s.nodes.find? (0 * 65536 + 1) = some { node 1 small with phase := ph, reruns := r } ∧ (s.nodes.map (·.1)).Nodup ∧ s.saved = [] ∧ s.teams = [(0, { nid := 1, nwarp := 1, nreg := 64 })] := by decide

-- Premises: the fabric

/-- The node's table: entry 0 lets it send to endpoint 0 of connection 1 with an allowance of 1, entry 1 read, write and update 64 KiB there. -/
def fabricCaps : List Word := [0x9080010000010000, 0, 0, 0, 0x8700000000010000, 0, 0x10000, 0] ++ List.replicate 1016 0
def upConn : Conn := { opened := true, up := true, progress := 4000 }
def fabric (k : Conn) (xs : List (Nat × Word)) : State := { regs xs (held solo) with caps := [(1, fabricCaps)], conns := [(1, k)] }
def sendCap : Cap := { kind := 1, perm := 1, allow := 1, conn := 1, endp := 0, base := 0, size := 0 }
def rangeCap : Cap := { kind := 0, perm := 14, allow := 0, conn := 1, endp := 0, base := 0, size := 0x10000 }
theorem grantsOf {s : State} {c m perm kind : Nat} {x : Cap} (ws : List Word) (ctx : Nat) (h : s.capWords (s.team c).ctx (s.team c).nid m = ws) (hc : (s.team c).ctx = ctx)
    (hx : (let b := dwordBits ws
      let uses := fun (p : Nat) => if kind = 0 then 1 ≤ p ∧ p ≤ 3 else if kind = 1 then p = 0 else p = 4
      ws.length = 4 ∧ b 0 63 63 = 1 ∧ kind < 3 ∧ (∀ p < 5, b 0 (55 + p) (55 + p) = 1 → uses p) ∧ b 0 (55 + perm) (55 + perm) = 1 ∧ b 0 54 48 = 0 ∧ b 0 39 32 = 0 ∧
        (if kind = 1 then 1 ≤ b 0 47 40 else b 0 47 40 = 0) ∧ b 1 63 52 = 0 ∧ b 2 63 52 = 0 ∧ b 3 63 0 = 0 ∧
        x = { kind := b 0 62 60, perm := b 0 59 55, allow := b 0 47 40, conn := b 0 31 16, endp := b 0 15 0, base := b 1 51 0, size := b 2 51 0 } ∧ x.kind = kind))
    (k : Conn) (hk : s.conns.find? x.conn = some k ∧ k.opened = true ∧ k.cctl.toNat / 2 ^ 44 % 2 ^ 12 = ctx) : Grants s c m perm kind x := by
  subst hc h
  obtain ⟨h1, h2, h3, h4, h5, h6, h7, h8, h9, h10, h11, h12, h13⟩ := hx
  exact ⟨h1, h2, h3, h4, h5, h6, h7, h8, h9, h10, h11, h12, h13, k, hk⟩
theorem test_hyp_grants_send : Grants (fabric upConn []) 0 0 0 1 sendCap := grantsOf [0x9080010000010000, 0, 0, 0] 0 (by decide) rfl (by unfold dwordBits; decide) upConn (by decide)
theorem test_hyp_grants_range : ∀ p ∈ [1, 2, 3], Grants (fabric upConn []) 0 1 p 0 rangeCap := by
  intro p hp
  refine grantsOf [0x8700000000010000, 0, 0x10000, 0] 0 (by decide) rfl ?_ upConn (by decide)
  fin_cases hp <;> (unfold dwordBits; decide)
theorem test_hyp_no_grant : ¬∃ x, Grants (fabric upConn []) 0 2 0 1 x := fun ⟨_, _, h, _⟩ => absurd h (by decide)
theorem test_hyp_fabric_up : Up (fabric upConn []) 1 ∧ ¬Up (fabric { upConn with closing := true } []) 1 ∧ ¬Up (fabric { upConn with sent := 2 ^ 40 - 1 } []) 1 := by unfold Up; decide
def fabEng (cap : BitVec 8) (ty : Ty) (mod : BitVec 4) : Eng := en 10 20 22 cap .lk ty mod
/-- Registers for local address a, remote address r and length n. -/
def ranged (a r n : Nat) : List (Nat × Word) := [(20, BitVec.ofNat 64 a), (21, 0), (22, BitVec.ofNat 64 r), (23, BitVec.ofNat 64 n)]
def fabWords : List Instr := [.send { fabEng 0 .n64 0 with b := 0xC0 }, .send { fabEng 0 .n64 1 with b := 2 }, .rget (fabEng 1 .n64 0), .rput (fabEng 1 .n64 0), .ratom (fabEng 1 .i64 0), .ratom (fabEng 1 .i64 8)]
theorem test_hyp_fabric_alone : ∀ i ∈ fabWords, (fabric upConn (ranged 0x3000 0xFFF8 8)).Alone i 0 := by
  intro i hi; refine alone_of ?_; revert i; decide
theorem test_hyp_fabric_lone : ∀ i ∈ fabWords, let s := (fabric upConn (ranged 0x3000 0xFFF8 8)).setMark 0 0 0 20 { bad := true }
    s.passes i ∧ s.issuing i = [0] ∧ s.lanesM i = [0] ∧ ∀ q ∈ s.needs i 0 0 0, (s.mark 0 0 0 q).bad = true ∨ (s.mark 0 0 0 q).fault = 0 := by decide
theorem test_hyp_fabric_range : ∀ x ∈ [(0x3000, 0xFFF8, 8), (0x3000, 0xFFF9, 8), (0x3001, 0, 8), (0x3000, 0, 4), (0x3000, 0, 0), (0x3000, 0, 2 ^ 30), (0x3000, 0, 2 ^ 30 + 8), (0x3000, 2 ^ 52, 8), (0x3000, 0xFFF8, 16)],
    rangeWords (fabric upConn (ranged x.1 x.2.1 x.2.2)) (fabEng 1 .n64 0) 0 = x := by decide
theorem test_hyp_fabric_pages : ∀ get ∈ [false, true], (match rangeFound (fabric upConn (ranged 0x3000 0 0x100)) (fabEng 1 .n64 0) 0 get with | (_, .ok ps) => ps == [(0, 0)] | _ => false) = true ∧
    (match rangeFound (fabric upConn (ranged 0x10000 0 0x100)) (fabEng 1 .n64 0) 0 get with | (_, .error (k, a)) => k == 0x0B && a == 0x10000 | _ => false) = true := by decide
theorem test_hyp_fabric_room : let s := fabric upConn []
    s.allow.get 0 (1 * 65536 + 0) < sendCap.allow ∧ sendCap.allow ≤ ({ s with allow := [(65536, 1)] } : State).allow.get 0 65536 ∧ s.futRoom 0 1 false = true ∧
    (s.conns.get {} 1).failed = false ∧ s.laneBusy 0 0 0 (.hbm 0) 65536 = false ∧ ({ s with reqs := [(1, { req (.store [1] .pk) with own := true })] } : State).laneBusy 0 0 0 (.hbm 0) 65536 = true := by decide
theorem test_hyp_fabric_full : ({ fabric upConn [] with fut := (List.range 512).map fun k => (k, { gen := 1, busy := true }) } : State).futRoom 0 1 false = false := by decide +kernel
theorem test_hyp_fabric_poisoned : let s := (fabric upConn (ranged 0x3000 0 8)).setMark 0 0 0 22 { bad := true }
    ∃ q ∈ s.needs (.rget (fabEng 1 .n64 0)) 0 0 0, (s.mark 0 0 0 q).bad = true := by decide
/-- Page 1 of lane 0's context is page 9 of package 5, to which connection 1 leads. -/
def peerState : State := page 1 0x900500F7 (fabric { upConn with cctl := 0x500000000 } [(20, 0x10008), (22, 7)])
def peerStore : Mem := me 10 20 22 0 .n32 .pk
theorem test_hyp_peer_alone : peerState.Alone (.stG peerStore) 0 := alone_of (by decide)
theorem test_hyp_peer_store : (match placeOf peerState 0 .g .st (addrOf peerState peerStore 0 4) 4 with
    | (u, .ok (.peer p va, _)) => p == 5 && va == 0x90008 && (u.route 0 5 == some 1) && (u.conn 1).up && !(u.conn 1).closing && !(u.conn 1).failed
    | _ => false) = true := by decide
/-- R450: the link witness of a `.pk` store has scope 9. -/
theorem test_peer_scope : (match exec (.stG peerStore) peerState with | .next t => t.reg 0 0 0 10 == 0x3900010000000001 | _ => false) = true := by decide

-- Premises: connections, packets and what comes back

/-- Control blocks that may be opened, and ones with OPEN clear, a must-be-zero bit, a priority or credit out of range. -/
theorem test_hyp_may_open : mayOpen 0x8000000000000000 1 ∧ mayOpen 0x8000000000000000 0x2100 := by unfold mayOpen cbits; decide
theorem test_hyp_may_not_open : ¬mayOpen 0 1 ∧ ¬mayOpen 0x8100000000000000 1 ∧ ¬mayOpen 0x8000000000010000 1 ∧ ¬mayOpen 0x8000000000000000 0 ∧ ¬mayOpen 0x8000000000000000 0x101 :=
  ⟨fun h => absurd h.1 (by decide), fun h => absurd h.2.1 (by decide), fun h => absurd h.2.2.1 (by decide), fun h => absurd h.2.2.2.1 (by decide), fun h => absurd h.2.2.2.2.1 (by decide)⟩
/-- The allowance of endpoints: 5 and 3 units against a reserve of 8 slots. -/
theorem test_hyp_endpoint : let s : State := { base with endps := [(4, 0x8000000000000000, 5)], pal := [(0, { resv := 8 })] }
    let others := ((s.endps.filter fun (x : Nat × Word × Word) => x.1 != 7 && cbits x.2.1 63 63 == 1 && cbits x.2.1 55 44 == 0).map fun (x : Nat × Word × Word) => cbits x.2.2 31 0).sum
    others + cbits 3 31 0 ≤ (s.pal.get {} 0).resv ∧ ¬others + cbits 4 31 0 ≤ (s.pal.get {} 0).resv := by decide
theorem test_hyp_keys : (({ base with keys := [(1, { next := 7, nextValid := true })] } : State).keys.get {} 1).nextValid = true ∧ cbits 0x4000000000000000 62 62 = 1 ∧ cbits 0x8000000000000007 63 63 = 1 := by decide

/-- A connection of context 0 whose second message is complete, under epoch 5 and a next epoch 6. -/
def port (k : Conn) : State := { base with conns := [(1, k)], keys := [(1, { cur := 5, curValid := true, next := 6, nextValid := true })], endps := [(3, 0x8000000000000000, 1)], tlb := [{ at_ := 0, ctx := 0, level := 3, page := 0, leaf := 0x7F, ent := 0x13000 }] }
def portConn : Conn := { opened := true, up := true, rcvd := 1, got := [(3, true)] }
theorem test_hyp_epochs : inEpoch (port portConn) 1 5 ∧ inEpoch (port portConn) 1 6 ∧ ¬inEpoch (port portConn) 1 7 ∧ ¬inEpoch base 1 0 := by unfold inEpoch; decide
def packets : List Packet := [.write (some 0) 0x3000 8 16 [1, 2, 3, 4, 5, 6, 7, 8] [false] false, .write none 0x3004 0 4 [1, 2, 3, 4] [false] false, .write (some 7) 0x3000 0 8 [1, 2, 3, 4, 5, 6, 7, 8] [false] false, .read none 0x3000 8 true,
  .read (some 7) 0x3000 8 false, .atomic none .i32 false 0x3000 1 0 false, .atomic (some 0) .n64 true 0x3000 1 0 false, .record 3 [1, 2, 3, 4, 5, 6, 7, 8] 0 0 1 false, .record 4 [1, 2, 3, 4, 5, 6, 7, 8] 0 0 1 false]
theorem test_hyp_arrives : ∀ p ∈ packets, Arrives (port portConn) 1 2 5 p := by
  intro p hp
  refine ⟨rfl, rfl, by unfold inEpoch; decide, ⟨by decide, ?_, ?_⟩, by unfold wasWhole wasComplete; decide, List.not_mem_nil, .inr (by decide)⟩
  · fin_cases hp <;> exact fun h => by cases h
  · fin_cases hp <;> (intro x va off total data bad fen e; cases e) <;> decide
theorem test_hyp_arrives_later : Arrives (port portConn) 1 9 6 (.write none 0x3000 0 1 [7] [false] false) :=
  ⟨rfl, rfl, by unfold inEpoch; decide, ⟨by decide, (fun h => nomatch h), by intro x va off total data bad fen e; cases e; decide⟩, by unfold wasWhole wasComplete; decide, List.not_mem_nil, .inl (by decide)⟩
theorem test_hyp_not_carried : ¬carried 1 .unsupported ∧ ¬carried (2 ^ 40) (.read none 0x3000 8 true) ∧ ¬carried 1 (.write none 0x3000 0 4097 (List.replicate 4097 7) [] false) := by
  refine ⟨fun h => h.2.1 rfl, fun h => absurd h.1 (Nat.lt_irrefl _), fun h => ?_⟩
  have := h.2.2 _ _ _ _ _ _ _ rfl
  rw [List.length_replicate] at this
  omega
/-- The last write of message 2 has been performed at HA 3 now; the connection alone waits for it. -/
def landed (o : Opened) : Conn := { portConn with landing := [(2, { shut := o, whole := true, ack := true })] }
theorem test_hyp_landing : ClosesFor (port (landed writesNow)) 3 1 (landed writesNow) ∧ wasWhole (landed writesNow) 2 ∧ ¬ShutBy (port (landed writesNow)) 3 writesNow ∧ ShutBy (port (landed writesNow)) 3 { writesNow with tick := 4999 } := by
  refine ⟨⟨by decide, by decide, rfl, rfl, (fun _ h => nomatch h), by decide⟩, .inr rfl, fun h => absurd (h.2 3 (.head _)) (by unfold tickAtLeast; decide), rfl, fun b h => ?_⟩
  rw [List.mem_singleton.1 h]; unfold tickAtLeast; decide
theorem test_hyp_not_performed : wasComplete portConn 1 ∧ wasComplete portConn 3 ∧ ¬wasComplete portConn 2 ∧ packetFenced (.read none 0x3000 8 true) = true ∧ portConn.rcvd + 1 < 4 := by unfold wasComplete; decide
theorem test_hyp_packet_pages : (match pagesAsked (port portConn) 1 .rawWrite 0x3008 8 with | (_, .ok gs) => gs == [(0, 0)] | _ => false) = true ∧ (match pagesAsked (port portConn) 1 .rawRead 0x10000 8 with | (_, .error _) => true | _ => false) = true ∧
    (match pagesAsked (port portConn) 1 .rawWrite 0x10000 8 with | (_, .error _) => true | _ => false) = true := by decide
theorem test_hyp_contexts : forContext (port portConn) 1 none ∧ forContext (port portConn) 1 (some 0) ∧ ¬forContext (port portConn) 1 (some 7) := by
  refine ⟨?_, ?_, ?_⟩
  · intro y h; cases h
  · intro y h; cases h; decide
  · intro h; exact absurd (h 7 rfl) (by decide)
theorem place_plain (k : Conn) (pa : Nat) : (port k).place (.hbm pa) = .hbm pa := by
  unfold State.place port; rfl
theorem test_hyp_plain : Plain (port portConn) := ⟨fun pa => place_plain _ pa, rfl, rfl, by decide⟩
theorem test_hyp_found : found [(0, 0)] 0x3008 8 := by unfold found; decide
theorem test_hyp_port_atomic : ∀ b ∈ [false, true], (match (port portConn).xlate none 0 false .atomic (if b then 0x10000 else 0x3000) 4 with | (_, .ok (.hbm pa, _)) => !b && pa == 0x3000 | (_, .error _) => b | _ => false) = true ∧
    (port portConn).badIn (.hbm 0x3000) 8 = false := by decide
theorem test_hyp_endpoints : let s := port portConn
    cbits (s.endps.get (0, 0) 3).1 63 63 = 1 ∧ cbits (s.endps.get (0, 0) 3).1 55 44 = cbits portConn.cctl 55 44 ∧ cbits (s.endps.get (0, 0) 4).1 63 63 ≠ 1 := by decide
theorem test_hyp_held : let k := { portConn with held := [(2, .read none 0x3000 8 true), (5, .read none 0x3000 8 true)] }
    (k.held.filter fun (x : Nat × Packet) => x.1 == 2) = [(2, .read none 0x3000 8 true)] ∧ 2 ≤ k.rcvd + 1 ∧ (k.held.filter fun (x : Nat × Packet) => x.1 == 5) = [(5, .read none 0x3000 8 true)] ∧ k.rcvd + 1 < 5 := by decide

/-- Message 7 of kind `kind` is out, after message 6, and message 5 was complete at 4000. -/
def message (kind seq : Nat) (dst : Option Nat) (fut : Option FutRef) : Msg := { seq := seq, kind := kind, who := ⟨0, 0, 0⟩, team := 1, ctx := 0, lva := 0x3000, rva := 0x40, len := 16, dst := dst, id := 9, fut := fut, ty := .i64, sc := .lk, endp := 0, words := [], fen := false, sent := 4500, pages := [(0, 0)] }
def entry3 : FutRef := { core := 0, ent := 3, gen := 1 }
def outConn (m : Msg) : Conn := { opened := true, up := true, sent := 7, out := [message 0 6 none none, m], tcs := [(5, 4000)], progress := 4000, units := [(7, 65536)] }
def outState (m : Msg) : State := { base with conns := [(1, outConn m)], fut := [(3, { gen := 1, busy := true })], allow := [(65536, 1)] }
def messages : List Msg := [message 0 7 none none, message 1 7 none (some entry3), message 2 7 (some 10) none, message 2 7 none none, message 3 7 none (some entry3)]
theorem test_hyp_orderly : ∀ m ∈ messages, Orderly (outConn m) := by
  intro m hm
  fin_cases hm
  all_goals
    refine ⟨rfl, by decide, by decide, fun j h1 h2 h3 => ⟨(5, 4000), by simp [outConn], ?_⟩⟩
    have := h3 (message 0 6 none none) (by simp [outConn])
    simp [message] at this; simp; omega
theorem test_hyp_out : ∀ m ∈ messages, ((outConn m).out.find? fun (x : Msg) => x.seq == 7) = some m ∧ ((outConn m).out.map (·.seq)).Nodup ∧ (outConn m).failed = false ∧ 9 ≤ m.sc.code.toNat ∧ m.sc.code.toNat ≤ 11 := by decide
theorem test_hyp_calm (m : Msg) : Calm (outState m) := by
  intro x hx; simp [outState, base] at hx; rcases hx with rfl | rfl | rfl <;> trivial
theorem test_hyp_holds (m : Msg) : Holds (outState m) entry3 := ⟨rfl, rfl⟩
theorem test_hyp_message_closes : ∀ m ∈ [{ message 1 7 none (some entry3) with parts := [(0, 16)], shut := writesNow }], ClosesFor { outState m with conns := [(1, { outConn m with out := [m] })] } 3 1 { outConn m with out := [m] } ∧ m.len ≤ (m.parts.map (·.2)).sum := by
  intro m hm; rw [List.mem_singleton.1 hm]
  exact ⟨⟨by decide, by decide, rfl, rfl, (fun _ h => nomatch h), by decide⟩, by decide⟩
theorem test_hyp_data : found [(0, 0)] 0x3000 8 ∧ (∀ p ∈ (message 1 7 none none).parts, p.1 ≠ 0) ∧ ([(8, 8)] ++ [(0, 8)] |>.map fun (x : Nat × Nat) => x.2).sum = 16 := by unfold found; decide
theorem test_hyp_unit : ((outConn (message 0 6 none none)).units.find? fun (x : Nat × Nat) => x.1 == 7) = some (7, 65536) ∧ (∀ m ∈ (outConn (message 0 6 none none)).out, m.seq ≠ 7) := by decide
theorem test_hyp_link_fails : ∀ b ∈ [false, true], let s : State := { base with now := if b then 50004500 else 50004499, conns := [(1, { outConn (message 2 6 (some 10) none) with out := [message 2 6 (some 10) none] })] }
    (s.conns.get {} 1).out = [message 2 6 (some 10) none] ∧ (max (s.conns.get {} 1).progress (message 2 6 (some 10) none).sent + 50000000 ≤ s.now ↔ b = true) := by decide
def remoteRead (fill : Bool) : RrcFetch := { conn := 1, ctx := 0, pkg := 2, rva := 0x404, page := 0, size := 4, who := ⟨0, 0, 0⟩, team := 1, dst := some 10, ty := .i32, id := 9, fill := fill }
theorem test_hyp_remote_read : ∀ b ∈ [false, true], let s : State := { outState (message 0 7 none none) with rrcFetch := [(4, remoteRead b)] }
    s.rrcFetch.find? 4 = some (remoteRead b) ∧ (s.conns.get {} 1).up = true ∧ (s.conns.get {} 1).failed = false ∧ (remoteRead b).size = (remoteRead b).ty.bytes ∧ s.rrc.length = 0 ∧
    (s.rrcFetch.filter fun (x : Nat × RrcFetch) => x.2.fill && x.2.ctx == 0 && x.2.pkg == 2 && x.2.rva / 1024 == 1) = (if b then [(4, remoteRead b)] else []) := by decide

-- Premises: Palette

/-- A context of four slots, one of them in the reserve. -/
def palState (p : PalCtx) (xs : List (Nat × Word)) : State := { regs xs solo with pal := [(0, p)] }
def pal4 : PalCtx := { base := 0x4000, count := 4, used := [1], reserve := [3], resv := 1 }
def palEng (mod : BitVec 4) (d a b : BitVec 8) : Eng := en d a b 0xC0 .no .n64 mod
def palWords : List Instr := [.psget (palEng 0 10 0xC0 0xC0), .psget (palEng 1 10 0xC0 0xC0), .psput (palEng 0 0xC0 20 0xC0), .psq (palEng 0 0xC0 20 134), .psdq (palEng 0 10 0xC0 134), .psdq (palEng 1 10 0xC0 134)]
theorem test_hyp_palette : ∀ i ∈ palWords, (palState pal4 [(20, 1), (134, 15)]).Alone i 0 := by
  intro i hi; refine alone_of ?_; revert i; decide
theorem test_hyp_slots : freeSlot pal4 0 ∧ freeSlot pal4 2 ∧ ¬freeSlot pal4 1 ∧ ¬freeSlot pal4 3 ∧ ¬freeSlot pal4 4 ∧ allocated pal4 1 ∧ ¬allocated pal4 0 ∧ ¬allocated pal4 4 ∧ ¬allocated pal4 0xFFFFFFFFFFFFFFFF := by
  unfold freeSlot allocated; decide
/-- Every slot is in use, or in the reserve. -/
def palFull : PalCtx := { pal4 with used := [0, 1, 2] }
theorem test_hyp_no_slot (i : Nat) : ¬freeSlot palFull i ∧ ¬freeSlot {} i := by
  refine ⟨?_, ?_⟩ <;> rintro ⟨h1, h2, h3⟩
  · simp [palFull, pal4] at h1 h2 h3; omega
  · simp at h1
theorem test_hyp_psput : let short := { palFull with reserve := [], resv := 1, held := [(1, 3)] }
    short.reserve.length < short.resv ∧ palFull.resv ≤ palFull.reserve.length ∧ palFull.used.Nodup ∧ allocated palFull 1 ∧ palFull.getWait = [] := by unfold allocated; decide
def palWaiter : PalWait := { who := ⟨0, 0, 1⟩, team := 1, dst := some 10, since := 4000 }
theorem test_hyp_psput_waiter : let s := (palState { palFull with getWait := [palWaiter] } [(20, 1)]).modLane 0 0 1 fun x => { x with park := .queue }
    (s.pal.get {} 0).getWait = [palWaiter] ∧ 1 ∉ palFull.reserve ∧ (s.lane 0 0 1).park = .queue ∧ s.saved = [] ∧ (s.teams.find? 0).map (·.key) = some 1 := by decide
theorem test_hyp_psq : let s := palState { pal4 with queues := [(15, [(1, 0), (1, 0), (1, 0), (1, 0)])] } []
    (s.pal.get {} 0).count ≤ ((s.pal.get {} 0).queues.get [] 15).length ∧ ((s.pal.get {} 0).queues.get [] 14).length < pal4.count ∧ s.stamped 0 0 0 = true ∧ (s.fenceWit 0 0 0 7).isSome ∧ (s.pal.get {} 0).takeWait.get [] 14 = [] := by decide
theorem test_hyp_psdq : let p := { pal4 with queues := [(15, [(1, 0), (1, frontierAhead)])] }
    p.queues.get [] 15 = [(1, 0), (1, frontierAhead)] ∧ p.broken = false ∧ p.queues.get [] 14 = [] ∧ HoldsWit 0 := ⟨by decide, rfl, by decide, .inl rfl⟩

/-- A record of a remote sender, for stage queue 2. -/
def record2 : RecordIn := { conn := 1, seq := 7, ctx := 0, endp := 3, stq := 2, words := [1, 2, 3, 4, 5, 6, 7, 8], lane := 0, core := 0, pkg := 2 }
def recordState (base_ : Nat) (res : List Nat) : State := { palState { palFull with base := base_, reserve := res, resv := 1, held := if res = [] then [(1, 3)] else [] } [] with inbox := [(8, record2)], tlb := [{ at_ := 0, ctx := 0, level := 3, page := 0, leaf := 0x7F, ent := 0x13000 }] }
theorem test_hyp_record : let s := recordState 0x4000 [3]
    s.inbox.find? 8 = some record2 ∧ ((s.pal.get {} 0).reserve = [3]) ∧ ((recordState 0x4000 []).pal.get {} 0).reserve = [] ∧ (s.pal.get {} 0).resv = (s.pal.get {} 0).reserve.length + (s.pal.get {} 0).held.length ∧ s.mons = [] ∧ s.saved = [] ∧ record2.words.length = 8 := by decide
theorem test_hyp_record_slot : ∀ b ∈ [false, true], (match (recordState (if b then 0x10000 else 0x4000) [3]).placeAll none 0 false .st ((List.range 32).map fun j => ((if b then 0x10000 else 0x4000) + 256 * 3 + 8 * j, 8)) with
    | (_, .ok xs) => !b && xs.map (·.1) == (List.range 32).map fun j => .hbm (0x4300 + 8 * j) | (_, .error _) => b) = true := by decide
theorem test_hyp_record_free (i : Nat) : ¬freeSlot ((recordState 0x4000 [3]).pal.get {} 0) i := (test_hyp_no_slot i).1

-- Premises: the intersection unit, amplification and the sampler

/-- A target of one tile at page 1, which is mapped; its descriptor at 0x40, which s6 names. -/
def target (base_ : Nat) : List Word := [BitVec.ofNat 64 base_, 0x10001, 0, 0]
def iuState (ws : List Word) (xs : List (Nat × Word)) : State :=
  let s := regs ((134, 0x40) :: xs) (page 1 0x100007F (held solo))
  { s with mem := s.mem.write 0x40 (ws.flatMap fun w => leBytes 8 w.toNat) }
def found? (r : State × Except (Nat × Nat) (Option (List Word))) (ws : List Word) : Bool := match r.2 with | .ok (some xs) => xs == ws | _ => false
def iuWords : List Instr := [.trav (en 10 20 134 0xC0 .no .n64 0), .trav (en 60 20 134 0xC0 .no .n64 1), .tvis (en 10 20 134 0xC0 .no .n64 0), .occq (en 10 20 22 134 .no .n64 0), .amp (en 10 20 134 0xC0 .no .n64 0), .smp (en 10 20 134 0xC0 .no .n64 0), .smp (en 10 20 134 0xC0 .no .n64 1)]
theorem test_hyp_iu_alone : ∀ i ∈ iuWords, (iuState (target 0x10000) []).Alone i 0 := by
  intro i hi; refine alone_of ?_; revert i; decide
def entry4 : FutRef := { core := 0, ent := 3, gen := 1 }
def rayLane (ws : List Word) (root : Word) : IuLane := { lane := 0, words := ws, desc := [root], place := none, dst := 10, fut := entry4 }
def rayJob (any : Bool) (ls : List IuLane) : IuJob := { kind := 0, slot := 0, team := 1, ctx := 0, cls := 2, user := true, flag := any, id := 9, lanes := ls }
theorem test_hyp_iu_room : unitRoom (iuState [] []) ∧ unitFresh (iuState [] []) ∧ ¬unitRoom { iuState [] [] with iu := [(0, List.replicate 64 (rayJob false []))] } := by unfold unitRoom unitFresh; decide
theorem test_hyp_target_form : TargetForm (target 0x10000) 0x10000 1 1 ∧ TargetForm [0xFFFFFFFF00000, 0x4000400, 0, 0] 0xFFFFFFFF00000 1024 1024 := by unfold TargetForm dwordBits; decide
theorem test_hyp_target_bad (b tw th : Nat) : ¬TargetForm (target 0x10001) b tw th ∧ ¬TargetForm [0x10000, 0x10000, 0, 0] b tw th ∧ ¬TargetForm [0x10000, 0x4010001, 0, 0] b tw th :=
  ⟨fun h => absurd h.2.1 (by decide), fun h => absurd h.2.2.2.2.2.1 (by decide), fun h => absurd h.2.2.2.2.2.2.2.2.1 (by decide)⟩
theorem test_hyp_iu_desc : found? (descFound (iuState (target 0x10000) []) (iuState (target 0x10000) []) 0 134 32) (target 0x10000) = true := by decide
theorem test_hyp_iu_desc_waits : (match descFound { iuState [] [] with reqs := [(1, { req (.store [1] .pk) with own := true, loc := .hbm 0x40 })] } { iuState [] [] with reqs := [(1, { req (.store [1] .pk) with own := true, loc := .hbm 0x40 })] } 0 134 32 with | (_, .ok none) => true | _ => false) = true ∧
    (match descFound (regs [(134, 0x20000)] (iuState [] [])) (regs [(134, 0x20000)] (iuState [] [])) 0 134 32 with | (_, .error (k, a)) => k == 0x0B && a == 0x20000 | _ => false) = true := by decide
theorem test_hyp_iu_ranged : (∀ k < 6, -2 ^ 23 ≤ intOf (iuState [] [(20, 0x7FFFFFFF800000)]) 0 20 k ∧ intOf (iuState [] [(20, 0x7FFFFFFF800000)]) 0 20 k < 2 ^ 23) ∧ ¬intOf (iuState [] [(21, 0x800000)]) 0 20 2 < 2 ^ 23 := by decide
theorem test_hyp_iu_pages : ((iuState [] []).targetPages 0 true 0x10000 1).2 = none ∧ ((iuState [] []).targetPages 0 true 0x20000 1).2 = some (0x0B, 0x20000) := by decide
theorem test_hyp_occq_place : hbmAt (placeOf (iuState [] [(20, 0x100)]) 0 .g .atomic 0x100 8) 0x100 = true ∧ faultsAt (placeOf (iuState [] []) 0 .g .atomic 0x20000 8) 0x0B = true := by decide

/-- The ray, the node and the triangle of R371's example, at 0x3000 and 0x3100. -/
def rayWords : List Word := [0, 0x00000000BF800000, 0, 0x42C800003F800000]
def nodeHalves : List Nat := [0xBF800000, 0xBF800000, 0, 0x3F800000, 0x3F800000, 0, 0, 0, 0, 0, 0, 0, 0x3100, 0x80000000, 0, 0]
def triHalves : List Nat := [0xBF800000, 0xBF800000, 0, 0x3F800000, 0xBF800000, 0, 0, 0x3F800000, 0, 7, 0, 0]
def scene (any : Bool) (ws : List Word) (root : Word) : State :=
  let s := held base
  { s with mem := (s.mem.write 0x3000 (nodeHalves.flatMap (leBytes 4 ·))).write 0x3100 (triHalves.flatMap (leBytes 4 ·)), iu := [(0, [rayJob any [rayLane ws root]])], fut := [(3, { gen := 1, busy := true })] }
def rootNode : Word := 0x4000000000003000
def rootLeaf : Word := 0x8000000000003100
/-- R371's example. -/
theorem test_ray_example : ((rayOf rayWords).o, (rayOf rayWords).d, (rayOf rayWords).tmin, (rayOf rayWords).tmax) = ([0, 0, 0xBF800000], [0, 0, 0x3F800000], 0, 0x42C80000) ∧
    (match exec (.iuInstanceStart 0) (scene false rayWords rootNode) with
      | .next t => (t.replies.map fun x => x.2.regs.map fun y => (y.1, y.2.1)) == [[(11, 0x3E8000003F800000), (12, 0x000000073F000000), (13, 0x3100)]] && (t.fut.map fun x => x.2.result) == [some (0, 0, 0)]
      | _ => false) = true := by decide +kernel
theorem test_hyp_ray : ∀ any ∈ [false, true], ∀ root ∈ [1, 2], let w : Word := if root = 1 then rootNode else rootLeaf
    (scene any rayWords w).iu.get [] 0 = [rayJob any [rayLane rayWords w]] ∧ rayWords.length = 4 := by decide
theorem test_hyp_ray_holds (any : Bool) (ws : List Word) (root : Word) : Holds (scene any ws root) entry4 := ⟨rfl, rfl⟩
theorem test_hyp_ray_roots : RefForm rootNode 1 0 0x3000 ∧ RefForm rootLeaf 2 0 0x3100 ∧ RefForm 0xBF00000000003110 2 63 0x3110 ∧ RefForm 0 0 0 0 := by
  refine ⟨?_, ?_, ?_, ?_⟩ <;> (unfold RefForm; decide)
theorem test_hyp_ray_bad (k n a : Nat) : ¬RefForm 0xC000000000000000 k n a ∧ ¬RefForm 0x4000000000003020 k n a ∧ ¬RefForm 0x8010000000003100 k n a := by
  refine ⟨?_, ?_, ?_⟩ <;> rintro ⟨h1, h2, h3, h4, h5, h6, h7, h8⟩
  · subst h1; exact absurd h8 (by decide)
  · subst h3; exact absurd (h6 (by subst h1; decide)).2 (by decide)
  · exact absurd h4 (by decide)
/-- Void rays: a NaN, and tmax below tmin; the example's is none. -/
theorem test_hyp_ray_void : voidRay (rayOf [0, 0x7FC00000, 0, 0x42C800003F800000]) := .inl ⟨0x7FC00000, by decide, .inl rfl⟩
theorem test_hyp_ray_reads : ∀ x ∈ [(0x3000, 4), (0x3100, 3)], ∀ k < x.2, hbmAt (match (scene false rayWords rootNode).xlate (some 0) 0 true (.ld 16) (x.1 + 16 * k) 16 with | (s, .ok y) => (s, .ok y) | (s, .error e) => (s, .error e)) (x.1 + 16 * k) = true ∧
    (scene false rayWords rootNode).badIn (.hbm (x.1 + 16 * k)) 8 = false := by decide
theorem test_hyp_ray_form : leafForm (scene false rayWords rootNode) (fun k => 0x3100 + 16 * k) 1 := by unfold leafForm unitWord; decide
/-- A triangle over the target's first tile, of a depth at every corner; an occlusion query over four samples. -/
def visJob (kind : Nat) (ws : List Word) : IuJob := { kind := kind, slot := 0, team := 1, ctx := 0, cls := 2, user := true, flag := false, id := 9, lanes := [{ lane := 0, words := ws, desc := target 0x10000, place := some (.hbm 0x100, 0x7F), dst := 10, fut := entry4 }] }
def visState (kind : Nat) (ws : List Word) : State := { page 1 0x100007F (held base) with iu := [(0, [visJob kind ws])], fut := [(3, { gen := 1, busy := true })] }
theorem test_hyp_vis : ∀ kind ∈ [1, 2], let s := visState kind []
    s.iu.get [] 0 = [visJob kind []] ∧ (visJob kind []).lanes.length = 1 ∧ (s.futEnt 0 3).busy = true := by decide
def tri8 (k : Nat) : Int × Int := [(0, 0), (2048, 0), (0, 2048)].getD k (0, 0)
theorem test_hyp_covers : Covers false tri8 (fun k => k) 0 0 ∧ ¬Covers false tri8 (fun k => k) 7 7 := by
  refine ⟨⟨by decide, by decide, by decide, by decide⟩, fun h => absurd (h.2.2.2 0 (by decide)) (by decide)⟩
def visReq (z : Nat) : Req := { req (.unit 0 [z, 1, 2]) with own := false, loc := .hbm 0x100, dst := none, path := some 0 }
theorem test_hyp_vis_update : ∀ z ∈ [0, 0x3F800000, 0xFFFFFFFF], let s : State := { base with reqs := [(1, visReq z)], seq := 2 }
    s.reqs.find? 1 = some (visReq z) ∧ (s.place (.hbm 0x100)) = .hbm 0x100 ∧ s.mons = [] ∧ s.saved = [] ∧ s.pal = [] ∧ s.canPerform (visReq z) = true := by decide

/-- An amplification descriptor at 0x80: 2 records at 0x3000, 1 more at 0x3100, `next` taken. -/
def ampDesc (next : Nat) : List Word := [0x3000, 0x100000002, 0x3100, BitVec.ofNat 64 next, 0, 0, 0, 0]
def ampState (at_ : Nat) (ws : List Word) : State := let s := regs [(134, BitVec.ofNat 64 at_)] (held solo); { s with mem := s.mem.write at_ (ws.flatMap fun w => leBytes 8 w.toNat) }
def ampWord : Instr := .amp (en 10 20 134 0xC0 .no .n64 0)
theorem test_hyp_amp : ∀ a ∈ [0x80, 0x88], ∀ ws ∈ [ampDesc 0, [1, 0, 0, 0, 0, 0, 0, 0]], let s := ampState a ws
    s.drainFull 0 = false ∧ (found? (descFound s s 0 134 64) ws = true ↔ a = 0x80) ∧ ((s.op64 0 0 0 134).toNat % 64 = 0 ↔ a = 0x80) := by decide
theorem test_hyp_amp_place : (match (ampState 0x80 (ampDesc 0)).xlate (some 0) 0 true .atomic 0x80 64 with | (_, .ok (.hbm pa, _)) => pa == 0x80 | _ => false) = true ∧
    (match (ampState 0x80 (ampDesc 0)).xlate (some 0) 0 true .atomic 0x10000 64 with | (_, .error k) => k == 0x0B | _ => false) = true := by decide
def ampReq : Req := { req (.unit 1 [0, 7, 8, 1, 9, 10]) with lanes := 3, own := false, loc := .hbm 0x80, dst := some 10, path := some 0, join := some 0 }
/-- Room for both lanes, for one, for none. -/
theorem test_hyp_amp_perform : ∀ n ∈ [0, 2, 3], let s : State := { ampState 0x80 (ampDesc n) with reqs := [(1, ampReq)], seq := 2 }
    s.reqs.find? 1 = some ampReq ∧ s.place ampReq.loc = .hbm 0x80 ∧ s.canPerform ampReq = true ∧ s.pal = [] ∧ s.mons = [] ∧ s.saved = [] ∧ ampReq.lanes.lanes = [0, 1] ∧ leNat (s.bytes (.hbm (0x80 + 24)) 8) = n := by decide
theorem test_hyp_amp_places : hbmAt (match (ampState 0x80 (ampDesc 0)).laneXlate ampReq .st 0x3000 16 with | (s, .ok y) => (s, .ok y) | (s, .error e) => (s, .error e)) 0x3000 = true := by decide

/-- A texture of 4 by 2 texels of rgba8 with two levels more, clamped; one of f16; one of r32f. -/
def texture (fmt : Nat) : List Word := [0x4000, BitVec.ofNat 64 (0x4212 + fmt * 2 ^ 12), 0, 0]
theorem test_hyp_texture : ∀ f ∈ [0, 1, 2], TextureForm (texture f) { base := 0x4000, lw := 2, lh := 1, lv := 2, fmt := f, clamp := true } := by unfold TextureForm dwordBits; decide
theorem test_hyp_texture_bad (x : Texture) : ¬TextureForm (texture 3) x ∧ ¬TextureForm [0x4000, 0x4312, 0, 0] x := by
  refine ⟨?_, ?_⟩ <;> rintro ⟨h1, h2, h3, h4, h5, h6, h7, -⟩
  · exact h5 (by decide)
  · exact absurd h7 (by decide)
theorem test_hyp_sample : ∀ f ∈ [0, 1, 2, 3], let s := { regs [(134, 0x40)] (held solo) with mem := (held solo).mem.write 0x40 ((texture f).flatMap fun w => leBytes 8 w.toNat) }
    found? (descFound s s 0 134 32) (texture f) = true := by decide
/-- The middle of the texture and, at its edge, both clamped texels; the level at 0.5. -/
theorem test_hyp_weights : AxisWeights true (1 / 2) 4 1 2 128 ∧ AxisWeights true 0 4 0 0 128 ∧ AxisWeights false 0 4 3 0 128 := by
  refine ⟨⟨384, ?_, by decide, by decide, by decide⟩, ⟨-128, ?_, by decide, by decide, by decide⟩, ⟨-128, ?_, by decide, by decide, by decide⟩⟩
  all_goals norm_num [roundsTo]
theorem test_hyp_sample_place : (match (held solo).locate 0 true .g (.ld 4) 0x4004 4 with | (_, .ok (.hbm pa, _)) => pa == 0x4004 | _ => false) = true ∧ (held solo).laneBusy 0 0 0 (.hbm 0x4004) 4 = false := by decide
theorem test_hyp_sample_finite : let x := v32 (halfOf (regs [(20, 0x7F8000003F000000)] solo) 0 20 0)
    x.isNan = false ∧ x.isInf true = false ∧ x.isInf false = false ∧ (v32 (halfOf (regs [(20, 0x7F8000003F000000)] solo) 0 20 1)).isInf false = true := by decide

-- Premises: collectives

/-- Rank 0 of a group of two by connections 1 and 2, entry 0; a sum of four bf16 elements of one die at 0x3000 into 0x3100, tag 5, PRI 9. -/
def groupCaps : List Word := [0xA800000000010000, 0x10000, 0x20001, 0] ++ List.replicate 1020 0
def collDesc (w0 w5 : Word) : List Word := [w0, 4, 0x3000, 0, 0x3100, w5, 9, 0]
def sum4 : Word := 0x0009000500010900
def chainSem : Word := 0x1007
def collState (ws : List Word) : State :=
  let s := regs [(134, 0x40), (135, 200)] (held solo)
  { s with mem := s.mem.write 0x40 (ws.flatMap fun w => leBytes 8 w.toNat), caps := [(1, groupCaps)], conns := [(1, upConn), (2, upConn)], psemOwner := [(7, 0)] }
def collWord : Instr := .coll (en 10 134 0xC0 0 .no .n64 0)
theorem test_hyp_coll_form : CollForm (collDesc sum4 0) 2 false ∧ CollForm (collDesc 0x1 chainSem) 1 true := by
  constructor
  all_goals unfold CollForm dwordBits
  all_goals repeat' apply And.intro
  all_goals first | decide | exact fun _ => ⟨1, rfl⟩ | exact fun _ => ⟨0, rfl⟩
theorem test_hyp_coll_bad (chain : Bool) : ¬CollForm (collDesc 4 0) 2 chain ∧ ¬CollForm (collDesc sum4 0x2000) 2 chain :=
  ⟨fun h => absurd h.2.2.2.2.2.2.2.2.2.2.1 (by decide), fun h => absurd h.2.2.2.2.2.2.2.2.1 (by decide)⟩
theorem test_hyp_coll : ∀ ws ∈ [collDesc sum4 0, collDesc sum4 chainSem], let s := collState ws
    s.clear collWord ∧ s.issuing collWord = [0] ∧ s.lanesM collWord = [0] ∧ (match s.descAt 0 0 0 0x40 64 with | (_, .ok (some xs)) => xs == ws | _ => false) = true ∧ s.futRoom 0 1 false = true ∧ s.colls = [] ∧
      s.psemOwner.find? 7 = some 0 ∧ (s.psems.get {} 7).v < 9 ∧ (s.psems.get {} 7).wait = [] := by decide
theorem test_hyp_coll_group : GroupOf (collState []) 0 0 0 2 1 2 := by
  refine ⟨{ kind := 2, perm := 16, allow := 0, conn := 1, endp := 0, base := 0x10000, size := 0x20001 }, ?_, by decide, by decide, by decide, by decide, ?_⟩
  · exact grantsOf [0xA800000000010000, 0x10000, 0x20001, 0] 0 (by decide) rfl (by unfold dwordBits; decide) upConn (by decide)
  · intro n hn; fin_cases hn <;> exact ⟨upConn, by decide, rfl, by decide⟩
theorem test_hyp_coll_no_group (r p x y : Nat) : ¬GroupOf (collState []) 0 1 r p x y := fun ⟨_, h, _⟩ => absurd h.2.1 (by decide)
theorem test_hyp_coll_pages : (match (collState []).srcPages (some 0) 0 true (collFields (collDesc sum4 0)) (collFields (collDesc sum4 0)).dies with | (_, .ok xs) => xs == [[(0, 0)]] | _ => false) = true ∧
    (match (collState []).localPages (some 0) 0 true .stp (pagesOf 0x3100 8) with | (_, .ok xs) => xs == [(0, 0)] | _ => false) = true := by decide
theorem test_hyp_coll_order : permutes 2 [1, 0] ∧ ¬permutes 2 [1, 1] := by unfold permutes; decide
theorem test_hyp_bkt : ∀ b ∈ [200, 256], let s := regs [(134, 0x10005), (135, BitVec.ofNat 64 b)] base
    let i := Instr.bkt (en 0xC0 134 135 0xC0 .no .n64 0)
    s.clear i ∧ s.issuing i = s.lanesM i ∧ s.lanesM i = [0, 1, 2] ∧ (∀ m ∈ s.lanesM i, (s.op64 0 0 m 135).toNat = b ∧ s.op64 0 0 m 134 = 0x10005) := by decide

/-- The collective runs; both ranks hold 1.0, 2.0, 3.0, 4.0 or so in bf16. -/
def collSt (ws : List Word) (pri : Nat) (run : Bool) : CollSt := { who := ⟨0, 0, 0⟩, ctx := 0, desc := ws, rank := 0, ranks := 2, conns := (1, 2), order := [], chain := false, pri := pri, tag := 5, issued := 9, fut := some entry3, running := run, user := true, srcs := [[(0, 0)]], dsts := [(0, 0)], metAt := some 9 }
def merging (ws : List Word) : State := { base with mem := tables.write 0x3000 ([0x3F80, 0x4000, 0x4040, 0x4080].flatMap (leBytes 2 ·)), colls := [(9, collSt ws 9 true)], fut := [(3, { gen := 1, busy := true })] }
def rank1 (n : Nat) : RankData := { rank := 1, vals := List.replicate n 0x3F800000, bad := List.replicate n false }
theorem test_hyp_coll_perform : let s := merging (collDesc sum4 0)
    s.colls.find? 9 = some (collSt (collDesc sum4 0) 9 true) ∧ [rank1 4].length + 1 = 2 ∧ (rank1 4).vals.length = 4 ∧ (∀ r < 2, r ≠ 0 → ∃ o ∈ [rank1 4], o.rank = r) ∧ found [(0, 0)] 0x3100 8 ∧ s.mons = [] ∧ s.pal = [] := by
  unfold found; decide
/-- Two collectives that may run, and one that waits for its semaphore. -/
theorem test_hyp_coll_yield : let s : State := { base with colls := [(9, collSt [] 9 true), (10, collSt [] 7 false)] }
    (s.colls.map (·.1)).Nodup ∧ (∀ y ∈ s.colls, y.2.chain = false) ∧ (∃ y ∈ s.colls, y.1 ≠ 9 ∧ y.2.metAt ≠ none) := by decide
theorem test_hyp_coll_sem : ∀ b ∈ [false, true], let x := { collSt [] 9 false with semGot := some (if b then frontierAhead else 0), metAt := none }
    x.metAt = none ∧ HoldsWit (if b then frontierAhead else 0) ∧ ({ base with colls := [(9, x)] } : State).satisfied (if b then frontierAhead else 0) 0 = !b := by unfold HoldsWit; decide +kernel

-- Premises: the front, the host and the package

def waiting (line : Nat) : State := (held base).modLane 0 0 1 fun x => { x with park := .fetch, pc := BitVec.ofNat 64 (128 * line) }
theorem test_hyp_fetch : waitsLine (waiting 6) 0 0 1 6 ∧ ¬waitsLine (waiting 6) 0 0 0 6 ∧ ((waiting 6).lanes.map (·.1)).Nodup := by
  refine ⟨⟨rfl, ?_⟩, fun h => absurd h.1 (by decide), by decide⟩
  intro pa h
  have : ((waiting 6).fetchPlace 0 0 1 ((waiting 6).lane 0 0 1).pc).2 = some 768 := by decide
  rw [this] at h; cases h; rfl
theorem test_hyp_fetch_idle (w l : Nat) : ¬waitsLine { base with lanes := [] } 0 w l 6 := fun h => absurd h.1 (by
  have : ({ base with lanes := [] } : State).lane 0 w l = {} := rfl
  rw [this]; decide)
def filling (base_ : Nat) : Fill := { core := 0, sub := 1, slot := 12, base := base_, lanes := 5 }
theorem test_hyp_fill : ∀ b ∈ [0x300, 0x10000], let s : State := { held base with fills := [filling b] }
    (s.fills.find? fun (y : Fill) => y.core == 0 && y.sub == 1) = some (filling b) ∧ (filling b).lanes.lanes.head? = some 0 ∧ ((s.fetchPlace 0 12 0 (BitVec.ofNat 64 b)).2.isSome = decide (b = 0x300)) := by decide

/-- An entry of the inbound map: 4 KiB at offset 0x1000, context 0 at 0x3000, with the given permissions (bits 62 to 60). -/
def inEntry (p : Nat) : List Word := [BitVec.ofNat 64 (2 ^ 63 + p * 2 ^ 60), 0x1000, 0x1000, 0x3000]
def hostState (p : Nat) : State := { held base with inb := [(0, inEntry p)] }
theorem test_hyp_host_runs : HostRuns (hostState 7) 0x1FF8 8 62 0 0x3FF8 ∧ HostRuns (hostState 2) 0x1000 8 61 0 0x3000 ∧ HostRuns (hostState 1) 0x1FF8 8 60 0 0x3FF8 := by
  refine ⟨⟨0, _, rfl, ?_⟩, ⟨0, _, rfl, ?_⟩, ⟨0, _, rfl, ?_⟩⟩ <;> (unfold dwordBits servesOff dwordBits; decide)
/-- Not allowed, past the entry's end, and served by two entries. -/
theorem test_hyp_host_refused (ctx va : Nat) : ¬HostRuns (hostState 6) 0x1000 8 60 ctx va ∧ ¬HostRuns (hostState 7) 0x1FF9 8 62 ctx va ∧ ¬HostRuns { hostState 7 with inb := [(0, inEntry 7), (1, inEntry 7)] } 0x1000 8 62 ctx va := by
  refine ⟨?_, ?_, ?_⟩
  · rintro ⟨i, e, h1, h2, -⟩
    have : ((hostState 6).inb.filter fun (x : Nat × List Word) => servesOff x.2 0x1000) = [(0, inEntry 6)] := by decide
    rw [this] at h1; cases h1; exact absurd h2 (by decide)
  · rintro ⟨i, e, h1, -, h3, -⟩
    have : ((hostState 7).inb.filter fun (x : Nat × List Word) => servesOff x.2 0x1FF9) = [(0, inEntry 7)] := by decide
    rw [this] at h1; cases h1; exact absurd h3 (by decide)
  · rintro ⟨i, e, h1, -⟩
    have : (({ hostState 7 with inb := [(0, inEntry 7), (1, inEntry 7)] } : State).inb.filter fun (x : Nat × List Word) => servesOff x.2 0x1000) = [(0, inEntry 7), (1, inEntry 7)] := by decide
    rw [this] at h1; cases h1
theorem test_hyp_host_places : ∀ w ∈ [false, true], (match (hostState 7).hostPlaces 0 w (rowPieces 0x3FF8 8) with | (_, some xs) => xs.map (fun x => (x.1, x.2.2)) == [(.hbm 0x3FF8, 8)] | _ => false) = true ∧
    (match (hostState 7).hostPlaces 0 w (rowPieces 0x10000 8) with | (_, none) => true | _ => false) = true ∧ (hostState 7).engineOpen 0 (.hbm 0x3FF8) = true := by decide
theorem test_hyp_host_atomic : (match (hostState 7).enginePlace none 0 true .atomic 0x3FF8 8 with | (_, .ok (.hbm a, _)) => a == 0x3FF8 | _ => false) = true ∧
    (match (hostState 7).enginePlace none 0 true .atomic 0x10000 8 with | (_, .error _) => true | _ => false) = true ∧ (hostState 7).mons = [] ∧ (hostState 7).pal = [] := by decide
theorem test_hyp_imsic : ∀ x ∈ [(5, 1), (31, 2047), (32, 1), (5, 0), (5, 2048)], ({ base with imsg := [(4, x)] } : State).imsg.find? 4 = some x := by decide

/-- Pair 0 leads at term 3; pairs 1 and 2 work. -/
def leading (now : Nat) (lead : Word) (hb : Nat) (view : Nat) : State := { base with now := now, lead := lead, hbeat := hb, fence := 3, pairs := [0, 1, 2].map fun d => (d, { working := true, term := view }) }
theorem test_hyp_lead : canLead (leading 5000 0x300000008 1 3) 2 ∧ ¬canLead { base with pairs := [(2, { failed := true })] } 2 ∧ leadTerm 0x300000008 = 3 ∧ leadHeld 0x300000008 ∧ leadDie 0x300000008 = 0 ∧ ¬leadHeld 0 := by unfold canLead leadTerm leadHeld leadDie; decide
theorem test_hyp_ring : RingDistance (leading 5000 0x300000008 1 3) 2 2 ∧ RingDistance (leading 5000 0x300000008 1 3) 1 1 := by
  exact ⟨⟨2, by decide, by decide, by decide, by unfold canLead; decide, by decide, by decide⟩, ⟨1, by decide, by decide, by decide, by unfold canLead; decide, by decide, by decide⟩⟩
theorem test_hyp_takeover : ∀ b ∈ [false, true], let s := leading (if b then 12000001 else 12000000) 0x300000008 1 3
    (s.hbeat ≠ 0 ∧ s.hbeat + 10000000 + (2 - 1) * 2000000 ≤ s.now) ↔ b = true := by decide
theorem test_hyp_stale : (((leading 5000 0x300000008 1 2).pairs.get {} 2).term < leadTerm 0x300000008) ∧ ((leading 5000 0x300000008 1 2).pairs.get {} 2).term < (leading 5000 0x300000008 1 2).fence := by unfold leadTerm; decide
theorem test_hyp_boot : ∀ b ∈ [false, true], 100000 * 2 ≤ (leading (if b then 200000 else 199999) 0 0 0).now ↔ b = true := by decide
theorem test_hyp_service_store : let s := leading 5000 0x300000008 1 3
    s.fence ≤ (s.pairs.get {} 2).term ∧ s.mem.wf = true ∧ s.mons = [] ∧ s.saved = [] ∧ windowLoc (0xF00000000000 - 0xF00000000000) false .st 8 = some (.pool 0 0) ∧
    windowLoc (0xF00000080008 - 0xF00000000000) false .st 8 = some (.sp 0 8) ∧ s.absent.get false 0 = false ∧ (0xF00000080008 : Nat) % 8 = 0 := by decide
theorem test_hyp_register_write : ∃ y ∈ burzonWrites (leading 5000 0x300000008 1 3) 7 5, 0xF80000A00008 = 0xF80000000000 + y.1 := ⟨_, by simp [burzonWrites]; right; right; right; right; right; right; right; left; rfl, rfl⟩
/-- Images of dies 0 and 1: one runs, one is too old, one does not verify. -/
theorem test_hyp_images : let s : State := { base with minVer := [(0, 5)] }
    ([(0, 5, true), (1, 4, true), (8, 9, false)].filter fun (x : Nat × Nat × Bool) => x.2.2 && decide (s.minVer.get 0 (x.1 / 8) ≤ x.2.1)) = [(0, 5, true)] := by decide
theorem test_hyp_records : (7 ∉ base.chanFail) ∧ 9 ∉ base.retired ∧ base.teams.find? 9 = none ∧ base.saved = [] := by decide

/-- The example of R64, placed where the first step fetches, is the first word that runs. -/
theorem test_first_step : let s := State.reset.withFetchWord 64 0x03B08120210010A7
    (match State.front { s with now := s.now + 1 } with | (_, .issue x) => x.word == 0x03B08120210010A7 && x.core == 0 | _ => false) = true := by decide +kernel
theorem test_stopped : (match step { base with stopped := true } with | .fault .moduleStopped => true | _ => false) = true := by decide
/-- An issued word that decodes, one that does not, and a step of the schedule. -/
theorem test_hyp_front : let s := State.reset.withFetchWord 64 0
    (match State.front { s with now := s.now + 1 } with | (_, .issue x) => (match decode x.word with | .error _ => true | _ => false) | _ => false) = true ∧
    (match State.front { State.reset with now := 1, agenda := [.event (.imsicMessage 4)] } with | (_, .event _) => true | _ => false) = true := by decide +kernel
theorem test_hyp_checks : (base.check (.tret (au 0xC0 0xC0 0xC0 0xC0 .n64)) [0]).isSome ∧ base.userMode (base.issuing (.tret (au 0xC0 0xC0 0xC0 0xC0 .n64))) = true := by decide

-- Results that the spec states, one word at a time

/-- Register r of lane 0 after a word, with these registers before. -/
def after (i : Instr) (xs : List (Nat × Word)) (r : Nat) : Option Word :=
  match exec i (regs xs solo) with
  | .next t => if (t.lane 0 0 0).handler then none else some (t.reg 0 0 0 r)
  | _ => none
def al (a b c : BitVec 8) (ty : Ty) : Alu := au 4 a b c ty

/-- R114: each subelement wraps; `.sat` stops at the type's limits. -/
theorem test_add_wraps : after (.add (al 6 7 0xC0 .i32)) [(6, 0x7FFFFFFFFFFFFFFF), (7, 0x0000000100000001)] 4 = some 0x8000000000000000 := by decide
theorem test_sub_saturates : after (.sub { al 6 7 0xC0 .n8 with sat := true }) [(6, 0x05), (7, 0xFF00000000000006)] 4 = some 0 := by decide
theorem test_abs_of_minimum : after (.abs (al 6 0xC0 0xC0 .i16)) [(6, 0x80007FFFFFFF0000)] 4 = some 0x80007FFF00010000 ∧ after (.abs { al 6 0xC0 0xC0 .i16 with sat := true }) [(6, 0x8000000000000000)] 4 = some 0x7FFF000000000000 := by decide
/-- R115: a quotient truncates towards zero, and is all ones over zero. -/
theorem test_div : after (.div (al 6 7 0xC0 .i32)) [(6, 0xFFFFFFF900000007), (7, 0x0000000200000000)] 4 = some 0xFFFFFFFDFFFFFFFF := by decide
theorem test_rem_by_zero : after (.rem (al 6 7 0xC0 .i32)) [(6, 0xFFFFFFF900000007), (7, 0x0000000200000000)] 4 = some 0xFFFFFFFF00000007 := by decide
/-- R116: the carry out of all ones. -/
theorem test_addc : ∀ r ∈ [(4, 0), (5, 1)], after (.addc (al 6 7 8 .n64)) [(6, 0xFFFFFFFFFFFFFFFF), (7, 0), (8, 3)] r.1 = some (BitVec.ofNat 64 r.2) := by decide
/-- R120: shifts by the width and more. -/
theorem test_shl_by_width : after (.shl (al 6 7 0xC0 .n32)) [(6, 0x0000000100000001), (7, 0x0000001F00000020)] 4 = some 0x8000000000000000 := by decide
theorem test_sar_by_more : after (.sar (al 6 7 0xC0 .n16)) [(6, 0x80007FFF80007FFF), (7, 0xFFFFFFFF00010001)] 4 = some 0xFFFF0000C0003FFF := by decide
/-- R125, R253: 2^24 + 1 ties to even; rounding up and the overflow of the greatest f32. -/
theorem test_fadd_ties : after (.fadd (al 6 7 0xC0 .f32)) [(6, 0x7F7FFFFF4B800000), (7, 0x7F7FFFFF3F800000)] 4 = some 0x7F8000004B800000 := by decide +kernel
theorem test_fadd_up : after (.fadd { al 6 7 0xC0 .f32 with rm := .rup, sat := true }) [(6, 0x7F7FFFFF4B800000), (7, 0x7F7FFFFF3F800000)] 4 = some 0x7F7FFFFF4B800001 := by decide +kernel
/-- The worked `cvt` of group 4: two f32 values to the low halfwords, and under `.hi` to the high ones. -/
theorem test_cvt : after (.cvt (al 6 0xC0 0x0A .f16)) [(6, 0x400000003F800000), (4, 0x1111222233334444)] 4 = some 0x40003C00 := by decide +kernel
/-- R98, R99: `srseed` gives lane 0 the state 1; its draw 0 is below f, and rounds 1 + 2^−9 up to bf16. -/
theorem test_srseed : (match exec (.srseedWrite (im 0xC0 6 0x0D .n64)) (regs [(6, 0x9E3779B97F4A7C14)] solo) with | .next t => (t.lane 0 0 0).gen == 1 | _ => false) = true := by decide
theorem test_cvt_sr : (match exec (.cvt { al 6 0xC0 0x0A .bf16 with rm := .sr, lo := true }) ((regs [(6, 0x3F804000)] solo).modLane 0 0 0 fun x => { x with gen := 1 }) with
    | .next t => (t.reg 0 0 0 4).toNat % 65536 == 0x3F81 && (t.lane 0 0 0).gen == 0x40822041 | _ => false) = true := by decide +kernel
/-- R133's example: a position by f64 differences. -/
theorem test_xfm : after (.xfm (al 20 30 0xC0 .f32)) [(20, 0x4072C00001000000), (30, 0x4072B80000000000), (33, 0x3F800000), (35, 0x3F80000000000000), (38, 0x3F800000)] 4 = some 0x3F000010 := by decide +kernel
/-- R139's example, in four lanes: the tree gives 1.0, and the last lane of the scan +0. -/
def summing : State :=
  let s : State := { base with lanes := base.lanes ++ [(3, { live := true, pc := 8 })], cur := { base.cur with lanes := 15 } }
  [(0, 0x4B800000), (1, 0x3F800000), (2, 0x3F800000), (3, 0xCB800000)].foldl (fun s x => s.putReg 0 0 x.1 6 x.2 {}) s
theorem test_redux : (match exec (.redux (al 6 0xC0 138 .f32)) (summing.putReg 0 0 0 138 15 {}) with | .next t => (List.range 4).map (fun l => (t.reg 0 0 l 4).toNat % 2 ^ 32) | _ => []) = [0x3F800000, 0x3F800000, 0x3F800000, 0x3F800000] := by decide +kernel
theorem test_scan : (match exec (.scan (al 6 0xC0 138 .f32)) (summing.putReg 0 0 0 138 15 {}) with | .next t => (List.range 4).map (fun l => (t.reg 0 0 l 4).toNat % 2 ^ 32) | _ => []) = [0x4B800000, 0x4B800000, 0x4B800000, 0] := by decide +kernel
/-- R177, R182, R183: the examples with λ[3] = 0.75. -/
def three4 : CtxSt := { live := true, pgroot := 0x10000, pow := [(3, powRow 24 0x3F400000)] }
theorem test_decayed_values : [0x001000, 0x001005, 0x001010, 0x801000].map (three4.dval 0x0300100041000000) = [0x41000000, 0x3FF30000, 0x3DA435D0, 0] := by decide +kernel
theorem test_decayed_sums : three4.addDw 0x0300100041000000 0x1005 0x3F800000 = 0x0300100540398000 ∧ three4.mrgDw 0x0300100041000000 0x030010033F800000 0x1005 = 0x03001003408C0000 := by decide +kernel
theorem test_dcvt : (match exec (.dcvt (al 6 7 0xC0 .dw)) { regs [(6, 0x0300100041000000), (7, 0x1005)] solo with ctxs := [(0, three4)] } with | .next t => t.reg 0 0 0 4 | _ => 0) = 0x030010053FF30000 := by decide +kernel
/-- R253's example, lane by lane. -/
theorem test_atomic_add : ∀ x ∈ [(0, 0x4B800000), (0x4B800000, 0x3F800000)], (match exec (.haRequestPerform 1) { base with mem := tables.write 0x100 (leBytes 4 x.1), reqs := [(1, { req (.atomic 0 .f32 x.2 0 .pk true) with own := false, path := some 0 })], seq := 2 } with
    | .next t => (leNat (t.bytes (.hbm 0x100) 4), t.replies.map fun y => y.2.regs.head?.map fun z => z.2.1.toNat) | _ => (0, [])) = (0x4B800000, [some x.1]) := by decide +kernel
/-- R141's format words. -/
theorem test_format_words : (fmtWord 0x71EF).map (fun f => (f.aty, f.bty, f.act, f.scm, f.ovf, f.ie)) = some (.b8p4, .b8p4, 0, 3, true, false) ∧ (fmtWord 0xF1EF).map (fun f => (f.scm, f.ie)) = some (3, true) ∧ (fmtWord 0xC1EF).map (fun f => (f.scm, f.ie)) = some (0, true) := by decide
/-- R196's address, R297's run. -/
theorem test_agent_of_address : haOf 0x00A000012C00 = 0x14B := by decide
theorem test_wire_run : let xs := [0x40400000, 0x3DCCCCCD] ++ List.replicate 62 0
    runScale xs = 0x7A ∧ (wireRun xs).take 3 = [0x40400000, 0x3DD00000, 0] := by decide +kernel
/-- R323's table: the passes in which the inner loop goes on, ends, and ends with the outer one. -/
def atDone (inner outer : BitVec 32) : State := solo.modLane 0 0 0 fun x => { x with pc := 0x318, lc0 := { count := outer, start := 0x308, stop := 0x318, active := true }, lc1 := { count := inner, start := 0x310, stop := 0x318, active := true }, later := true }
theorem test_loops : ∀ x ∈ [(2, 3, 1, 3, 0x310), (1, 3, 0, 2, 0x308), (1, 1, 0, 0, 0x320)], (match exec (.add (al 6 7 0xC0 .i32)) (atDone (BitVec.ofNat 32 x.1) (BitVec.ofNat 32 x.2.1)) with
    | .next t => let y := t.lane 0 0 0; (y.lc1.count.toNat, y.lc0.count.toNat, y.pc.toNat) == (x.2.2.1, x.2.2.2.1, x.2.2.2.2) && y.lc1.active == (x.1 == 2) && y.lc0.active == (x.2.2.2.2 != 0x320) | _ => false) = true := by decide
/-- R321's example: `brx` to `land` at 0x340, to no word and to another one. -/
theorem test_brx : let s := { (held summing) with mem := (tables.write 0x340 (leBytes 8 0x03F0B81818180700)).write 0x348 (leBytes 8 0x15980080E1580A38) }
    let s := [(0, 0x340), (1, 0x340), (2, 0x344), (3, 0x348)].foldl (fun (s : State) (x : Nat × Word) => s.putReg 0 0 x.1 9 x.2 {}) s
    (match exec (.brx (au 0xC0 9 0xC0 0xC0 .n64)) s with | .next t => (List.range 4).map fun l => ((t.lane 0 0 l).handler, decide ((t.lane 0 0 l).pc = 0x340)) | _ => []) = [(false, true), (false, true), (true, false), (true, false)] := by decide +kernel

-- Premises: copies in L1, places that stand, representatives, waits for the lane's own accesses

/-- Core 0 holds the line at 0 of context 0. -/
def cached : State := { solo with l1 := [(0, { ctx := 0, valid := 0xFFFFFFFF, bytes := List.replicate 128 7, bad := [] })] }
theorem test_hyp_l1_miss : solo.l1Hit 0 0 0 0x7F (.hbm 32) 4 = none := rfl
theorem test_hyp_l1_hit : ((cached.l1Hit 0 0 0 0x7F (.hbm 32) 4).map (·.1)) = some [7, 7, 7, 7] := by decide
theorem test_hyp_stands (op : ReqOp) : standsHere (asking op) (req op) := ⟨trivial, trivial⟩
theorem test_hyp_stands_sp : let r := { req (.load .n64) with loc := .sp 0 0x5FFF8, own := true, team := 1 }
    standsHere base r := ⟨by show 0 < 1536; decide, _, rfl, rfl, by decide, rfl⟩
/-- A store of the lane to a package semaphore stands before its load of the same word. -/
theorem test_hyp_semaphore_busy : let s := one (asking (.store [1] .pk))
    ({ s with reqs := [(1, { req (.store (leBytes 8 1) .pk) with loc := .burzon 0x100000 })] } : State).laneBusy 0 0 0 (.burzon 0x100000) 8 = true ∧ s.laneBusy 0 0 0 (.burzon 0x100000) 8 = false := by decide
/-- Line 2, of zeros, lies in a page whose tolerance is 1 step of f32; its HA holds a block of least numbers. -/
def near : State := { base with dirty := [(2, true)], attrs := [(0, 2 ^ 12 + 2 ^ 16)], reps := [{ ha := haOf 256, et := 0, t := 1, bytes := (List.replicate 32 [1, 0, 0, 0]).flatten, bad := [] }] }
theorem test_hyp_representative : near.dirty.get false 2 = true ∧ near.lineTol 2 = some 1 ∧ (near.repsNear 1 2).length = 1 ∧ ∀ r ∈ near.reps, r.bytes.length = 128 := by decide +kernel
theorem test_hyp_gone : ∀ x ∈ [Loc.sync 0 (16 * 63), .burzon (0x100000 + 32 * 4095)], let s := semAsked x {}
    s.gone (semReq x) = false ∧ (s.teams.find? 0).isSome := by decide
theorem test_hyp_read_here : readHere base 0 (.hbm 0x100) ∧ readHere base 0 (.sp 0 64) := ⟨trivial, _, rfl, rfl⟩
/-- An agent has an entry free; a polled monitor moves there. -/
theorem test_hyp_monitor_room : (watching true base).monRoom (monitor true).who (monitor true).loc = true := by decide
theorem test_hyp_access_close : let s := asking (.load .n64)
    s.now < (req (.load .n64)).since + 1000000 ∧ ¬({ s with now := 1000000 } : State).now < (req (.load .n64)).since + 1000000 := by decide
/-- The `stepadv` of lane 0: HA 3 has not swept; then core 0 has not adopted. -/
def stepping (next : Option Nat) : State := { base with ctxs := [(0, { live := true, pgroot := 0x10000, step := 0x3FFFFF, next := next, advs := [{ who := ⟨0, 0, 0⟩, lanes := 1, team := 1, n := 1, dst := some 4 }] })], tags := [(2, 0)] }.modLane 0 0 0 fun x => { x with park := .step }
theorem test_hyp_step_adopts : ∀ n ∈ [none, some 0x400000], let s := stepping n
    s.stepping = [0] ∧ s.conns = [] ∧ s.colls = [] ∧ s.mons = [] ∧ Tab.sortedFrom 0 s.tags = true ∧ (s.ctxs.get {} 0).next = n ∧ published s 3 + 64 ≤ s.now ∧ (s.ctxs.get {} 0).swept.get false 3 = false ∧
    (s.lane 0 0 0).live = true ∧ (s.lane 0 0 0).park = .step ∧ Tab.sortedFrom 0 s.ct = true := by decide
theorem test_hyp_step_all : (∀ a, published (stepping (some 0x400000)) a + 64 ≤ (stepping (some 0x400000)).now) ∧ (stepping none).wf ∧ residentTeam (stepping none) 0 1 :=
  ⟨fun _ => by show 0 + 64 ≤ 5000; decide, ⟨by decide, by decide⟩, _, rfl, rfl, by decide⟩
theorem test_hyp_atomd_reply_team : residentTeam base 0 1 := ⟨_, rfl, rfl, by decide⟩

-- Premises: teams swapped out, work that closes, nodes and links

/-- Core 0's one team is swapped out; its lane 0 waits for semaphore 63 since tick 100. -/
def sleeper : Saved :=
  let s := (semTeam { wait := [{ who := .lanes 0 0 1 1 none, thr := 9, take := false, since := 100 }] });
  { core := 0, team := s.team 0, img := (s.modLane 0 0 0 fun x => { x with park := .sem }).imageOf 0, swapped := true, queued := false, at_ := 200 }
def asleep (now : Nat) : State := { base with now := now, teams := [], warps := [], lanes := [], saved := [sleeper] }
theorem test_hyp_overdue : ∀ now ∈ [5000, 100000100], let s := asleep now
    let t := (s.setImage 0 sleeper.img).setTeam 0 sleeper.team
    (s.lane 0 0 0).live = false ∧ (t.lane 0 0 0).live = true ∧ (t.lane 0 0 0).park = .sem ∧ (t.semWaiting 0 0 0).isSome ∧ sleeper.core = 0 := by decide +kernel

/-- The same copy before its moves, with moves that closed or may not have, and with a destination on a core without a team. -/
theorem test_hyp_copy_stages : let o : Opened := { writesNow with tick := 4999 }
    ({ copyJob with shut := some o }).shut = some o ∧ (∀ a ∈ o.agents, a < 0x800) ∧ o.links = [] ∧ 1 ≤ copyJob.sc.code.toNat ∧ copyJob.sc.code.toNat ≤ 11 ∧ copyJob.shut = none ∧ copyJob.fence = none := by decide
theorem test_hyp_copy_gone : windowGone base 0 (.sp 5 0) ∧ ¬windowGone base 0 (.sp 0 0) := by
  refine ⟨⟨fun t h => (nomatch h), fun y h => (nomatch h)⟩, fun h => ?_⟩
  exact h.1 _ rfl rfl

/-- A fence of all queues and one of the Mill alone, each with its place in the Mill's queue. -/
def millFence (id : Nat) : MillJob := { desc := [7], fut := some { core := 0, ent := 3, gen := 1 }, user := false, fence := some id }
theorem test_hyp_mill_fence : let s : State := { base with teams := [(0, { nid := 1, nwarp := 1, nreg := 64, mill := [millFence 7] })], fut := [(3, { gen := 1, busy := true })] }
    (s.team 0).mill = [millFence 7] ∧ (s.team 0).millHalt = 0 ∧ Holds s { core := 0, ent := 3, gen := 1 } ∧ (millFence 7).desc = [BitVec.ofNat 64 Scope.pk.code.toNat] ∧ (millFence 7).wit = 0 := by unfold Holds; decide
theorem test_hyp_mill_shut : let j : MillJob := { millJob chainWords with shut := some writesNow }
    j.shut = some writesNow ∧ writesNow.links = [] ∧ (∀ a ∈ writesNow.agents, a < 0x800) ∧ (millJob chainWords).pos = 0 ∧ (millJob chainWords).begun = false := by decide

/-- A `qpop` of warp 1 waits at an empty queue; a `qpush` of it at a full one. -/
def aqWaiting (n : Nat) (push : Option (List Word × List Bool)) : State :=
  let s := (aqState n);
  { s with teams := s.teams.map fun (x : Nat × TeamSt) => (x.1, { x.2 with nwarp := 2, aqWait := [(3, [{ slot := 1, lanes := 1, push := push, dst := 4, since := 9 }])] }), warps := [(0, { bnd := 64 }), (1, { bnd := 64 })] }.modLane 0 1 0 fun x => { x with live := true, park := .queue }
theorem test_hyp_queue_waiters : ∀ x ∈ [(Instr.qpush (en 0xC0 5 0xC0 3 .no .n64 0), 0, none), (.qpop (en 4 0xC0 0xC0 3 .no .n64 0), 16, some (List.replicate 32 7, List.replicate 32 false))], let s := aqWaiting x.2.1 x.2.2
    s.clear x.1 ∧ s.issuing x.1 = s.lanesM x.1 ∧ s.lanesM x.1 ≠ [] ∧ ((s.team 0).aqWait.get [] 3).map (fun y => (y.slot, y.push)) = [(1, x.2.2)] ∧ ((s.team 0).aq.get {} 3).ents.length = x.2.1 ∧
      (s.lane 0 1 0).park = .queue := by decide

/-- The last of a tile's rows, whose D is a register. -/
def lastRow : Req := { req (.tile (storeMode (rowWord 130 0xC0 4) none) [{ loc := .hbm 0x100, vals := List.replicate 32 0, draws := [], bad := [] }] .pk) with join := some 7, dst := some 10, lanes := 1, path := some 0 }
def lastJoin : Join := { who := ⟨0, 0, 0⟩, lanes := 1, team := 1, id := 7, dst := some 10, left := 1, wits := [] }
theorem test_hyp_tile_row : let s := { asking lastRow.op with joins := [(7, lastJoin)] }
    s.joins.find? 7 = some lastJoin ∧ lastJoin.lanes = Mask.one lastRow.who.lane ∧ lastRow.lanes = lastJoin.lanes ∧ lastRow.who = lastJoin.who ∧ lastRow.join = some 7 ∧ lastJoin.fut = none := by decide

theorem test_hyp_open_to : openTo base 1 0 5 ∧ openTo { base with nodes := [(2, node 0x3000000000000000 small)], drains := [{ node := 2, cores := [5], deadline := 9, expired := false }] } 1 0 5 := by
  refine ⟨⟨List.not_mem_nil, fun d h => (nomatch h)⟩, List.not_mem_nil, fun d h => .inr (.inr fun m hm => ?_)⟩
  rw [List.mem_singleton.1 h] at hm; cases hm
  exact (by unfold dwordBits; decide : 0 < dwordBits (desc 0x3000000000000000 small) 0 61 60)
theorem test_hyp_all_closed : AllClosed { base with ctBase := 4999 } 4990 ∧ ¬AllClosed { base with ctBase := 4000 } 4990 :=
  ⟨fun a _ => (by decide : tickGe (({ base with ctBase := 4999 } : State).ctOf 0) 4990 = true), fun h => absurd (h 0 (by decide)) (by decide)⟩
theorem test_hyp_node_waits_closed : let n := { finishing with endAt := some 4990, left := 0 }
    n.endAt = some 4990 ∧ n.phase = 2 ∧ (1 : Nat) = n.ctx * 65536 + n.nid := by decide
/-- A granule that the saved team had registered, and that no team has. -/
theorem test_hyp_return_mapped : let m : MapEnt := { va := 0x3000, pa := 0x5000, gr := 95, dirty := true }
    base.registered m.pa = none ∧ m.gr < 96 := by decide

/-- Nothing is out on the connection but a load of a page of the peer, which was sent at 4500. -/
def readingOnly (now : Nat) : State := { base with now := now, conns := [(1, { outConn (message 2 6 (some 10) none) with out := [] })], rrcFetch := [(4, { remoteRead false with since := 4500 })] }
theorem test_hyp_link_fails_reading : ∀ b ∈ [false, true], let s := readingOnly (if b then 50004500 else 50004499)
    (s.conns.get {} 1).out = [] ∧ (s.conns.get {} 1).up = true ∧ (max (s.conns.get {} 1).progress 4500 + 50000000 ≤ s.now ↔ b = true) ∧ (remoteRead false).ty.regs = 1 ∧ s.saved = [] := by decide

/-- A record that stands in slot 3 and whose writes may not have closed. -/
theorem test_hyp_record_placed (r : RecordIn) : ({ r with placed := some (3, writesNow) }).placed = some (3, writesNow) ∧ writesNow.links = [] := ⟨rfl, rfl⟩
/-- A collective whose result is written, and which the closing of HA 3's ticks ends. -/
theorem test_hyp_coll_shut : let x := { collSt [] 9 false with shut := some writesNow }
    let s : State := { base with colls := [(9, x)] }
    s.colls.find? 9 = some x ∧ published s 3 + 64 ≤ s.now ∧ s.conns = [] ∧ (∀ y ∈ s.ctxs, y.2.advs = []) ∧ writesNow.links = [] := by decide
/-- The last sample of a lane: its update, and then the handle that waits for HA 3 to close it. -/
def lastSamples (left : Nat) (o : Opened) : State := { base with joins := [(5, { who := ⟨0, 0, 0⟩, lanes := 1, team := 1, id := 5, dst := none, left := left, wits := [], fut := some entry3, shut := some o })], fut := [(3, { gen := 1, busy := true })] }
theorem test_hyp_samples : ∀ o ∈ [writesNow, { writesNow with tick := 4999 }], let s := lastSamples 0 o
    published s 3 + 64 ≤ s.now ∧ s.conns = [] ∧ s.colls = [] ∧ (∀ y ∈ s.ctxs, y.2.advs = []) ∧ o.links = [] ∧ s.joins.length = 1 ∧ (s.futEnt 0 3).busy = true := by decide
theorem test_hyp_last_sample : let s : State := { lastSamples 1 {} with reqs := [(1, { visReq 0 with join := some 5 })], seq := 9 }
    s.joins.length = 1 ∧ (s.joins.find? 5).any (fun o => o.left == 1 && o.shut.isSome) = true ∧ s.mons = [] ∧ s.saved = [] ∧ s.pal = [] ∧ s.canPerform { visReq 0 with join := some 5 } = true := by decide
theorem test_samples_close : (match exec (.closedTickPublish (some 3)) (lastSamples 0 { writesNow with tick := 4999 }) with | .next t => t.joins.isEmpty && ((t.futEnt 0 3).result == some (frontier 7 5000, 0, 0)) | _ => false) = true ∧
    (match exec (.closedTickPublish (some 3)) (lastSamples 0 writesNow) with | .next t => t.joins.length == 1 && (t.futEnt 0 3).result.isNone | _ => false) = true := by decide +kernel
theorem test_hyp_comes_up : comesUp { base with conns := [(1, { opened := true })] } 1 ∧ ¬comesUp base 1 := ⟨⟨_, rfl, rfl, rfl⟩, fun ⟨_, h, _⟩ => nomatch h⟩

-- Premises: the front, the host, poison

theorem test_hyp_cache_room : fullCache { base with ic := (List.range 512).map fun i => (i, { ctx := 0, bytes := [] }) } 0 600 ∧ ¬fullCache base 0 6 := by
  refine ⟨?_, fun h => absurd h.1 (by decide)⟩
  unfold fullCache
  dsimp only
  rw [List.filter_eq_self.2 (by intro x hx; obtain ⟨i, hi, rfl⟩ := List.mem_map.1 hx; have := List.mem_range.1 hi; simp; omega)]
  refine ⟨by simp, fun x hx => ?_⟩
  obtain ⟨i, hi, rfl⟩ := List.mem_map.1 hx
  have := List.mem_range.1 hi
  simp; omega
theorem test_hyp_host_waits : hostOpen { base with hostWrote := some 4000 } ∧ ¬hostOpen base ∧ ¬hostOpen { base with hostWrote := some 4000, ctBase := 4500 } := by
  refine ⟨⟨4000, rfl, 0, Nat.zero_le _, by unfold tickAtLeast; decide⟩, fun ⟨t, h, _⟩ => ?_, fun ⟨t, h, a, _, hn⟩ => ?_⟩
  · exact nomatch (h : (none : Option Nat) = some t)
  · have e : t = 4000 := (Option.some.inj (h : some 4000 = some t)).symm
    subst e
    exact hn (by unfold tickAtLeast; decide : tickAtLeast (State.ctOf { base with hostWrote := some 4000, ctBase := 4500 } 0) 4000)
theorem test_hyp_poison_window : windowLoc (0xF00000000000 - 0xF00000000000) false (.ld 8) 8 = some (.pool 0 0) ∧ holdsBytes (.pool 0 0) := ⟨by decide, by show 0 < 0x80000; decide⟩

end Sys2Proof.Tests
end

section
/-! PROOFS. Computation in registers (05, R113-R118, R123, R124): what the integer words, the sums and carries and the predicate words
leave. First the subelements and integer codes, then the bodies that a word may run, then the obligations. -/

namespace Sys2Proof.Machine

open Sys2Proof.Claims

-- Subelements

theorem getE_lt (x : Word) (w e : Nat) : getE x w e < 2 ^ w := Nat.mod_lt _ (Nat.two_pow_pos w)

theorem getE_mod (x : Word) (w e : Nat) : getE x w e % 2 ^ w = getE x w e := Nat.mod_eq_of_lt (getE_lt x w e)

/-- The subelements of a joined number are the listed codes. -/
theorem joinE_div_mod (w : Nat) (cs : List Nat) (e : Nat) : joinE w cs / 2 ^ (w * e) % 2 ^ w = cs.getD e 0 % 2 ^ w := by
  induction cs generalizing e with
  | nil => simp [joinE]
  | cons c cs ih =>
    cases e with
    | zero => simp [joinE]
    | succ e =>
      have hc : c % 2 ^ w / 2 ^ w = 0 := Nat.div_eq_of_lt (Nat.mod_lt _ (Nat.two_pow_pos w))
      have hd : joinE w (c :: cs) / 2 ^ w = joinE w cs := by
        rw [joinE, Nat.add_mul_div_left _ _ (Nat.two_pow_pos w), hc, Nat.zero_add]
      rw [Nat.mul_succ, Nat.add_comm, Nat.pow_add, ← Nat.div_div_eq_div_mul, hd, ih e, List.getD_cons_succ]

/-- A subelement that lies within the register reads as its listed code. -/
theorem getE_wordE {w e : Nat} (cs : List Nat) (h : w * e + w ≤ 64) : getE (wordE w cs) w e = cs.getD e 0 % 2 ^ w := by
  have hs : 2 ^ 64 = 2 ^ (w * e) * 2 ^ (64 - w * e) := by rw [← Nat.pow_add]; congr 1; omega
  have hd : 2 ^ w ∣ 2 ^ (64 - w * e) := Nat.pow_dvd_pow 2 (by omega)
  rw [getE, wordE, BitVec.toNat_ofNat, hs, Nat.mod_mul_right_div_self, Nat.mod_mod_of_dvd _ hd, joinE_div_mod]

theorem mul_add_le_of_lt_div {w e : Nat} (he : e < 64 / w) : w * e + w ≤ 64 :=
  calc w * e + w = w * (e + 1) := (Nat.mul_succ w e).symm
    _ ≤ w * (64 / w) := Nat.mul_le_mul_left w he
    _ ≤ 64 := Nat.mul_div_le 64 w

/-- What `mapE` leaves in each subelement (R109, R110). -/
theorem getE_mapE {w e : Nat} (lo : Bool) (old : Word) (f : Nat → Nat) (he : e < 64 / w) :
    getE (mapE w lo old f) w e = if lo && e != 0 then getE old w e else f e % 2 ^ w := by
  rw [mapE, getE_wordE _ (mul_add_le_of_lt_div he)]
  simp only [List.getD_eq_getElem?_getD, List.getElem?_map, List.getElem?_range he, Option.map_some, Option.getD_some]
  split
  · exact getE_mod old w e
  · rfl

/-- At width 64 the one subelement is the register. -/
@[simp] theorem getE_64_zero (x : Word) : getE x 64 0 = x.toNat := by
  simp [getE, Nat.mod_eq_of_lt x.isLt]

theorem mapE_64 (lo : Bool) (old : Word) (f : Nat → Nat) : mapE 64 lo old f = BitVec.ofNat 64 (f 0) := by
  apply BitVec.eq_of_toNat_eq
  simp [mapE, wordE, joinE, List.range_succ]

-- Integer values and codes

theorem intCode_lt (w : Nat) (x : Int) : intCode w x < 2 ^ w := by
  have h : (0 : Int) < (2 ^ w : Nat) := by exact_mod_cast Nat.two_pow_pos w
  have := Int.emod_lt_of_pos x h
  have := Int.emod_nonneg x h.ne'
  unfold intCode
  omega

theorem intCode_cast (w : Nat) (x : Int) : (intCode w x : Int) = x % 2 ^ w := by
  have h : ((2 ^ w : Nat) : Int) ≠ 0 := by exact_mod_cast (Nat.two_pow_pos w).ne'
  rw [intCode, Int.toNat_of_nonneg (Int.emod_nonneg x h)]
  push_cast
  rfl

theorem intCode_mod (w : Nat) (x : Int) : intCode w x % 2 ^ w = intCode w x := Nat.mod_eq_of_lt (intCode_lt w x)

/-- An integer's value is its code, mod 2^w. -/
theorem intVal_emod (sg : Bool) (w c : Nat) : intVal sg w c % 2 ^ w = ((c % 2 ^ w : Nat) : Int) := by
  unfold intVal
  split <;> push_cast <;> simp

/-- The statements' reading of a code in range is the model's. -/
theorem codeInt_eq_intVal (t : Ty) {c : Nat} (h : c < 2 ^ t.width) : codeInt t c = intVal t.signed t.width c := by
  simp [codeInt, intVal, Nat.mod_eq_of_lt h]

theorem elemInt_eq_intVal (t : Ty) (x : Word) (e : Nat) : elemInt t x e = intVal t.signed t.width (getE x t.width e) :=
  codeInt_eq_intVal t (getE_lt x t.width e)

theorem intVal_eq_zero_iff (sg : Bool) (w c : Nat) : intVal sg w c = 0 ↔ c % 2 ^ w = 0 := by
  have hlt : c % 2 ^ w < 2 ^ w := Nat.mod_lt _ (Nat.two_pow_pos w)
  have hpos : 0 < 2 ^ (w - 1) := Nat.two_pow_pos _
  simp only [intVal, Bool.and_eq_true, decide_eq_true_eq]
  generalize 2 ^ w = m at hlt ⊢
  split <;> omega

/-- IMM16 read as a signed number (R62). -/
theorem intVal_imm16 (x : BitVec 16) : intVal true 16 x.toNat = x.toInt := by
  have := x.isLt
  rw [BitVec.toInt_eq_toNat_cond]
  simp only [intVal, Bool.true_and, decide_eq_true_eq]
  split <;> split <;> omega

/-- `putInt` writes by R114. -/
theorem putInt_cast (t : Ty) (sat : Bool) (x : Int) :
    ((putInt sat t.signed t.width x % 2 ^ t.width : Nat) : Int) = written t sat x := by
  rw [putInt, intCode_mod, intCode_cast, written]
  cases sat <;> cases t.signed <;> simp [clampInt, intMin, intMax, min_comm]

theorem minE_cast (sg : Bool) (w a b : Nat) :
    ((minE sg w a b % 2 ^ w : Nat) : Int) = min (intVal sg w a) (intVal sg w b) % 2 ^ w := by
  unfold minE
  split
  · rw [min_eq_right (by omega), intVal_emod]
  · rw [min_eq_left (by omega), intVal_emod]

theorem maxE_cast (sg : Bool) (w a b : Nat) :
    ((maxE sg w a b % 2 ^ w : Nat) : Int) = max (intVal sg w a) (intVal sg w b) % 2 ^ w := by
  unfold maxE
  split
  · rw [max_eq_right (by omega), intVal_emod]
  · rw [max_eq_left (by omega), intVal_emod]

/-- The quotient of R115. -/
theorem divE_cast (sg : Bool) (w a b : Nat) : ((divE sg w a b % 2 ^ w : Nat) : Int) =
    (if intVal sg w b = 0 then 2 ^ w - 1 else (intVal sg w a).tdiv (intVal sg w b)) % 2 ^ w := by
  simp only [divE, intVal_eq_zero_iff]
  split
  · have := Nat.two_pow_pos w
    push_cast [Nat.cast_sub (show 1 ≤ 2 ^ w by omega)]
    rfl
  · rw [intCode_mod, intCode_cast]

/-- The remainder of R115. -/
theorem remE_cast (sg : Bool) (w a b : Nat) : ((remE sg w a b % 2 ^ w : Nat) : Int) =
    (if intVal sg w b = 0 then intVal sg w a else intVal sg w a - (intVal sg w a).tdiv (intVal sg w b) * intVal sg w b) % 2 ^ w := by
  simp only [remE, intVal_eq_zero_iff]
  split
  · rw [intVal_emod, Nat.mod_mod]
  · rw [intCode_mod, intCode_cast, Int.tmod_def, mul_comm]

theorem foldl_add_eq_sum {M : Type} [AddMonoid M] (h : Nat → M) (ns : List Nat) :
    ns.foldl (fun x i => x + h i) 0 = (ns.map h).sum := by
  rw [List.sum_eq_foldl, List.foldl_map]

/-- The sum of R117 over the elements of a narrower type within a result subelement. -/
theorem dotE_eq_sum (t : Ty) (w : Nat) (a b : Word) (j : Nat) : dotE t.signed w t.width a b j =
    ((List.range (w / t.width)).map fun i =>
      elemInt t a (w / t.width * j + i) * elemInt t b (w / t.width * j + i)).sum := by
  simp only [dotE, foldl_add_eq_sum, elemInt_eq_intVal, mul_comm j]

end Sys2Proof.Machine

namespace Sys2Proof

-- The opcode field of an encoding, and fields that are not allowed

theorem encFull_opcode (h : Hdr) {opc cls : Nat} (d a b : BitVec 8) (ho : opc < 2 ^ 10) (hc : cls < 2 ^ 21) :
    bits (encFull h opc d a b cls) 45 10 = opc := by
  have := d.isLt; have := a.isLt; have := b.isLt; have := bit_lt h.gneg; have := h.gp.isLt
  unfold bits encFull
  omega

theorem Alu.enc_opcode (f : Alu) {opc : Nat} (ho : opc < 2 ^ 10) : bits (f.enc opc) 45 10 = opc := by
  have := f.c.isLt; have := f.ty.code.isLt; have := f.rm.code.isLt; have := bit_lt f.sat; have := bit_lt f.lo; have := f.opx.isLt
  exact encFull_opcode _ _ _ _ ho (by omega)

theorem Imm.enc_opcode (f : Imm) {opc : Nat} (ho : opc < 2 ^ 10) : bits (f.enc opc) 45 10 = opc := by
  have := f.imm.isLt; have := f.ty.code.isLt
  exact encFull_opcode _ _ _ _ ho (by omega)

theorem Instr.fieldsOk_eq_shape_wf {i : Instr} {h : Hdr} {sh : Shape} (hf : i.form = .full h sh) : i.fieldsOk = sh.wf := by
  rw [Instr.fieldsOk, hf]

/-- A full-form word whose fields are not allowed fails check 4 of R82. -/
theorem Instr.illegal_of_shape {i : Instr} {h : Hdr} {sh : Shape} (hf : i.form = .full h sh) (hw : sh.wf = false) :
    i.illegal = some 4 := by
  simp [Instr.illegal, hf, Instr.fieldsOk_eq_shape_wf hf, hw]

/-- A code that is not accepted. -/
theorem Shape.wf_eq_false_of_ok {sh : Shape} (h : sh.ok = false) : sh.wf = false := by
  rw [Shape.wf, h, Bool.false_and]

/-- A field that is not allowed for its use. -/
theorem Shape.wf_eq_false_of_field {sh : Shape} {u : Use} {x : BitVec 8} (hm : (u, x) ∈ sh.fields) (h : u.ok x = false) :
    sh.wf = false := by
  refine Bool.eq_false_iff.mpr fun hw => ?_
  rw [Shape.wf, Bool.and_eq_true, List.all_eq_true] at hw
  have := hw.2 _ hm
  simp [h] at this

/-- An IMM16 that does not sign-extend its low byte is refused at width 8 (R118). -/
theorem Imm.fitS_eq_false {f : Imm} (hw : f.ty.width = 8) (h : ¬(-2 ^ 7 ≤ f.imm.toInt ∧ f.imm.toInt < 2 ^ 7)) : f.fitS = false := by
  have := f.imm.isLt
  rw [BitVec.toInt_eq_toNat_cond] at h
  have hn : 0x80 ≤ f.imm.toNat ∧ f.imm.toNat < 0xFF80 := by split at h <;> omega
  simp [Imm.fitS, hw, hn]

end Sys2Proof

namespace Sys2Proof.Machine

open Sys2Proof.Claims

-- Words whose one result goes to D

/-- A word whose body writes a value to D leaves that value there and changes nothing else. -/
theorem computes_toD {s : State} {i : Instr} {lat : Nat} {d : BitVec 8} {v : State → Nat → Nat → Nat → Word}
    (hx : exec i s = s.perLane i (toD lat d v)) (hc : s.clear i) :
    Computes s i d false fun l => v s s.cur.core s.cur.slot l := by
  rw [Computes, hx]
  exact State.perLane_toD hc rfl

/-- An ALU word that computes D subelement by subelement: each subelement that it computes is the code `g`, which stands for the
number `r`. -/
theorem computes_mapE {s : State} {i : Instr} {f : Alu} {lat n : Nat} {g : State → Nat → Nat → Nat → Nat → Nat} {r : Nat → Nat → Int}
    (hx : exec i s = s.perLane i (toD lat f.d fun s c w l => mapE n f.lo (s.oldD c w l f.d) (g s c w l))) (hc : s.clear i)
    (hr : ∀ l e, ((g s s.cur.core s.cur.slot l e % 2 ^ n : Nat) : Int) = r l e) :
    ∃ v, Computes s i f.d false v ∧ ∀ l ∈ s.lanesM i, eachElem s f n l (v l) (r l) := by
  refine ⟨_, computes_toD hx hc, fun l _ e he => ?_⟩
  rw [getE_mapE _ _ _ he]
  split
  · rfl
  · exact hr l e

/-- A word of two sources whose function on codes is `r` on the numbers that they stand for. -/
theorem computes_bin {s : State} {i : Instr} {f : Alu} {lat : Nat} {g : Nat → Nat → Nat} {r : Int → Int → Int}
    (hx : exec i s = s.perLane i (bin f lat g)) (hc : s.clear i)
    (hr : ∀ a b, ((g a b % 2 ^ f.ty.width : Nat) : Int) = r (intVal f.ty.signed f.ty.width a) (intVal f.ty.signed f.ty.width b)) :
    ∃ v, Computes s i f.d false v ∧ ∀ l ∈ s.lanesM i, eachElem s f f.ty.width l (v l) fun e =>
      r (elemInt f.ty (srcA s f l) e) (elemInt f.ty (srcB s f l) e) := by
  refine computes_mapE hx hc fun l e => ?_
  rw [hr, elemInt_eq_intVal, elemInt_eq_intVal]
  rfl

/-- A word of two sources that writes the exact number `r` by R114. A word of one source ignores the second. -/
theorem computes_written {s : State} {i : Instr} {f : Alu} {lat : Nat} (sat : Bool) (r : Int → Int → Int)
    (hx : exec i s = s.perLane i (bin f lat fun a b => putInt sat f.ty.signed f.ty.width
      (r (intVal f.ty.signed f.ty.width a) (intVal f.ty.signed f.ty.width b)))) (hc : s.clear i) :
    ∃ v, Computes s i f.d false v ∧ ∀ l ∈ s.lanesM i, eachElem s f f.ty.width l (v l) fun e =>
      written f.ty sat (r (elemInt f.ty (srcA s f l) e) (elemInt f.ty (srcB s f l) e)) :=
  computes_bin (r := fun a b => written f.ty sat (r a b)) hx hc fun _ _ => putInt_cast f.ty sat _

/-- An immediate form with a signed IMM16 whose function on codes is `r` on the numbers that they stand for (R118). -/
theorem computes_immOp {s : State} {i : Instr} {f : Imm} {lat : Nat} {g : Nat → Nat → Nat} {r : Int → Int → Int}
    (hx : exec i s = s.perLane i (immOp f lat true g)) (hc : s.clear i)
    (hr : ∀ a b, ((g a b % 2 ^ f.ty.width : Nat) : Int) =
      r (intVal f.ty.signed f.ty.width a) (intVal f.ty.signed f.ty.width b) % 2 ^ f.ty.width) :
    ∃ v, Computes s i f.d false v ∧ ∀ l ∈ s.lanesM i, ∀ e < 64 / f.ty.width,
      (getE (v l) f.ty.width e : Int) = r (elemInt f.ty (s.opnd s.cur.core s.cur.slot l f.ty f.a) e)
        (codeInt f.ty (f.imm.toInt % 2 ^ f.ty.width).toNat) % 2 ^ f.ty.width := by
  have hb : (f.imm.toInt % 2 ^ f.ty.width).toNat = intCode f.ty.width (intVal true 16 f.imm.toNat) := by
    rw [intVal_imm16, ← Int.toNat_natCast (intCode _ _), intCode_cast]
  refine ⟨_, computes_toD hx hc, fun l _ e he => ?_⟩
  rw [getE_mapE _ _ _ he, hb, codeInt_eq_intVal _ (intCode_lt _ _), elemInt_eq_intVal]
  exact hr _ _

-- Illegal words

/-- No opcode below 0x3C2 is privileged (R82, R422). -/
theorem forbidden_of_opcode_lt {w : Nat} (h : bits w 45 10 < 0x3C2) (user : Bool) : forbidden user w = false := by
  unfold forbidden
  split <;> simp_all

/-- A full-form word whose fields are not allowed, of an opcode that is not privileged, is illegal (R82). -/
theorem illegal_of_shape {i : Instr} {h : Hdr} {sh : Shape} (hf : i.form = .full h sh) (ho : bits (encodeNat i) 45 10 < 0x3C2)
    (hw : sh.wf = false) : Illegal i := by
  refine ⟨by simp [Instr.wf, Instr.fieldsOk_eq_shape_wf hf, hw], fun s ls => ⟨4, ?_⟩⟩
  simp [State.check, Instr.illegal_of_shape hf hw, forbidden_of_opcode_lt ho]

/-- A word that passes its checks has allowed fields. -/
theorem State.shape_wf_of_passes {s : State} {i : Instr} {h : Hdr} {sh : Shape} (hp : s.passes i) (hf : i.form = .full h sh) :
    sh.wf = true := by
  by_contra hw
  have hp' : s.check i (s.issuing i) = none := hp
  simp only [State.check, Instr.illegal_of_shape hf (Bool.eq_false_iff.mpr hw)] at hp'
  split at hp'
  · cases hp'
  · split at hp' <;> cases hp'

theorem illegal_of_ok {i : Instr} {f : Alu} {sh : Shape} {opc : Nat} (hf : i.form = .full f.h sh) (he : encodeNat i = f.enc opc)
    (ho : opc < 0x3C2) (h : sh.ok = false) : Illegal i :=
  illegal_of_shape hf (by rwa [he, Alu.enc_opcode f (by omega)]) (Shape.wf_eq_false_of_ok h)

theorem illegal_of_field {i : Instr} {f : Alu} {sh : Shape} {opc : Nat} {u : Use} {x : BitVec 8} (hf : i.form = .full f.h sh)
    (he : encodeNat i = f.enc opc) (ho : opc < 0x3C2) (hm : (u, x) ∈ sh.fields) (h : u.ok x = false) : Illegal i :=
  illegal_of_shape hf (by rwa [he, Alu.enc_opcode f (by omega)]) (Shape.wf_eq_false_of_field hm h)

/-- An immediate form with an IMM16 that does not fit its 8 bits is illegal (R118). -/
theorem illegal_of_intS {i : Instr} {f : Imm} {opc lat : Nat} (hf : i.form = .full f.h (f.intS lat)) (he : encodeNat i = f.enc opc)
    (ho : opc < 0x3C2) (hw : f.ty.width = 8) (h : ¬(-2 ^ 7 ≤ f.imm.toInt ∧ f.imm.toInt < 2 ^ 7)) : Illegal i :=
  illegal_of_shape hf (by rwa [he, Imm.enc_opcode f (by omega)]) (Shape.wf_eq_false_of_ok (Imm.fitS_eq_false hw h))

-- Integer words (R113-R115, R118)

theorem intWords_leave_exact_results : Integer_words := by
  intro s f
  simp only [intWords, List.forall_mem_cons]
  refine ⟨fun hc => ?_, fun hc => ?_, fun hc => ?_, fun hc => ?_, fun hc => ?_, fun hc => ?_, fun hc => ?_, fun hc => ?_, by simp⟩
  · exact computes_written f.sat (fun a b => a + b) rfl hc
  · exact computes_written f.sat (fun a b => a - b) rfl hc
  · exact computes_written f.sat (fun a b => a * b) rfl hc
  · exact computes_written false (fun a b => a * b / 2 ^ f.ty.width) rfl hc
  · exact computes_bin (r := fun a b => written f.ty false (min a b)) rfl hc (minE_cast _ _)
  · exact computes_bin (r := fun a b => written f.ty false (max a b)) rfl hc (maxE_cast _ _)
  · simpa only [Int.abs_eq_natAbs] using computes_written f.sat (fun a _ => (a.natAbs : Int)) rfl hc
  · exact computes_written f.sat (fun a _ => -a) rfl hc

theorem divisionWords_leave_quotient_and_remainder : Division_words := by
  intro s f
  simp only [divisionWords, List.forall_mem_cons]
  refine ⟨fun hc => ?_, fun hc => ?_, by simp⟩
  · exact computes_bin (r := fun a b => (if b = 0 then 2 ^ f.ty.width - 1 else a.tdiv b) % 2 ^ f.ty.width) rfl hc (divE_cast _ _)
  · exact computes_bin (r := fun a b => (if b = 0 then a else a - a.tdiv b * b) % 2 ^ f.ty.width) rfl hc (remE_cast _ _)

theorem immWords_leave_results : Immediate_words := by
  intro s f
  simp only [immWords, List.forall_mem_cons]
  refine ⟨⟨fun hc => ?_, illegal_of_intS rfl rfl (by decide)⟩, ⟨fun hc => ?_, illegal_of_intS rfl rfl (by decide)⟩,
    ⟨fun hc => ?_, illegal_of_intS rfl rfl (by decide)⟩, ⟨fun hc => ?_, illegal_of_intS rfl rfl (by decide)⟩,
    ⟨fun hc => ?_, illegal_of_intS rfl rfl (by decide)⟩, by simp⟩
  · exact computes_immOp (r := fun a b => a + b) rfl hc fun a b => putInt_cast f.ty false _
  · exact computes_immOp (r := fun a b => a - b) rfl hc fun a b => putInt_cast f.ty false _
  · exact computes_immOp (r := fun a b => a * b) rfl hc fun a b => putInt_cast f.ty false _
  · exact computes_immOp (r := fun a b => min a b) rfl hc (minE_cast _ _)
  · exact computes_immOp (r := fun a b => max a b) rfl hc (maxE_cast _ _)

/-- Settles O1: integer, division and immediate words run through `computes_bin` and `computes_immOp`, each with the arithmetic of its
own function. -/
theorem integerWords : Obligations.Integer_words :=
  ⟨intWords_leave_exact_results, divisionWords_leave_quotient_and_remainder, immWords_leave_results⟩

end Sys2Proof.Machine

namespace Sys2Proof

/-- A destination of two registers: a vector or uniform register with another after it (R116). -/
theorem dstReg_two_ok_iff (d : BitVec 8) :
    ((Use.dstReg 2).ok d && fitsV d 2) = true ↔ d.toNat < 192 ∧ d.toNat ≠ 127 ∧ d.toNat ≠ 191 := by
  have h := Machine.ofByte_regNumber d
  have := d.isLt
  cases ho : Opnd.ofByte d <;>
    simp only [ho, Machine.regNumber, Use.ok, fitsS, fitsV, Opnd.isReg, decide_eq_true_eq, Bool.and_eq_true] at h ⊢ <;> grind

/-- A word that writes D and D+1, and whose fields are allowed, has a register after D. -/
theorem Alu.dst_of_pair_shape_wf {f : Alu} {a b c : Use} {ok rm sat lo opx : Bool} {lat : Nat}
    (h : (f.shape (.dstReg 2) a b c (ok && fitsV f.d 2) rm sat lo lat opx).wf = true) :
    f.d.toNat < 192 ∧ f.d.toNat ≠ 127 ∧ f.d.toNat ≠ 191 := by
  simp only [Shape.wf, Alu.shape, List.all_cons, Bool.and_eq_true] at h
  obtain ⟨⟨⟨⟨⟨⟨-, hv⟩, -⟩, -⟩, -⟩, -⟩, hd, -⟩ := h
  exact (dstReg_two_ok_iff f.d).mp (by rw [hd, hv]; rfl)

theorem Ty.width_pos (t : Ty) : 0 < t.width := by cases t <;> decide

end Sys2Proof

namespace Sys2Proof.Machine

open Sys2Proof.Claims

-- Words with three sources (R113, R117)

/-- `mad` leaves a × b + c, written by R114. -/
theorem mad_leaves_result {s : State} {f : Alu} (hc : s.clear (.mad f)) :
    ∃ v, Computes s (.mad f) f.d false v ∧ ∀ l ∈ s.lanesM (.mad f), eachElem s f f.ty.width l (v l) fun e => written f.ty f.sat
      (elemInt f.ty (s.opnd s.cur.core s.cur.slot l f.ty f.a) e * elemInt f.ty (srcB s f l) e + elemInt f.ty (srcC s f l) e) := by
  refine computes_mapE rfl hc fun l e => ?_
  simp only [elemInt_eq_intVal]
  exact putInt_cast f.ty f.sat _

/-- `dot4` and `dot2` leave c plus the products of the elements of a narrower type `t`, written by R114. -/
theorem dot_leaves_result {s : State} {i : Instr} {f : Alu} (t : Ty) (ht : t.signed = f.ty.signed)
    (hx : exec i s = s.perLane i (dot f t.width)) (hc : s.clear i) :
    ∃ v, Computes s i f.d false v ∧ ∀ l ∈ s.lanesM i, eachElem s f f.ty.width l (v l) fun j =>
      written f.ty f.sat (elemInt f.ty (srcC s f l) j + ((List.range (f.ty.width / t.width)).map fun k =>
        elemInt t (s.opnd s.cur.core s.cur.slot l f.ty f.a) (f.ty.width / t.width * j + k) *
          elemInt t (srcB s f l) (f.ty.width / t.width * j + k)).sum) := by
  refine computes_mapE hx hc fun l j => ?_
  rw [← dotE_eq_sum, ht, elemInt_eq_intVal]
  exact putInt_cast f.ty f.sat _

/-- The narrow type of `dot4` and `dot2` has its width, and the sign of the word's type. -/
theorem narrow_type (sg : Bool) (t u : Ty) (ht : t.signed = true) (hu : u.signed = false) (hw : t.width = u.width) :
    (if sg then t else u).signed = sg ∧ (if sg then t else u).width = u.width := by
  cases sg <;> simp [*]

/-- `lea` reads and writes whole registers. -/
theorem lea_leaves_result {s : State} {f : Alu} (hc : s.clear (.lea f)) : Computes s (.lea f) f.d false fun l =>
    BitVec.ofNat 64 ((srcA s f l).toNat + (srcB s f l).toNat * 2 ^ f.opx.toNat) := by
  have hw : f.ty.width = 64 := by
    have hwf := State.shape_wf_of_passes hc.1 rfl
    simp only [Shape.wf, Alu.shape, Bool.and_eq_true, beq_iff_eq] at hwf
    obtain ⟨⟨⟨⟨⟨⟨-, hw⟩, -⟩, -⟩, -⟩, -⟩, -⟩ := hwf
    exact hw
  have h := computes_toD (i := .lea f) rfl hc
  have hm (x : Nat) : BitVec.ofNat 64 (x % 2 ^ 64) = BitVec.ofNat 64 x := BitVec.eq_of_toNat_eq (by simp)
  simp only [hw, mapE_64, getE_64_zero, hm] at h
  exact h

/-- `sad` reads C and writes D whole. -/
theorem sad_leaves_result {s : State} {f : Alu} (hc : s.clear (.sad f)) : Computes s (.sad f) f.d false fun l =>
    BitVec.ofNat 64 ((s.op64 s.cur.core s.cur.slot l f.c).toNat +
      ((List.range (if f.lo then 1 else 64 / f.ty.width)).map fun e =>
        (elemInt f.ty (s.opnd s.cur.core s.cur.slot l f.ty f.a) e - elemInt f.ty (srcB s f l) e).natAbs).sum) := by
  simp only [elemInt_eq_intVal, ← foldl_add_eq_sum]
  exact computes_toD rfl hc

theorem words_of_three_sources_leave_results : Multiply_add_words := by
  intro s f
  refine ⟨mad_leaves_result, fun hc => ?_, fun hc => ?_, lea_leaves_result, sad_leaves_result⟩
  · obtain ⟨ht, hw⟩ := narrow_type f.ty.signed .i8 .n8 rfl rfl rfl
    have h := dot_leaves_result (i := .dot4 f) _ ht (by rw [hw]; rfl) hc
    rwa [hw] at h
  · obtain ⟨ht, hw⟩ := narrow_type f.ty.signed .i16 .n16 rfl rfl rfl
    have h := dot_leaves_result (i := .dot2 f) _ ht (by rw [hw]; rfl) hc
    rwa [hw] at h

-- Words that write D and D+1

/-- A write of one register leaves every other register of its lane. -/
theorem State.reg_putLat_other (s : State) {c w l r : Nat} (first : Bool) (lat : Nat) (d : BitVec 8) (v : Word) (j : Nat)
    (hr : r ≠ d.toNat + j) (hd : d.toNat + j < 192) : (s.putLat c w l first lat d v j).reg c w l r = s.reg c w l r := by
  unfold State.putLat
  rw [dstReg_eq, if_pos (by omega)]
  exact State.reg_result_other s first lat v {} hd hr

/-- A word whose body writes a value to D and one to D+1 leaves both and changes nothing else. -/
theorem State.perLane_toPair {s : State} {i : Instr} {pre ex} {lat : Nat} {d : BitVec 8} {v u : State → Nat → Nat → Nat → Word}
    (hc : s.clear i) (hp : pre s (s.lanesM i) = none) (hd : d.toNat < 192 → d.toNat + 1 < 192) :
    ∃ t, s.perLane i (fun s0 c w l first t => (.done, (t.putLat c w l first lat d (v s0 c w l)).putLat c w l first lat d (u s0 c w l) 1))
        pre ex = .next t ∧ OnlyRegs s t i (dsts d 2) false ∧
      (Gives s t i d 0 fun l => v s s.cur.core s.cur.slot l) ∧ Gives s t i d 1 fun l => u s s.cur.core s.cur.slot l := by
  have hmem : d.toNat < 192 → ∀ j < 2, d.toNat + j ∈ dsts d 2 := fun h j hj => by
    rw [dsts, if_pos h]
    exact List.mem_map.mpr ⟨j, List.mem_range.mpr hj, rfl⟩
  obtain ⟨t, h1, h2, h3, -⟩ := State.perLane_regs (pre := pre) (ex := ex) (ds := dsts d 2) (sr := false)
    (body := fun s0 c w l first t => (.done, (t.putLat c w l first lat d (v s0 c w l)).putLat c w l first lat d (u s0 c w l) 1))
    (fun l first t => (t.putLat s.cur.core s.cur.slot l first lat d (v s s.cur.core s.cur.slot l)).putLat
      s.cur.core s.cur.slot l first lat d (u s s.cur.core s.cur.slot l) 1) hc hp
    (fun _ _ _ _ => rfl)
    (fun l _ first t => (LaneEff.putLat t first lat d _ 0 fun h => ⟨hmem h 0 (by omega), h⟩).trans
      (LaneEff.putLat _ first lat d _ 1 fun h => ⟨hmem h 1 (by omega), hd h⟩))
    (fun l _ t k => by rw [State.ureg_putLat_false _ lat d _ 1 hd, State.ureg_putLat_false _ lat d _ 0 (by simp)])
  refine ⟨t, h1, h2, fun h l hl => h3 _ l hl _ fun first r hf _ _ => ?_, fun h l hl => h3 _ l hl _ fun first r hf _ _ => ?_⟩
  · rw [State.reg_putLat_other _ first lat d _ 1 (by omega) (hd h)]
    exact State.reg_putLat r first lat d _ 0 h fun h' => hf ⟨h', h⟩
  · exact State.reg_putLat _ first lat d _ 1 (hd h) fun h' => hf ⟨h', hd h⟩

-- Carry words (R116)

/-- A word that writes D and D+1 is illegal where D is no register, or the last of its kind (R116). -/
theorem illegal_of_pair_shape {i : Instr} {f : Alu} {a b c : Use} {ok rm sat lo opx : Bool} {lat opc : Nat}
    (hf : i.form = .full f.h (f.shape (.dstReg 2) a b c (ok && fitsV f.d 2) rm sat lo lat opx)) (he : encodeNat i = f.enc opc)
    (ho : opc < 0x3C2) (hd : ¬(f.d.toNat < 192 ∧ f.d.toNat ≠ 127 ∧ f.d.toNat ≠ 191)) : Illegal i := by
  refine illegal_of_shape hf (by rwa [he, Alu.enc_opcode f (by omega)]) ?_
  exact Bool.eq_false_iff.mpr fun hw => hd (Alu.dst_of_pair_shape_wf hw)

/-- A carry word leaves, in each subelement that it computes, the low bits of the exact number and the carry that `r` gives. -/
theorem computes_carry {s : State} {i : Instr} {f : Alu} {g : Nat → Nat → Nat → Nat × Nat} {a b c : Use} {ok rm sat lo opx : Bool}
    {lat : Nat} (r : Int → Int → Int → Int × Bool) (hx : exec i s = s.perLane i (carry f g))
    (hf : i.form = .full f.h (f.shape (.dstReg 2) a b c (ok && fitsV f.d 2) rm sat lo lat opx))
    (hv : ∀ a b k : Nat, (((g a b k).1 % 2 ^ f.ty.width : Nat) : Int) = (r a b k).1 % 2 ^ f.ty.width)
    (hu : ∀ a b k : Nat, (g a b k).2 = if (r a b k).2 then 1 else 0) (hc : s.clear i) :
    ∃ t v u, exec i s = .next t ∧ OnlyRegs s t i (dsts f.d 2) false ∧ Gives s t i f.d 0 v ∧ Gives s t i f.d 1 u ∧
      ∀ l ∈ s.lanesM i, ∀ e < 64 / f.ty.width,
        let x := r (getE (s.opnd s.cur.core s.cur.slot l f.ty f.a) f.ty.width e) (getE (srcB s f l) f.ty.width e)
          (getE (srcC s f l) f.ty.width e % 2 : Nat)
        (getE (v l) f.ty.width e : Int) =
          (if f.lo && e != 0 then (getE (s.op64 s.cur.core s.cur.slot l f.d) f.ty.width e : Int) else x.1 % 2 ^ f.ty.width) ∧
        getE (u l) f.ty.width e =
          if f.lo && e != 0 then getE (s.opndAt s.cur.core s.cur.slot l f.d 1) f.ty.width e else if x.2 then 1 else 0 := by
  obtain ⟨-, -, h191⟩ := Alu.dst_of_pair_shape_wf (State.shape_wf_of_passes hc.1 hf)
  have h1 : 1 < 2 ^ f.ty.width := Nat.one_lt_two_pow f.ty.width_pos.ne'
  rw [hx]
  obtain ⟨t, ht, hregs, hD, hD1⟩ :=
    State.perLane_toPair (i := i) (pre := fun _ _ => none) (ex := []) (lat := 4) (d := f.d) hc rfl (by omega)
  refine ⟨t, _, _, ht, hregs, hD, hD1, fun l _ e he => ?_⟩
  dsimp only
  rw [getE_mapE _ _ _ he, getE_mapE _ _ _ he, hu]
  split
  · exact ⟨rfl, rfl⟩
  · refine ⟨hv _ _ _, Nat.mod_eq_of_lt ?_⟩
    split <;> omega

theorem carryWords_leave_results : Carry_words := by
  intro s f
  simp only [List.forall_mem_cons]
  refine ⟨⟨illegal_of_pair_shape rfl rfl (by decide), ?_⟩, ⟨illegal_of_pair_shape rfl rfl (by decide), ?_⟩, by simp⟩
  · refine computes_carry (fun a b k => (a + b + k, decide (2 ^ f.ty.width ≤ a + b + k))) rfl rfl (fun a b k => ?_) fun a b k => ?_
    · push_cast
      exact Int.emod_emod_of_dvd _ dvd_rfl
    · simp only [decide_eq_true_eq]
      norm_cast
  · refine computes_carry (fun a b k => (a - b - k, decide (a - b - k < 0))) rfl rfl (fun a b k => ?_) fun a b k => ?_
    · rw [intCode_mod, intCode_cast]
    · have hlt : a < b + k ↔ (a : Int) - b - k < 0 := by omega
      simp only [hlt, decide_eq_true_eq]

/-- Settles O2: the words of R117 by `computes_mapE` and `computes_toD`, the carry words by `State.perLane_toPair`. -/
theorem sumsAndCarries : Obligations.Sums_and_carries :=
  ⟨words_of_three_sources_leave_results, carryWords_leave_results⟩

-- Words that write predicate D

/-- A predicate below p7 whose number reads as a truth value holds that value. -/
theorem State.getLsbD_preds_of_reg {s : State} {c w l p : Nat} {b : Bool} (hp : p < 8) (h7 : p ≠ 7)
    (h : s.reg c w l (256 + p) = if p = 7 ∨ b = true then 1 else 0) : (s.lane c w l).preds.getLsbD p = b := by
  rw [State.reg, if_neg (by omega), if_neg (by omega), LaneSt.pred, Nat.add_sub_cancel_left, Nat.mod_eq_of_lt hp] at h
  cases hb : (s.lane c w l).preds.getLsbD p <;> cases b <;> simp_all

/-- A predicate reads its result, whatever its latency; p7 reads true (R59). -/
theorem State.reg_putPred_result (s : State) {c w l : Nat} (lat p : Nat) (b : Bool) :
    (s.putPred c w l lat p b).reg c w l (256 + p % 8) = if p % 8 = 7 ∨ b = true then 1 else 0 := by
  have hp : p % 8 < 8 := Nat.mod_lt _ (by decide)
  rw [State.putPred, State.result, if_pos (by simp)]
  dsimp only
  split
  · rw [State.dropShadow, State.reg_modLane _ _ _ _ _ _ _ rfl]
    exact State.reg_putPred s b hp
  · rw [State.reg_modLane _ _ _ _ _ _ _ rfl]
    exact State.reg_putPred s b hp

/-- A predicate write leaves the uniform registers. -/
theorem State.ureg_putPred (s : State) {c w l : Nat} (lat p : Nat) (b : Bool) (k : Nat) :
    (s.putPred c w l lat p b).ureg.get 0 k = s.ureg.get 0 k := by
  have e : LaneEff c w l [256 + p % 8] false s (s.putPred c w l lat p b) := LaneEff.putPred s lat p b (by simp)
  refine (e.uniform k fun r hr _ h192 => ?_).1
  rw [List.mem_singleton] at hr
  omega

/-- A word whose body writes predicate D leaves its value there and changes nothing else. -/
theorem decides_toP {s : State} {i : Instr} {lat : Nat} {d : BitVec 8} {b : State → Nat → Nat → Nat → Bool} {v : Nat → Prop}
    (hx : exec i s = s.perLane i (toP lat d b)) (hc : s.clear i) (hv : ∀ l, b s s.cur.core s.cur.slot l = true ↔ v l) :
    Decides s i d v := by
  have hp : d.toNat % 8 < 8 := Nat.mod_lt _ (by decide)
  obtain ⟨t, h1, h2, h3, -⟩ := State.perLane_regs (pre := fun _ _ => none) (ex := []) (ds := [256 + d.toNat % 8]) (sr := false)
    (body := toP lat d b)
    (fun l _ u => u.putPred s.cur.core s.cur.slot l lat d.toNat (b s s.cur.core s.cur.slot l)) hc rfl
    (fun _ _ _ _ => rfl) (fun l _ _ u => LaneEff.putPred u lat d.toNat _ (by simp)) (fun l _ u k => State.ureg_putPred u _ _ _ k)
  refine ⟨t, hx.trans h1, h2, fun h7 l hl => ?_⟩
  rw [← hv l]
  have hw : l ∈ s.writers i (256 + d.toNat % 8) := by rwa [State.writers, if_neg (by omega)]
  rw [State.getLsbD_preds_of_reg hp h7 (h3 _ l hw _ fun _ u _ _ _ => State.reg_putPred_result u lat _ _)]

-- Conditions (R123)

theorem allE_iff (w : Nat) (lo : Bool) (f : Nat → Bool) : allE w lo f = true ↔ ∀ e < (if lo then 1 else 64 / w), f e = true := by
  simp only [allE, List.all_eq_true, List.mem_range]

/-- A condition that every subelement operated on must meet. -/
theorem decides_compare {s : State} {i : Instr} {f : Alu} {g : Nat → Nat → Bool} {p : Nat → Nat → Prop}
    (hx : exec i s = s.perLane i (compare f g)) (hc : s.clear i)
    (hp : ∀ l e, g (getE (srcA s f l) f.ty.width e) (getE (srcB s f l) f.ty.width e) = true ↔ p l e) :
    Decides s i f.d fun l => ∀ e < (if f.lo then 1 else 64 / f.ty.width), p l e := by
  refine decides_toP hx hc fun l => (allE_iff _ _ _).trans ?_
  exact forall₂_congr fun e _ => hp l e

theorem cmpE_iff (op : Nat) (sg : Bool) (w a b : Nat) : cmpE op sg w a b = true ↔ condition op (intVal sg w a) (intVal sg w b) := by
  unfold cmpE condition
  split <;> simp

-- The order of floating values

/-- A finite value in whole steps of 2^g, for g at or below its exponent. -/
theorem FV.at_mul_zpow (s : Bool) (m : Nat) {e g : Int} (h : g ≤ e) :
    (((FV.fin s m e).at g : Int) : ℚ) * (2 : ℚ) ^ g = (if s then -1 else 1) * (m : ℚ) * (2 : ℚ) ^ e := by
  have h2 : (2 : ℚ) ^ (e - g).toNat * (2 : ℚ) ^ g = (2 : ℚ) ^ e := by
    rw [← zpow_natCast, Int.toNat_of_nonneg (by omega), ← zpow_add₀ (by norm_num), Int.sub_add_cancel]
  simp only [FV.at]
  push_cast
  rw [mul_assoc, h2]

/-- The order of finite values is that of the rationals that they stand for. -/
theorem FV.lt_fin_iff (s t : Bool) (m n : Nat) (e f : Int) : (FV.fin s m e).lt false (.fin t n f) = true ↔
    (if s then -1 else 1) * (m : ℚ) * (2 : ℚ) ^ e < (if t then -1 else 1) * (n : ℚ) * (2 : ℚ) ^ f := by
  rw [← FV.at_mul_zpow s m (min_le_left e f), ← FV.at_mul_zpow t n (min_le_right e f),
    mul_lt_mul_iff_left₀ (zpow_pos (by norm_num) _), Int.cast_lt]
  simp [FV.lt]

/-- Below, of two values (R123): -0 equals +0, and NaN is below nothing. -/
theorem FV.lt_iff (x y : FV) : x.lt false y = true ↔ fcondition 2 (extQ x) (extQ y) := by
  cases x with
  | nan => simp [FV.lt, extQ, fcondition]
  | inf m => cases y <;> simp [FV.lt, extQ, fcondition]
  | fin s m e =>
    cases y with
    | nan => simp [FV.lt, extQ, fcondition]
    | inf n => simp [FV.lt, extQ, fcondition]
    | fin t n f => exact FV.lt_fin_iff s t m n e f

@[simp] theorem isNan_extQ (x : FV) : (extQ x).isNan = x.isNan := by cases x <;> rfl

/-- What is below a value is not above it, and neither is NaN. -/
theorem below_asymm {a b : ExtQ} (h : fcondition 2 a b) : (a.isNan = false ∧ b.isNan = false) ∧ ¬fcondition 2 b a := by
  cases a with
  | nan => exact h.elim
  | inf m =>
    cases b with
    | nan => exact h.elim
    | inf n => simp_all [fcondition, ExtQ.isNan]
    | val y n => simp_all [fcondition, ExtQ.isNan]
  | val x m =>
    cases b with
    | nan => exact h.elim
    | inf n => simp_all [fcondition, ExtQ.isNan]
    | val y n => exact ⟨⟨rfl, rfl⟩, lt_asymm h⟩

/-- The conditions of R123, each from NaN and from order. -/
theorem fcondition_iff (op : Nat) (a b : ExtQ) : fcondition op a b ↔
    match op with
    | 0 => (a.isNan = false ∧ b.isNan = false) ∧ ¬fcondition 2 a b ∧ ¬fcondition 2 b a
    | 1 => ¬((a.isNan = false ∧ b.isNan = false) ∧ ¬fcondition 2 a b ∧ ¬fcondition 2 b a)
    | 2 => fcondition 2 a b
    | 3 => (a.isNan = false ∧ b.isNan = false) ∧ ¬fcondition 2 b a
    | 4 => fcondition 2 b a
    | 5 => (a.isNan = false ∧ b.isNan = false) ∧ ¬fcondition 2 a b
    | 6 => ¬(a.isNan = false ∧ b.isNan = false)
    | _ => a.isNan = false ∧ b.isNan = false := by
  rcases op with _ | _ | _ | _ | _ | _ | _ | op <;> rfl

/-- The model's conditions of `fcmp` are those of R123. -/
theorem fcmpE_iff (op : Nat) (f : Fmt) (a b : Nat) : fcmpE op f a b = true ↔ fcondition op (extQ (f.val a)) (extQ (f.val b)) := by
  have hlt := @below_asymm (extQ (f.val a)) (extQ (f.val b))
  have hgt := @below_asymm (extQ (f.val b)) (extQ (f.val a))
  rw [fcondition_iff]
  simp only [fcmpE, ← FV.lt_iff, isNan_extQ] at hlt hgt ⊢
  generalize (f.val a).lt false (f.val b) = lt, (f.val b).lt false (f.val a) = gt at *
  generalize (f.val a).isNan = na, (f.val b).isNan = nb at *
  split <;> grind

-- Predicate operations (R124)

theorem plopOp_iff (op : Nat) (a b : Bool) : plopOp op a b = true ↔ predOp op (a = true) (b = true) := by
  unfold plopOp predOp
  split <;> grind

theorem pmovOp_iff (op : Nat) (a : Bool) : pmovOp op a = true ↔ predMove op (a = true) := by
  unfold pmovOp predMove
  split <;> simp

/-- Settles O4: the four words run through `decides_toP`; the forms that the rules do not allow fail `Shape.wf`. -/
theorem predicateWords : Obligations.Predicate_words := by
  intro s f
  refine ⟨fun hc => ?_, fun hc => ?_, fun h => ?_, fun h => ?_, fun hc => ?_, fun hc => ?_, fun h => ⟨?_, ?_⟩, fun h => ?_⟩
  · refine decides_compare rfl hc fun l e => ?_
    rw [cmpE_iff, elemInt_eq_intVal, elemInt_eq_intVal]
  · exact decides_compare rfl hc fun l e => fcmpE_iff _ _ _ _
  · refine illegal_of_ok rfl rfl (by decide) ?_
    rcases h with h | h | h | h <;> simp [Alu.shape, h]
  · refine illegal_of_ok rfl rfl (by decide) ?_
    rcases h with h | h <;> simp [Alu.shape, h]
  · exact decides_toP rfl hc fun l => plopOp_iff _ _ _
  · exact decides_toP rfl hc fun l => pmovOp_iff _ _
  · exact illegal_of_ok rfl rfl (by decide) (by simp [Alu.shape, h])
  · exact illegal_of_ok rfl rfl (by decide) (by simp [Alu.shape, h])
  · rcases h with h | h
    · exact illegal_of_ok rfl rfl (by decide) (by simp [Alu.shape, h])
    · exact illegal_of_field rfl rfl (by decide) (u := .unused) (x := f.b) (by simp [Alu.shape]) (by simpa [Use.ok, nilByte] using h)

end Sys2Proof.Machine

end

section
/-! PROOFS. Witnesses (09, R226, R227, R237, R241): the agents of a scope, what a witness word's fields are, and what `wmrg` and `wscp`
leave. First scopes, then words, then merging and widening, then a word that forms a witness in one lane. -/

namespace Sys2Proof.Machine

open Sys2Proof.Claims

-- Agents of a scope

theorem gxOf_lt (c : Nat) : gxOf c < 64 := by unfold gxOf dieOf; omega

theorem gyOf_lt {c : Nat} (h : c < 1536) : gyOf c < 24 := by unfold gyOf dieOf; omega

theorem coreAt_lt {x y : Nat} (hx : x < 64) (hy : y < 24) : coreAt x y < 1536 := by unfold coreAt; omega

theorem gxOf_coreAt {x y : Nat} (hx : x < 64) : gxOf (coreAt x y) = x := by unfold gxOf coreAt dieOf; omega

theorem gyOf_coreAt {x y : Nat} (hx : x < 64) : gyOf (coreAt x y) = y := by unfold gyOf coreAt dieOf; omega

theorem coreAt_gxOf_gyOf (c : Nat) : coreAt (gxOf c) (gyOf c) = c := by unfold gxOf gyOf coreAt dieOf; omega

theorem mem_dieHas_iff {c a : Nat} (hc : c < 1536) : a ∈ dieHas c ↔ a < 0x200 ∧ a / 64 = c / 192 := by
  simp only [dieHas, dieOf, List.mem_map, List.mem_range]
  constructor
  · rintro ⟨j, hj, rfl⟩; omega
  · rintro ⟨h1, h2⟩; exact ⟨a % 64, by omega, by omega⟩

theorem row_lt {n q a j : Nat} (ha : a < q) (hj : j < n) : a * n + j < q * n :=
  calc a * n + j < (a + 1) * n := by rw [Nat.succ_mul]; omega
    _ ≤ q * n := Nat.mul_le_mul_right n ha

/-- A position within a tile of side n that divides N lies below N. -/
theorem tile_lt {n N m j : Nat} (hN : n ∣ N) (hm : m < N) (hj : j < n) : m / n * n + j < N := by
  obtain ⟨q, rfl⟩ := hN
  rw [Nat.mul_comm n q]
  exact row_lt (Nat.div_lt_of_lt_mul hm) hj

theorem tile_div {n m j : Nat} (hj : j < n) : (m * n + j) / n = m := by
  rw [Nat.mul_comm, Nat.mul_add_div (by omega), Nat.div_eq_of_lt hj, Nat.add_zero]

/-- An aligned square holds the scratchpads of the cores whose coordinates lie in the same tile as c's. -/
theorem mem_squareAgents_iff {c n a : Nat} (hc : c < 1536) (hx : n ∣ 64) (hy : n ∣ 24) :
    a ∈ squareAgents c n ↔ ∃ k < 1536, a = 0x200 + k ∧ gxOf k / n = gxOf c / n ∧ gyOf k / n = gyOf c / n := by
  have hn : 0 < n := Nat.pos_of_dvd_of_pos hx (by decide)
  simp only [squareAgents, List.mem_map, List.mem_range]
  constructor
  · rintro ⟨i, hi, rfl⟩
    have h1 : i % n < n := Nat.mod_lt i hn
    have h2 : i / n < n := Nat.div_lt_of_lt_mul hi
    have hX := tile_lt hx (gxOf_lt c) h1
    have hY := tile_lt hy (gyOf_lt hc) h2
    exact ⟨_, coreAt_lt hX hY, rfl, by rw [gxOf_coreAt hX, tile_div h1], by rw [gyOf_coreAt hX, tile_div h2]⟩
  · rintro ⟨k, hk, rfl, h1, h2⟩
    refine ⟨gyOf k % n * n + gxOf k % n, row_lt (Nat.mod_lt _ hn) (Nat.mod_lt _ hn), ?_⟩
    rw [tile_div (Nat.mod_lt _ hn), Nat.mul_add_mod_self_right, Nat.mod_mod, ← h1, ← h2, Nat.mul_comm, Nat.div_add_mod,
      Nat.mul_comm, Nat.div_add_mod, coreAt_gxOf_gyOf]

/-- A scratchpad agent is 0x200 and its core. -/
theorem scratchpad_iff {a : Nat} {p : Nat → Prop} : (∃ k < 1536, a = 0x200 + k ∧ p k) ↔ 0x200 ≤ a ∧ a < 0x800 ∧ p (a - 0x200) := by
  constructor
  · rintro ⟨k, hk, rfl, h⟩
    exact ⟨by omega, by omega, by rwa [Nat.add_sub_cancel_left]⟩
  · rintro ⟨h1, h2, h⟩
    exact ⟨a - 0x200, by omega, by omega, h⟩

theorem mem_dieScratchpads_iff {c a : Nat} (hc : c < 1536) :
    a ∈ (List.range 192).map (0x200 + 192 * (c / 192) + ·) ↔ 0x200 ≤ a ∧ a < 0x800 ∧ (a - 0x200) / 192 = c / 192 := by
  simp only [List.mem_map, List.mem_range]
  constructor
  · rintro ⟨j, hj, rfl⟩; omega
  · rintro ⟨h1, h2, h3⟩; exact ⟨(a - 0x200) % 192, by omega, by omega⟩

/-- R226, as membership is tested: the scratchpads of a scope are those whose core shares c's tile or die. -/
theorem inScope_iff {sc c a : Nat} (hc : c < 1536) (h1 : 1 ≤ sc) (h11 : sc ≤ 11) : inScope sc c a = true ↔ inAgents sc c a := by
  interval_cases sc <;>
    simp only [inScope, inAgents, dieOf, scratchpad_iff, Nat.reduceLeDiff, Nat.reduceEqDiff, if_true, if_false, Bool.or_eq_true,
      Bool.and_eq_true, decide_eq_true_eq, beq_iff_eq] <;>
    omega

/-- The list of a scope's agents holds those that the test accepts. -/
theorem mem_agents_iff_inScope {sc c a : Nat} (hc : c < 1536) : a ∈ agents sc c ↔ inScope sc c a = true := by
  have h2 := mem_squareAgents_iff (n := 2) (a := a) hc (by decide) (by decide)
  have h4 := mem_squareAgents_iff (n := 4) (a := a) hc (by decide) (by decide)
  rw [scratchpad_iff] at h2 h4
  unfold agents inScope
  split_ifs <;>
    simp only [List.mem_cons, List.mem_append, List.mem_range, mem_dieHas_iff hc, h2, h4, mem_dieScratchpads_iff hc, dieOf,
      Bool.or_eq_true, Bool.and_eq_true, decide_eq_true_eq, beq_iff_eq] <;>
    omega

/-- In an ascending list, what is found first is the least of what could be found. -/
theorem find?_le {p : Nat → Bool} {xs : List Nat} (hs : xs.Pairwise (· ≤ ·)) {x y : Nat} (hy : xs.find? p = some y) (hx : x ∈ xs)
    (hp : p x = true) : y ≤ x := by
  obtain ⟨-, as, bs, rfl, has⟩ := List.find?_eq_some_iff_append.mp hy
  rcases List.mem_append.mp hx with h | h
  · simpa [hp] using has x h
  · rcases List.mem_cons.mp h with rfl | h
    · exact Nat.le_refl x
    · exact List.rel_of_pairwise_cons (List.pairwise_append.mp hs).2.1 h

/-- EXT(a, c) is one of tm, cl, rg, di, pk and hs. -/
theorem ext_mem (a c : Nat) : ext a c ∈ [3, 4, 5, 6, 7, 8] := by
  unfold ext
  cases h : [3, 4, 5, 6, 7].find? fun sc => inScope sc c a with
  | none => decide
  | some y => exact List.mem_append_left [8] (List.mem_of_find?_eq_some h)

theorem ext_le_hs (a c : Nat) : ext a c ≤ 8 := (show ∀ x ∈ [3, 4, 5, 6, 7, 8], x ≤ 8 by decide) _ (ext_mem a c)

/-- EXT(a, c) holds agent a (R227). -/
theorem inScope_ext {a : Nat} (c : Nat) (ha : a ≤ 0x801) : inScope (ext a c) c a = true := by
  unfold ext
  cases h : [3, 4, 5, 6, 7].find? fun sc => inScope sc c a with
  | none => simp [inScope]; omega
  | some y => exact List.find?_some (p := fun sc => inScope sc c a) h

/-- No narrower scope than EXT(a, c) holds agent a (R227). -/
theorem ext_le {a c x : Nat} (hx : x ∈ [3, 4, 5, 6, 7, 8]) (h : inScope x c a = true) : ext a c ≤ x := by
  rcases List.mem_append.mp (show x ∈ [3, 4, 5, 6, 7] ++ [8] from hx) with hx | hx
  · unfold ext
    cases hf : [3, 4, 5, 6, 7].find? fun sc => inScope sc c a with
    | none => exact absurd h (List.find?_eq_none.mp hf x hx)
    | some y => exact find?_le (by decide) hf hx h
  · exact List.mem_singleton.mp hx ▸ ext_le_hs a c

/-- R226 and R227: the list of a scope's agents, and the narrowest scope of an agent. -/
theorem scopes : Scopes := by
  intro sc c a h1 h11 hc
  have range : ∀ x ∈ [3, 4, 5, 6, 7, 8], 1 ≤ x ∧ x ≤ 11 := by decide
  have holds : ∀ x ∈ [3, 4, 5, 6, 7, 8], inScope x c a = true ↔ inAgents x c a := fun x hx =>
    inScope_iff hc (range x hx).1 (range x hx).2
  refine ⟨(mem_agents_iff_inScope hc).trans (inScope_iff hc h1 h11), fun ha => ⟨?_, ext_mem a c, fun x hx h => ?_⟩⟩
  · exact (holds _ (ext_mem a c)).mp (inScope_ext c ha)
  · exact ext_le hx ((holds x hx).mpr h)

-- The fields of a witness word (R229)

theorem field_kind (w : Word) : Word.field w 63 60 = wKind w := by
  have := w.isLt
  simp only [Word.field, wKind]
  omega

theorem field_scope (w : Word) : Word.field w 59 56 = wScope w := rfl

theorem field_agent (w : Word) : Word.field w 55 44 = wAgent w := rfl

theorem field_tick (w : Word) : Word.field w 43 0 = wTick w := by simp [Word.field, wTick]

theorem field_conn (w : Word) : Word.field w 55 40 = wConn w := rfl

theorem field_seq (w : Word) : Word.field w 39 0 = wSeq w := by simp [Word.field, wSeq]

theorem wScope_lt (w : Word) : wScope w < 16 := Nat.mod_lt _ (by decide)

theorem wAgent_lt (w : Word) : wAgent w < 4096 := Nat.mod_lt _ (by decide)

theorem wConn_lt (w : Word) : wConn w < 65536 := Nat.mod_lt _ (by decide)

theorem wSeq_lt (w : Word) : wSeq w < 2 ^ 40 := Nat.mod_lt _ (by decide)

theorem wTick_lt (w : Word) : wTick w < 2 ^ 44 := Nat.mod_lt _ (by decide)

theorem ne_zero_of_wKind {w : Word} (h : wKind w ≠ 0) : w ≠ 0 := by
  rintro rfl
  exact h rfl

theorem toNat_point (a sc t : Nat) :
    (point a sc t).toNat = 2 ^ 60 + sc % 16 * 2 ^ 56 + a % 4096 * 2 ^ 44 + t % 2 ^ 44 := by
  rw [point, BitVec.toNat_ofNat]; omega

theorem toNat_frontier (sc t : Nat) : (frontier sc t).toNat = 2 * 2 ^ 60 + sc % 16 * 2 ^ 56 + 0xFFF * 2 ^ 44 + t % 2 ^ 44 := by
  rw [frontier, BitVec.toNat_ofNat]; omega

theorem toNat_linkWit (sc n q : Nat) :
    (linkWit sc n q).toNat = 3 * 2 ^ 60 + max sc 9 % 16 * 2 ^ 56 + n % 65536 * 2 ^ 40 + q % 2 ^ 40 := by
  rw [linkWit, BitVec.toNat_ofNat]; omega

/-- A point's fields are those that it was made of, where they fit (R229). -/
theorem point_fields {a sc t : Nat} (ha : a < 4096) (hs : sc < 16) (ht : t < 2 ^ 44) :
    wKind (point a sc t) = 1 ∧ wAgent (point a sc t) = a ∧ wScope (point a sc t) = sc ∧ wTick (point a sc t) = t := by
  simp only [wKind, wAgent, wScope, wTick, toNat_point]
  omega

/-- A frontier's fields are those that it was made of, where they fit (R229). -/
theorem frontier_fields {sc t : Nat} (hs : sc < 16) (ht : t < 2 ^ 44) :
    wKind (frontier sc t) = 2 ∧ wAgent (frontier sc t) = 0xFFF ∧ wScope (frontier sc t) = sc ∧ wTick (frontier sc t) = t := by
  simp only [wKind, wAgent, wScope, wTick, toNat_frontier]
  omega

/-- A link's fields are those that it was made of, where they fit and the scope is 9 at least (R229). -/
theorem linkWit_fields {sc n q : Nat} (h9 : 9 ≤ sc) (hs : sc < 16) (hn : n < 65536) (hq : q < 2 ^ 40) :
    wKind (linkWit sc n q) = 3 ∧ wConn (linkWit sc n q) = n ∧ wScope (linkWit sc n q) = sc ∧ wSeq (linkWit sc n q) = q := by
  simp only [wKind, wConn, wScope, wSeq, toNat_linkWit]
  omega

-- Ticks

theorem tickGe_iff (a b : Nat) : tickGe a b = true ↔ tickAtLeast a b := by
  simp only [tickGe, tickAtLeast, decide_eq_true_eq]
  omega

theorem laterTick_of_eq {a b r : Nat} (h : r = tickMax a b) : laterTick a b r := by
  subst h
  unfold laterTick tickMax
  split_ifs with h <;> rw [tickGe_iff] at h
  · exact .inl ⟨rfl, h⟩
  · exact .inr ⟨rfl, h⟩

theorem tickMax_lt {a b : Nat} (ha : a < 2 ^ 44) (hb : b < 2 ^ 44) : tickMax a b < 2 ^ 44 := by
  unfold tickMax
  split <;> assumption

-- Values that are witnesses (R230)

theorem connOwned_iff (s : State) (n ctx : Nat) : s.connOwned n ctx = true ↔
    ∃ k, s.conns.find? n = some k ∧ k.opened = true ∧ k.cctl.toNat / 2 ^ 44 % 4096 = ctx := by
  unfold State.connOwned
  cases s.conns.find? n with
  | none => simp
  | some k => simp [Word.field]

/-- R230, one kind after another. -/
theorem witOk_iff (s : State) (ctx : Nat) (w : Word) : s.witOk ctx w = true ↔ Witness s ctx w := by
  have hz : w = 0 → wKind w = 0 := by rintro rfl; rfl
  unfold State.witOk Witness
  dsimp only
  split_ifs with h0 h1 h2 h3 <;> simp only [Bool.and_eq_true, decide_eq_true_eq, beq_iff_eq, connOwned_iff] <;>
    simp only [field_kind, field_scope, field_agent, field_conn] at *
  · simp [h0]
  all_goals rw [or_iff_right (mt hz h0)]
  · simp [h1, Nat.lt_succ_iff, and_assoc]
  · simp [h2, Nat.lt_succ_iff, and_assoc]
  · simp [h3, Nat.lt_succ_iff, and_assoc]
  · simp [h1, h2, h3]

/-- A value that `wmrg` and `wscp` can take as it stands: a witness that is no handle. -/
def Plain (s : State) (ctx : Nat) (w : Word) : Prop := Witness s ctx w ∧ wKind w ≠ 0xE

/-- A plain witness is null, or a point or a frontier of some agent, or a link of scope 9 at least. -/
theorem Plain.cases {s : State} {ctx : Nat} {w : Word} (h : Plain s ctx w) :
    w = 0 ∨ wKind w = 1 ∨ (wKind w = 2 ∧ wAgent w = 0xFFF) ∨ (wKind w = 3 ∧ 9 ≤ wScope w) := by
  obtain ⟨h | h | h | h | h, hE⟩ := h
  · exact .inl h
  · exact .inr (.inl h.1)
  · exact .inr (.inr (.inl ⟨h.1, h.2.2.2⟩))
  · exact .inr (.inr (.inr ⟨h.1, h.2.1⟩))
  · exact absurd h hE

theorem Plain.kind {s : State} {ctx : Nat} {w : Word} (h : Plain s ctx w) (h0 : w ≠ 0) : wKind w = 1 ∨ wKind w = 2 ∨ wKind w = 3 :=
  (h.cases.resolve_left h0).imp_right (Or.imp And.left And.left)

theorem Plain.frontier_agent {s : State} {ctx : Nat} {w : Word} (h : Plain s ctx w) (h2 : wKind w = 2) : wAgent w = 0xFFF := by
  rcases h.cases with rfl | h1 | ⟨-, h⟩ | ⟨h3, -⟩
  · exact absurd h2 (by decide)
  · omega
  · exact h
  · omega

theorem Plain.link_scope {s : State} {ctx : Nat} {w : Word} (h : Plain s ctx w) (h3 : wKind w = 3) : 9 ≤ wScope w := by
  rcases h.cases with rfl | h1 | ⟨h2, -⟩ | ⟨-, h⟩
  · exact absurd h3 (by decide)
  · omega
  · omega
  · exact h

-- Merging (R237)

/-- The two witnesses are links of one connection. -/
def SameLink (a b : Word) : Prop := wKind a = 3 ∧ wKind b = 3 ∧ wConn a = wConn b

/-- The two witnesses are points at one agent. -/
def SamePoint (a b : Word) : Prop := wKind a = 1 ∧ wKind b = 1 ∧ wAgent a = wAgent b

/-- The scope that a point or a frontier has in a frontier around core c. -/
def wideScope (c : Nat) (w : Word) : Nat := if wKind w = 1 then max (wScope w) (ext (wAgent w) c) else wScope w

/-- The tick that a witness counts with beside a link: a link's own only once it is done. -/
def State.tickOf (s : State) (w : Word) : Option Nat := if wKind w = 3 then s.linkDone (wConn w) (wSeq w) else some (wTick w)

theorem tickOf_eq_none_iff {s : State} {w : Word} : s.tickOf w = none ↔ lateLink s w := by
  unfold State.tickOf lateLink
  split_ifs with h <;> simp [h]

theorem wideScope_lt (c : Nat) (w : Word) : wideScope c w < 16 := by
  have h1 := wScope_lt w
  have h2 := ext_le_hs (wAgent w) c
  unfold wideScope
  split
  · exact Nat.max_lt.mpr ⟨h1, by omega⟩
  · exact h1

theorem merge_null_left (s : State) (c : Nat) (b : Word) : s.merge c 0 b = some b := by simp [State.merge]

theorem merge_null_right (s : State) (c : Nat) (a : Word) : s.merge c a 0 = some a := by
  by_cases h : a = 0
  · rw [h, merge_null_left]
  · simp only [State.merge, h, if_false, if_true]

theorem merge_samePoint (s : State) (c : Nat) {a b : Word} (h : SamePoint a b) : s.merge c a b =
    some (point (wAgent a) (max (wScope a) (wScope b)) (tickMax (wTick a) (wTick b))) := by
  obtain ⟨ha, hb, hag⟩ := h
  have ha0 := ne_zero_of_wKind (w := a) (by omega)
  have hb0 := ne_zero_of_wKind (w := b) (by omega)
  simp only [State.merge, field_kind, field_scope, field_agent, field_tick, ha0, hb0, ha, hb, hag, and_self, if_true, if_false]

theorem merge_sameLink (s : State) (c : Nat) {a b : Word} (h : SameLink a b) : s.merge c a b =
    some (linkWit (max (wScope a) (wScope b)) (wConn a) (max (wSeq a) (wSeq b))) := by
  obtain ⟨ha, hb, hn⟩ := h
  have ha0 := ne_zero_of_wKind (w := a) (by omega)
  have hb0 := ne_zero_of_wKind (w := b) (by omega)
  simp only [State.merge, field_kind, field_scope, field_conn, field_seq, ha0, hb0, if_false]
  simp [ha, hb, hn]

/-- A witness's tick and scope, as `State.merge` forms them for a point, a frontier or a link. -/
theorem front_eq (s : State) (c : Nat) {w : Word} (h : wKind w = 1 ∨ wKind w = 2 ∨ wKind w = 3) :
    (if wKind w = 1 then some (wTick w, max (wScope w) (ext (wAgent w) c)) else if wKind w = 2 then some (wTick w, wScope w)
      else (s.linkDone (wConn w) (wSeq w)).map fun t => (t, wScope w)) = (s.tickOf w).map fun t => (t, wideScope c w) := by
  rcases h with h | h | h <;> simp [State.tickOf, wideScope, h]

/-- The scope with which w counts beside another witness: a point beside a link counts with its own (R237). -/
def scopeBeside (c : Nat) (other w : Word) : Nat := if wKind other = 3 then wScope w else wideScope c w

/-- The rows of R237 for two witnesses that are neither points at one agent nor links of one connection, as one equation. -/
theorem merge_mixed (s : State) (c : Nat) {a b : Word} (ha : wKind a = 1 ∨ wKind a = 2 ∨ wKind a = 3)
    (hb : wKind b = 1 ∨ wKind b = 2 ∨ wKind b = 3) (hp : ¬SamePoint a b) (hl : ¬SameLink a b) :
    s.merge c a b = (s.tickOf a).bind fun t => (s.tickOf b).map fun u =>
      frontier (max (scopeBeside c b a) (scopeBeside c a b)) (tickMax t u) := by
  have ha0 := ne_zero_of_wKind (w := a) (by omega)
  have hb0 := ne_zero_of_wKind (w := b) (by omega)
  have beside : ∀ x y : Word, (if wKind y = 3 then if wKind x = 1 then wScope x else wideScope c x else wideScope c x) =
      scopeBeside c y x := fun x y => by unfold scopeBeside wideScope; split_ifs <;> rfl
  unfold SamePoint at hp
  unfold SameLink at hl
  simp only [State.merge, field_kind, field_scope, field_agent, field_tick, field_conn, field_seq, ha0, hb0, hp, hl, if_false,
    front_eq s c ha, front_eq s c hb]
  cases s.tickOf a with
  | none => rfl
  | some t =>
    cases s.tickOf b with
    | none => rfl
    | some u => simp only [Option.map_some, Option.bind_some, beside]

theorem merge_frontier (s : State) (c : Nat) {a b : Word} (ha : wKind a = 1 ∨ wKind a = 2) (hb : wKind b = 1 ∨ wKind b = 2)
    (h : ¬SamePoint a b) : s.merge c a b = some (frontier (max (wideScope c a) (wideScope c b)) (tickMax (wTick a) (wTick b))) := by
  have ha3 : wKind a ≠ 3 := by omega
  have hb3 : wKind b ≠ 3 := by omega
  rw [merge_mixed s c (ha.imp_right .inl) (hb.imp_right .inl) h fun hl => ha3 hl.1]
  simp only [State.tickOf, scopeBeside, ha3, hb3, if_false, Option.bind_some, Option.map_some]

/-- Beside a link that is not the same, each witness counts with its tick and its own scope. -/
theorem merge_with_link (s : State) (c : Nat) {a b : Word} (ha : wKind a = 1 ∨ wKind a = 2 ∨ wKind a = 3)
    (hb : wKind b = 1 ∨ wKind b = 2 ∨ wKind b = 3) (h3 : wKind a = 3 ∨ wKind b = 3) (hl : ¬SameLink a b) :
    s.merge c a b = (s.tickOf a).bind fun t => (s.tickOf b).map fun u => frontier (max (wScope a) (wScope b)) (tickMax t u) := by
  have own : ∀ x y : Word, wKind x = 3 ∨ wKind y = 3 → scopeBeside c y x = wScope x := by
    intro x y h
    by_cases hy : wKind y = 3
    · simp only [scopeBeside, hy, if_true]
    · have hx : wKind x = 3 := h.resolve_right hy
      simp [scopeBeside, wideScope, hy, hx]
  rw [merge_mixed s c ha hb (fun hp => by have := hp.1; have := hp.2.1; omega) hl, own a b h3, own b a h3.symm]

/-- What `State.merge` answers is the table's witness: each row gives the value, whose fields are then read. -/
theorem merged_of_merge {s : State} {ctx c : Nat} {a b r : Word} (ha : Plain s ctx a) (hb : Plain s ctx b)
    (h : s.merge c a b = some r) : Merged (fun w => s.linkDone (wConn w) (wSeq w)) c a b r := by
  have value : ∀ {x}, s.merge c a b = some x → r = x := fun hx => Option.some.inj (h.symm.trans hx)
  have scopes : max (wScope a) (wScope b) < 16 := Nat.max_lt.mpr ⟨wScope_lt a, wScope_lt b⟩
  refine ⟨?_, ?_, fun ka kb hag => ?_, fun ka kb hp => ?_, fun ka kb hn => ?_, fun t u a0 b0 h3 hl ht hu htl hul => ?_⟩
  · rintro rfl
    exact value (merge_null_left s c b)
  · rintro rfl
    exact value (merge_null_right s c a)
  · obtain rfl := value (merge_samePoint s c ⟨ka, kb, hag⟩)
    obtain ⟨kind_eq, agent_eq, scope_eq, tick_eq⟩ := point_fields (wAgent_lt a) scopes (tickMax_lt (wTick_lt a) (wTick_lt b))
    exact ⟨kind_eq, agent_eq, scope_eq, laterTick_of_eq tick_eq⟩
  · obtain rfl := value (merge_frontier s c ka kb hp)
    obtain ⟨kind_eq, agent_eq, scope_eq, tick_eq⟩ := frontier_fields (Nat.max_lt.mpr ⟨wideScope_lt c a, wideScope_lt c b⟩) (tickMax_lt (wTick_lt a) (wTick_lt b))
    exact ⟨kind_eq, agent_eq, scope_eq, laterTick_of_eq tick_eq⟩
  · obtain rfl := value (merge_sameLink s c ⟨ka, kb, hn⟩)
    exact linkWit_fields (le_max_of_le_left (ha.link_scope ka)) scopes (wConn_lt a) (Nat.max_lt.mpr ⟨wSeq_lt a, wSeq_lt b⟩)
  · have tick : ∀ {w x}, (if wKind w = 3 then s.linkDone (wConn w) (wSeq w) = some x else x = wTick w) → s.tickOf w = some x := by
      intro w x hx
      unfold State.tickOf
      split_ifs at hx ⊢
      · exact hx
      · rw [hx]
    have hm := merge_with_link s c (ha.kind a0) (hb.kind b0) h3 hl
    rw [tick ht, tick hu, Option.bind_some, Option.map_some] at hm
    obtain rfl := value hm
    obtain ⟨kind_eq, agent_eq, scope_eq, tick_eq⟩ := frontier_fields scopes (tickMax_lt htl hul)
    exact ⟨kind_eq, agent_eq, scope_eq, laterTick_of_eq tick_eq⟩

/-- `wmrg` needs a link that is not done (R237). -/
def MergeWaits (s : State) (a b : Word) : Prop := ¬(a = 0 ∨ b = 0 ∨ SameLink a b) ∧ (lateLink s a ∨ lateLink s b)

/-- A merge has no value exactly where it needs a link that is not done. -/
theorem merge_eq_none_iff {s : State} {ctx c : Nat} {a b : Word} (ha : Plain s ctx a) (hb : Plain s ctx b) :
    s.merge c a b = none ↔ MergeWaits s a b := by
  have some_value : ∀ {x}, s.merge c a b = some x → ¬MergeWaits s a b → (s.merge c a b = none ↔ MergeWaits s a b) := fun hx hn =>
    iff_of_false (by rw [hx]; exact Option.some_ne_none _) hn
  by_cases a0 : a = 0
  · subst a0
    exact some_value (merge_null_left s c b) fun h => h.1 (.inl rfl)
  by_cases b0 : b = 0
  · subst b0
    exact some_value (merge_null_right s c a) fun h => h.1 (.inr (.inl rfl))
  by_cases hl : SameLink a b
  · exact some_value (merge_sameLink s c hl) fun h => h.1 (.inr (.inr hl))
  by_cases h3 : wKind a = 3 ∨ wKind b = 3
  · rw [merge_with_link s c (ha.kind a0) (hb.kind b0) h3 hl]
    simp only [MergeWaits, ← tickOf_eq_none_iff, a0, b0, hl, or_self, not_false_eq_true, true_and]
    cases s.tickOf a <;> cases s.tickOf b <;> simp
  · obtain ⟨a3, b3⟩ := not_or.mp h3
    have no_link : ¬MergeWaits s a b := fun h => h.2.elim (fun h => a3 h.1) fun h => b3 h.1
    by_cases hp : SamePoint a b
    · exact some_value (merge_samePoint s c hp) no_link
    · have ka := ha.kind a0
      have kb := hb.kind b0
      exact some_value (merge_frontier s c (by omega) (by omega) hp) no_link

-- Widening (R241)

theorem widen_null (s : State) (sc : Nat) : s.widen sc 0 = some 0 := by simp [State.widen]

theorem widen_point (s : State) (sc : Nat) {w : Word} (h : wKind w = 1) :
    s.widen sc w = some (point (wAgent w) (max (wScope w) sc) (wTick w)) := by
  have h0 := ne_zero_of_wKind (w := w) (by omega)
  simp only [State.widen, field_kind, field_scope, field_agent, field_tick, h0, h, if_true, if_false]

theorem widen_frontier (s : State) (sc : Nat) {w : Word} (h : wKind w = 2) :
    s.widen sc w = some (frontier (max (wScope w) sc) (wTick w)) := by
  have h0 := ne_zero_of_wKind (w := w) (by omega)
  simp only [State.widen, field_kind, field_scope, field_tick, h0, if_false]
  simp [h]

/-- A link stays one in a scope of lk and wider; in a narrower one it becomes a frontier once it is done. -/
theorem widen_link (s : State) (sc : Nat) {w : Word} (h : wKind w = 3) : s.widen sc w =
    if 9 ≤ sc then some (linkWit (max (wScope w) sc) (wConn w) (wSeq w))
    else (s.linkDone (wConn w) (wSeq w)).map fun t => frontier (if sc ≤ 7 then 7 else 8) t := by
  have h0 := ne_zero_of_wKind (w := w) (by omega)
  simp only [State.widen, field_kind, field_scope, field_conn, field_seq, h0, if_false]
  simp [h]

/-- What `State.widen` answers is the table's witness. -/
theorem widened_of_widen {s : State} {ctx sc : Nat} {w r : Word} (hw : Plain s ctx w) (hsc : sc < 16) (h : s.widen sc w = some r) :
    Widened sc w r (s.linkDone (wConn w) (wSeq w)) := by
  have value : ∀ {x}, s.widen sc w = some x → r = x := fun hx => Option.some.inj (h.symm.trans hx)
  have scopes : max (wScope w) sc < 16 := Nat.max_lt.mpr ⟨wScope_lt w, hsc⟩
  refine ⟨?_, fun k => ?_, fun k => ?_⟩
  · rintro rfl
    exact value (widen_null s sc)
  · rcases k with k | k
    · obtain rfl := value (widen_point s sc k)
      rw [k]
      obtain ⟨kind_eq, agent_eq, scope_eq, tick_eq⟩ := point_fields (wAgent_lt w) scopes (wTick_lt w)
      exact ⟨kind_eq, agent_eq, tick_eq, scope_eq⟩
    · obtain rfl := value (widen_frontier s sc k)
      rw [k, hw.frontier_agent k]
      obtain ⟨kind_eq, agent_eq, scope_eq, tick_eq⟩ := frontier_fields scopes (wTick_lt w)
      exact ⟨kind_eq, agent_eq, tick_eq, scope_eq⟩
  · have hx := widen_link s sc k
    by_cases h9 : 9 ≤ sc
    · rw [if_pos h9] at hx ⊢
      obtain rfl := value hx
      obtain ⟨kind_eq, conn_eq, scope_eq, seq_eq⟩ := linkWit_fields (le_max_of_le_right h9) scopes (wConn_lt w) (wSeq_lt w)
      exact ⟨kind_eq, conn_eq, seq_eq, scope_eq⟩
    · rw [if_neg h9] at hx ⊢
      obtain ⟨t, ht, hr⟩ := Option.map_eq_some_iff.mp (hx.symm.trans h)
      exact ⟨t, ht, hr.symm⟩

/-- Widening has no value exactly where a link is to become a frontier and is not done. -/
theorem widen_eq_none_iff {s : State} {ctx sc : Nat} {w : Word} (hw : Plain s ctx w) :
    s.widen sc w = none ↔ lateLink s w ∧ sc < 9 := by
  have not_late : wKind w ≠ 3 → ¬(lateLink s w ∧ sc < 9) := fun h hl => h hl.1.1
  rcases hw.cases with rfl | k | ⟨k, -⟩ | ⟨k, -⟩
  · simp only [widen_null, not_late (by decide), reduceCtorEq]
  · simp only [widen_point s sc k, not_late (by omega), reduceCtorEq]
  · simp only [widen_frontier s sc k, not_late (by omega), reduceCtorEq]
  · rw [widen_link s sc k]
    by_cases h9 : 9 ≤ sc
    · simp [h9]
    · simp [h9, lateLink, k, Nat.lt_of_not_le h9]

-- A word that forms a witness in one lane

/-- No connection of a link that is waited for has failed. -/
theorem lostLink_eq_none_iff (s : State) (ws : List Word) :
    s.lostLink ws = none ↔ ∀ w ∈ ws, lateLink s w → s.linkFailed (wConn w) = false := by
  simp [State.lostLink, lateLink, field_kind, field_conn, field_seq, List.find?_eq_none]

theorem asWitness_of_kind (s : State) {w : Word} (h : wKind w ≠ 0xE) : s.asWitness w = some w := by
  simp only [State.asWitness, field_kind, h, if_false]

section
variable {s : State} {c w l : Nat} {first : Bool} {d : BitVec 8} {ws : List Word} {f : List Word → Option Word}

/-- No witness among plain ones is refused, none waits for a handle, and each is formed from as it stands. -/
theorem plain_checks (h : ∀ x ∈ ws, Plain s (s.team c).ctx x) : (ws.find? fun x => !s.witOk (s.team c).ctx x) = none ∧
    (ws.map s.asWitness).contains none = false ∧ (ws.map s.asWitness).filterMap id = ws := by
  have as_is : ws.map s.asWitness = ws.map some := List.map_congr_left fun x hx => asWitness_of_kind s (h x hx).2
  refine ⟨List.find?_eq_none.mpr fun x hx => ?_, ?_, ?_⟩
  · simp [(witOk_iff s _ x).mpr (h x hx).1]
  · simp [as_is]
  · rw [as_is, List.filterMap_map]
    exact List.filterMap_some

theorem formWit_some {r : Word} (h : ∀ x ∈ ws, Plain s (s.team c).ctx x) (hr : f ws = some r) :
    s.formWit c w l first d ws f = (.done, s.put c w l first d r) := by
  obtain ⟨ok, known, as_is⟩ := plain_checks h
  simp only [State.formWit, ok, known, as_is, hr, Bool.false_eq_true, if_false]

theorem formWit_none (h : ∀ x ∈ ws, Plain s (s.team c).ctx x) (hr : f ws = none)
    (hl : ∀ x ∈ ws, lateLink s x → s.linkFailed (wConn x) = false) : s.formWit c w l first d ws f = (.park .retry, s) := by
  obtain ⟨ok, known, as_is⟩ := plain_checks h
  simp only [State.formWit, ok, known, as_is, hr, (lostLink_eq_none_iff s ws).mpr hl, Bool.false_eq_true, if_false]

end

/-- The lane goes past its word with the witness in D. -/
theorem leaves_put {s : State} {i : Instr} {l : Nat} (d : BitVec 8) (r : Word) :
    Leaves s l d r s ((s.put s.cur.core s.cur.slot l true d r).modLane s.cur.core s.cur.slot l (LaneOut.done.after i.stall)) := by
  have eff : LaneEff s.cur.core s.cur.slot l (dsts d 1) false s (s.put s.cur.core s.cur.slot l true d r) :=
    LaneEff.putLat s true 0 d r 0 fun h => by simp [dsts, h]
  refine ⟨LanesOnly.step (ls := []) (ms := []) true (LanesOnly.refl _ _ _ _ s) (by simp) eff, fun hd => ?_⟩
  rw [State.reg_after]
  exact State.reg_putLat s true 0 d r 0 hd fun _ => rfl

section
variable {s : State} {i : Instr} {l : Nat} {d : BitVec 8} {ws : State → Nat → Nat → Nat → List Word}
  {f : State → Nat → List Word → Option Word}

/-- A word that forms a witness from others which are at hand leaves it in D. -/
theorem forms_witness {r : Word} (ha : s.Alone i l)
    (hx : exec i s = s.perLane i fun s0 c w l first u => u.formWit c w l first d (ws s0 c w l) (f u c))
    (hp : ∀ x ∈ ws s s.cur.core s.cur.slot l, Plain s (s.team s.cur.core).ctx x)
    (hr : f s s.cur.core (ws s s.cur.core s.cur.slot l) = some r) : ∃ t, exec i s = .next t ∧ Leaves s l d r s t :=
  ⟨_, hx.trans (State.perLane_solo ha rfl (formWit_some hp hr) (by simp)), leaves_put d r⟩

/-- A word that needs a link which is not done waits at it, if no connection of such a link has failed. -/
theorem retries_witness (ha : s.Alone i l)
    (hx : exec i s = s.perLane i fun s0 c w l first u => u.formWit c w l first d (ws s0 c w l) (f u c))
    (hp : ∀ x ∈ ws s s.cur.core s.cur.slot l, Plain s (s.team s.cur.core).ctx x)
    (hr : f s s.cur.core (ws s s.cur.core s.cur.slot l) = none)
    (hl : ∀ x ∈ ws s s.cur.core s.cur.slot l, lateLink s x → s.linkFailed (wConn x) = false) : Retries s i l s :=
  hx.trans (State.perLane_solo (o := .park .retry) ha rfl (formWit_none hp hr hl) (by simp))

end

/-- The witnesses that `wmrg` reads in a lane. -/
def mergeReads (f : Alu) (s : State) (c w l : Nat) : List Word := [s.opnd c w l .wt f.a, s.opnd c w l .wt f.b]

theorem exec_wmrg (f : Alu) (s : State) : exec (.wmrg f) s = s.perLane (.wmrg f) fun s0 c w l first u =>
    u.formWit c w l first f.d (mergeReads f s0 c w l) fun vs => u.merge c (vs.getD 0 0) (vs.getD 1 0) := rfl

theorem exec_wscp (e : Eng) (s : State) : exec (.wscp e) s = s.perLane (.wscp e) fun s0 c w l first u =>
    u.formWit c w l first e.d [s0.opnd c w l .wt e.a] fun vs => u.widen e.sc.code.toNat (vs.getD 0 0) := rfl

/-- R237 and R241: each word leaves its table's witness where the merge or the widening has a value, and waits where it has none. -/
theorem wmrg_and_wscp_form : Claims.Witness_forming := by
  intro s f e l op fine done
  refine ⟨fun ha fa fb => ?_, fun ha fa => ?_⟩
  · have hp : ∀ x ∈ mergeReads f s s.cur.core s.cur.slot l, Plain s (s.team s.cur.core).ctx x := by
      simpa [mergeReads] using ⟨fa, fb⟩
    refine ⟨fun hn => ?_, fun hn hl => ?_⟩
    · obtain ⟨r, hr⟩ := Option.ne_none_iff_exists'.mp (mt (merge_eq_none_iff (c := s.cur.core) fa fb).mp hn)
      obtain ⟨t, hx, ht⟩ := forms_witness ha (exec_wmrg f s) hp hr
      exact ⟨t, r, hx, merged_of_merge fa fb hr, ht⟩
    · exact retries_witness ha (exec_wmrg f s) hp ((merge_eq_none_iff fa fb).mpr hn) hl
  · have hp : ∀ x ∈ [op e.a], Plain s (s.team s.cur.core).ctx x := fun x hx => List.mem_singleton.mp hx ▸ fa
    refine ⟨fun hn => ?_, fun h3 h9 hl => ?_⟩
    · obtain ⟨r, hr⟩ := Option.ne_none_iff_exists'.mp (mt (widen_eq_none_iff fa).mp hn)
      obtain ⟨t, hx, ht⟩ := forms_witness ha (exec_wscp e s) hp hr
      exact ⟨t, r, hx, widened_of_widen fa e.sc.code.isLt hr, ht⟩
    · exact retries_witness ha (exec_wscp e s) hp ((widen_eq_none_iff fa).mpr ⟨h3, h9⟩) (by simpa using fun _ => hl)

/-- Settles O17: the scopes' lists and EXT (`scopes`), and the words that form a witness (`wmrg_and_wscp_form`). -/
theorem witnessForming : Obligations.Witness_forming := ⟨scopes, wmrg_and_wscp_form⟩

end Sys2Proof.Machine

end
